-- ==== Sys2Proof/Word.lean ====
section
/-! DEFINITION. The words of the device: bytes, 16-, 32-, 64- and 128-bit values (R1, R23). -/

namespace Sys2Proof

/-- One byte of a structure in memory (R1). -/
abbrev Byte := BitVec 8
/-- A 16-bit value. -/
abbrev W16 := BitVec 16
/-- A 32-bit value: an instruction word, a U32 entry. -/
abbrev W32 := BitVec 32
/-- A 64-bit value: a general register, a structure word, a U64 entry. -/
abbrev W64 := BitVec 64
/-- A tile descriptor register (R26). -/
abbrev W128 := BitVec 128

end Sys2Proof
end

