-- ==== Sys2Proof/Syntax.lean ====
section
/-! DEFINITION. The commands of the device: one constructor of `Instr` for each row of the table of
operations and events. An instruction of the Zavor instruction set carries its issuer and the raw
fields of its encoding, illegal values included; a message carries its header fields and data; an
event carries the unit it happens at and what the outside world supplies. -/

namespace Sys2Proof

/-- Who executes an instruction: the thread group of a slot of a throughput core, or a control core (R23, R27). -/
inductive Issuer where
  /-- group slot `slot` of logical core `core` of Loam die `die` -/
  | tc (die : Fin 4) (core : Fin 24) (slot : Fin 128)
  /-- control core `n` -/
  | cc (n : Fin 96)
deriving DecidableEq, Repr

/-- Format R without its major and fn: guard [25:22], gd [21:16], ga [15:10], gb [9:4]. -/
structure RF where
  guard : BitVec 4
  gd : BitVec 6
  ga : BitVec 6
  gb : BitVec 6
deriving DecidableEq, Repr

/-- Format I: guard, gd, ga, imm10. -/
structure IF where
  guard : BitVec 4
  gd : BitVec 6
  ga : BitVec 6
  imm : BitVec 10
deriving DecidableEq, Repr

/-- Format I of major 0x07 (SHI) without its kind: res0 [7:6], amount [5:0]. -/
structure ShF where
  guard : BitVec 4
  gd : BitVec 6
  ga : BitVec 6
  res : BitVec 2
  amount : BitVec 6
deriving DecidableEq, Repr

/-- Format S: guard, gd (data), ga (base), sz [9:7], imm7 [6:0]. -/
structure SF where
  guard : BitVec 4
  gd : BitVec 6
  ga : BitVec 6
  sz : BitVec 3
  imm : BitVec 7
deriving DecidableEq, Repr

/-- Format S with the scope of majors 0x10 to 0x1F. -/
structure ScF where
  scope : BitVec 3
  guard : BitVec 4
  gd : BitVec 6
  ga : BitVec 6
  sz : BitVec 3
  imm : BitVec 7
deriving DecidableEq, Repr

/-- Format A without its operation: scope, guard, gd, ga (address), gb, and whether the operand is a
doubleword (`dbl`; AMO.FADD.W has only the word form). -/
structure AF where
  scope : BitVec 3
  guard : BitVec 4
  gd : BitVec 6
  ga : BitVec 6
  gb : BitVec 6
  dbl : Bool
deriving DecidableEq, Repr

/-- Format P: guard, pd [21:19], cond [18:16], ga, gb [9:4], res0 [3:0]. -/
structure PF where
  guard : BitVec 4
  pd : BitVec 3
  cond : BitVec 3
  ga : BitVec 6
  gb : BitVec 6
  res : BitVec 4
deriving DecidableEq, Repr

/-- Format P with imm10 (CMPI). -/
structure PIF where
  guard : BitVec 4
  pd : BitVec 3
  cond : BitVec 3
  ga : BitVec 6
  imm : BitVec 10
deriving DecidableEq, Repr

/-- PLOG: pd [21:19], op [18:16], pa [15:13], pb [12:10], res0 [9:0]. -/
structure PLF where
  guard : BitVec 4
  pd : BitVec 3
  op : BitVec 3
  pa : BitVec 3
  pb : BitVec 3
  res : BitVec 10
deriving DecidableEq, Repr

/-- Format B: guard, off22. -/
structure BF where
  guard : BitVec 4
  off : BitVec 22
deriving DecidableEq, Repr

/-- Format T: td [21:18], ts [17:14], rop [13:11], n [10:4]. -/
structure TF where
  guard : BitVec 4
  td : BitVec 4
  ts : BitVec 4
  rop : BitVec 3
  n : BitVec 7
deriving DecidableEq, Repr

/-- Format X: ta [21:18], shape [17:15], acc [14:13], zero [12], res0 [11:4]. -/
structure XF where
  guard : BitVec 4
  ta : BitVec 4
  shape : BitVec 3
  acc : BitVec 2
  zero : BitVec 1
  res : BitVec 8
deriving DecidableEq, Repr

/-- Format L: guard, gd, ga, res0 [9:4], and the second word imm32. -/
structure LF where
  guard : BitVec 4
  gd : BitVec 6
  ga : BitVec 6
  res : BitVec 6
  imm : W32
deriving DecidableEq, Repr

/-- The header of a Ratline memory or coherence request (R238). -/
structure ReqHdr where
  txn : BitVec 17
  line : BitVec 41
  src : BitVec 9
  ctx : BitVec 12
  part : BitVec 6
  idk : BitVec 2
  gmask : BitVec 8
  boff : BitVec 4
  bsize : BitVec 3
  poison : Bool
  aop : BitVec 5
  thread : BitVec 12
deriving DecidableEq, Repr

/-- The header of a Ratline memory or coherence response (R238). -/
structure RspHdr where
  txn : BitVec 17
  line : BitVec 41
  own : BitVec 25
  status : BitVec 4
  gmask : BitVec 8
  poison : Bool
deriving DecidableEq, Repr

/-- A Shroud packet header (R262, table "Shroud packet header"), without the opcode, which the row names. -/
structure SPkt where
  dst : W16
  src : W16
  hops : BitVec 5
  tag : BitVec 21
  job : W16
  addr : BitVec 48
  sagent : BitVec 9
  thread : BitVec 12
  gmask : BitVec 16
  boff : BitVec 4
  bsize : BitVec 3
  poison : Bool
  aop : BitVec 5
  status : BitVec 4
  rel : Bool
  rgen : BitVec 4
  opx : W64
deriving DecidableEq, Repr

/-- Who sends a request to the dictionary, and on which transport (R344). -/
inductive Requester where
  /-- an endpoint of the management port's I3C -/
  | i3c
  /-- the physical function of a PCI Express port, by MCTP messages -/
  | pf (port : Fin 2)
  /-- a virtual function of a port, by MCTP messages -/
  | vf (port : Fin 2) (f : Fin 32)
  /-- the BAR 0 window of a physical function -/
  | window (port : Fin 2)
  /-- a Shroud control-class sender: its device, the generation it names, whether the packet is directed -/
  | fabric (src : W16) (gen : W32) (directed : Bool)
deriving DecidableEq, Repr

/-- A dictionary request body (R346): the header word's fields and the bytes after it. -/
structure DictBody where
  op : Byte
  tag : Byte
  index : W16
  sub : Byte
  len : BitVec 12
  res : BitVec 12
  rest : List Byte
deriving DecidableEq, Repr

/-- The header of a reduction packet (R172). -/
structure RedHdr where
  line : BitVec 41
  tag : BitVec 12
  rop : BitVec 3
  fmt : BitVec 6
  round : W16
  node : Byte
  ctx : BitVec 12
  gmask : Byte
deriving DecidableEq, Repr

/-- A throughput-core trap record (R44). -/
structure TrapRec where
  ctx : BitVec 12
  cause : Byte
  die : BitVec 3
  core : BitVec 5
  group : BitVec 7
  lane : BitVec 5
  pc : W64
  val : W64
  seq : W32
  lanemask : W32
deriving DecidableEq, Repr

/-- A fault notice: a fault record's words as the requester fills them, and its waiter (R217, R240). -/
structure FaultRec where
  ctx : BitVec 12
  part : BitVec 6
  program : Bool
  reason : BitVec 4
  access : BitVec 4
  first : BitVec 3
  va : W64
  level : BitVec 3
deriving DecidableEq, Repr

/-- The waiter of a fault record (R215): a thread group, or a descriptor's in-flight entry. -/
inductive Waiter where
  | group (die : Fin 4) (core : Fin 24) (slot : Fin 128)
  | entry (n : BitVec 10)
deriving DecidableEq, Repr

/-- The launch placement message's data (R240). -/
structure Placement where
  entry : BitVec 10
  ctx : BitVec 12
  pc : W64
  arg : W64
  first : W32
  groups : W32
  ncoh : Byte
  alloc : BitVec 2
  array : Bool
  tag : BitVec 12
  lss : BitVec 15
  cohort : W32
  map : W64
  mapn : W32
  code : W64
deriving DecidableEq, Repr

/-- An observation record (R400 to R402): trace, gap, log or count. -/
structure ObsRec where
  unit : W16
  event : BitVec 12
  ctx : BitVec 12
  kind : BitVec 2
  arg : BitVec 22
  timer : W64
  param : W64
  seq : W32
  count : W32
deriving DecidableEq, Repr

/-- Where a parity error of the unified cache is found (R178). -/
inductive ParityWhere where
  /-- the data of a line -/
  | data
  /-- the fill data from HBM -/
  | fill
  /-- a slice's tag array -/
  | tag
  /-- the directory store or snoop filter -/
  | directory
deriving DecidableEq, Repr

/-- HBM error kinds (R196). -/
inductive HbmErr where
  | corrected
  | uncorrectable
  /-- read data parity on the interface; whether a reissue succeeded -/
  | readParity (recovered : Bool)
  /-- write data or command/address parity; whether a reissue succeeded -/
  | writeParity (recovered : Bool)
  /-- parity in controller buffers, on a read or on a write -/
  | bufferRead
  | bufferWrite
  /-- parity in an ownership-cache entry -/
  | ownCache
  /-- an ownership-table line failing in one copy, in both copies -/
  | ownOne
  | ownBoth
deriving DecidableEq, Repr

/-- Why a Ratline link is lost with no flit or acknowledgement (R247). -/
inductive LinkLoss where
  | noGoodFlit
  | unacked
deriving DecidableEq, Repr

/-- Why a Shroud port is lost (R257). -/
inductive PortLoss where
  | noGoodFlit
  | unacked
  | replayed32
  | format
deriving DecidableEq, Repr

/-- The identity stage's exchange of a Shroud port's partner (R276). -/
structure PortIdent where
  device : W16
  port : Byte
  role : BitVec 2
  manager : W16
  gen : W32
deriving DecidableEq, Repr

/-- What a Shroud port's bring-up stage meets (R276). -/
inductive PortStage where
  /-- no partner is present -/
  | noPartner
  /-- signal detect: training begins -/
  | detect
  /-- training done -/
  | trained
  /-- idle flits flow, credits granted -/
  | initialised
  /-- identities exchanged -/
  | ident (p : PortIdent)
  /-- keying done -/
  | keyed
  /-- a stage overran its limit -/
  | overrun
deriving DecidableEq, Repr

/-- One component entry of a firmware manifest (R387), and whether its bytes match its digest as read. -/
structure FwComp where
  id : Byte
  svn : Byte
  res0 : Bool
  offset : W32
  length : W32
  entry : W32
  restart : W32
  digest : List Byte
  matched : Bool
deriving DecidableEq, Repr

/-- A firmware slot as the root of trust reads it (R387, R388): the manifest's fields, its bytes, what
the hash and ECDSA engines find, and the monitor firmware's bytes. -/
structure FwSlot where
  readable : Bool
  magic : W32
  format : W16
  ncomp : Byte
  res0 : Bool
  version : W32
  svn : Byte
  signer : Option (Fin 4)
  signed : Bool
  comps : List FwComp
  manifest : List Byte
  monitor : List Byte
deriving DecidableEq, Repr

/-- A responder of SPDM (R395): the DOE mailbox of a function, or an MCTP endpoint (0 I3C, 1 and 2 the ports). -/
inductive Responder where
  | doePf (port : Fin 2)
  | doeVf (port : Fin 2) (f : Fin 32)
  | mctp (ep : Fin 3)
deriving DecidableEq, Repr

/-- What an SPDM request asks (R395). -/
inductive SpdmReq where
  /-- a version or algorithm the device lists, or one it does not -/
  | negotiate (version : Byte) (listed : Bool)
  | digests
  | certificate
  | challenge
  /-- measurement index -/
  | measurement (n : Byte)
  | keyExchange
  | finish
  | heartbeat
  | endSession
  /-- IDE_KM in a secure session: program a stream; selective streams are numbered from 1, 0 is the link stream -/
  | ideKeyProg (stream : Fin 9)
deriving DecidableEq, Repr

/-- A function of a PCI Express port. -/
inductive Func where
  | pf (port : Fin 2)
  | vf (port : Fin 2) (f : Fin 32)
deriving DecidableEq, Repr

/-- What a configuration request does (R315, R361, R419): a write of the SR-IOV capability that enables virtual functions 0 to
n − 1, a write of a function's Bus Master Enable, or any other request, whose effect PCI Express defines. -/
inductive CfgReq where
  | enableVfs (n : Fin 33)
  | busMaster (f : Fin 32) (on : Bool)
  | other
deriving DecidableEq, Repr

/-- A memory access kind (R207, R217): read, write, atomic, fetch. -/
inductive Acc where
  | read
  | write
  | atomic
  | fetch
deriving DecidableEq, Repr

/-- The commands of the device, one constructor for each row of spec/opcode_table.json. -/
inductive Instr where
  /-- ADD (R29): Integer add of ga and gb into gd in every running lane whose guard is true. -/
  | add (x : Issuer) (f : RF)
  /-- SUB (R29): Integer subtract of gb from ga into gd. -/
  | sub (x : Issuer) (f : RF)
  /-- AND (R29): Bitwise AND of ga and gb into gd. -/
  | and (x : Issuer) (f : RF)
  /-- OR (R29): Bitwise OR of ga and gb into gd. -/
  | or (x : Issuer) (f : RF)
  /-- XOR (R29): Bitwise XOR of ga and gb into gd. -/
  | xor (x : Issuer) (f : RF)
  /-- SLL (R29): Shift ga left by gb[5:0] into gd. -/
  | sll (x : Issuer) (f : RF)
  /-- SRL (R29): Logical right shift of ga by gb[5:0] into gd. -/
  | srl (x : Issuer) (f : RF)
  /-- SRA (R29): Arithmetic right shift of ga by gb[5:0] into gd. -/
  | sra (x : Issuer) (f : RF)
  /-- MUL (R29): Low 64 bits of the product of ga and gb into gd. -/
  | mul (x : Issuer) (f : RF)
  /-- MULH (R29): High 64 bits of the signed product into gd. -/
  | mulh (x : Issuer) (f : RF)
  /-- MULHU (R29): High 64 bits of the unsigned product into gd. -/
  | mulhu (x : Issuer) (f : RF)
  /-- DIV (R36): Signed quotient rounded toward zero, with fixed results for division by zero and overflow. -/
  | div (x : Issuer) (f : RF)
  /-- DIVU (R36): Unsigned quotient, all ones on division by zero. -/
  | divu (x : Issuer) (f : RF)
  /-- REM (R36): Signed remainder, the dividend on division by zero. -/
  | rem (x : Issuer) (f : RF)
  /-- REMU (R36): Unsigned remainder, the dividend on division by zero. -/
  | remu (x : Issuer) (f : RF)
  /-- MIN (R29): Signed minimum of ga and gb into gd. -/
  | min (x : Issuer) (f : RF)
  /-- MAX (R29): Signed maximum of ga and gb into gd. -/
  | max (x : Issuer) (f : RF)
  /-- MINU (R29): Unsigned minimum of ga and gb into gd. -/
  | minu (x : Issuer) (f : RF)
  /-- MAXU (R29): Unsigned maximum of ga and gb into gd. -/
  | maxu (x : Issuer) (f : RF)
  /-- CLZ (R34): Leading-zero count of ga into gd; gb must be g0. -/
  | clz (x : Issuer) (f : RF)
  /-- POPC (R34): Population count of ga into gd; gb must be g0. -/
  | popc (x : Issuer) (f : RF)
  /-- ADDI (R29): Add sign-extended imm10 to ga into gd. -/
  | addi (x : Issuer) (f : IF)
  /-- ANDI (R29): AND ga with zero-extended imm10 into gd. -/
  | andi (x : Issuer) (f : IF)
  /-- ORI (R29): OR ga with zero-extended imm10 into gd. -/
  | ori (x : Issuer) (f : IF)
  /-- XORI (R29): XOR ga with zero-extended imm10 into gd. -/
  | xori (x : Issuer) (f : IF)
  /-- SLLI (R29): Shift ga left by an immediate amount 0 to 63. -/
  | slli (x : Issuer) (f : ShF)
  /-- SRLI (R29): Logical right shift of ga by an immediate amount. -/
  | srli (x : Issuer) (f : ShF)
  /-- SRAI (R29): Arithmetic right shift of ga by an immediate amount. -/
  | srai (x : Issuer) (f : ShF)
  /-- MOVL (R33): Long form: gd takes sign-extended imm32. -/
  | movl (x : Issuer) (f : LF)
  /-- MOVH (R33): Long form: gd[63:32] takes imm32, keeping gd[31:0]. -/
  | movh (x : Issuer) (f : LF)
  /-- ADDL (R33): Long form: gd takes ga plus sign-extended imm32. -/
  | addl (x : Issuer) (f : LF)
  /-- ORL (R33): Long form: gd takes ga OR zero-extended imm32. -/
  | orl (x : Issuer) (f : LF)
  /-- CMP (R29): Set predicate pd from comparing ga and gb under cond. -/
  | cmp (x : Issuer) (f : PF)
  /-- CMPI (R29): Set predicate pd from comparing ga with a sign-extended immediate. -/
  | cmpi (x : Issuer) (f : PIF)
  /-- PLOG (R29): Predicate logic AND, OR, XOR or ANDN of pa and pb into pd. -/
  | plog (x : Issuer) (f : PLF)
  /-- B (R48): Branch by a signed instruction offset, splitting and merging reconvergence-stack entries. -/
  | b (x : Issuer) (f : BF)
  /-- CALL (R25): Branch, writing the return address to g15. -/
  | call (x : Issuer) (f : BF)
  /-- JR (R47): Indirect jump writing PC + 4 to gd; a target of 0 makes the lane exit. -/
  | jr (x : Issuer) (f : IF)
  /-- LD (R30): Load of size sz with sign or zero extension, served through translation and caches. -/
  | ld (x : Issuer) (f : SF)
  /-- ST (R30): Store of size sz into memory or the local store. -/
  | st (x : Issuer) (f : SF)
  /-- LD_V (R130): Load served at the home slice, bypassing the constant cache. -/
  | ldv (x : Issuer) (f : SF)
  /-- ACQ (R136): Acquire load at a scope, ordering later accesses after it. -/
  | acq (x : Issuer) (f : ScF)
  /-- REL (R135): Release store at a scope, performed after earlier accesses are performed in that scope. -/
  | rel (x : Issuer) (f : ScF)
  /-- LDRES (R138): Load and set a reservation on the line. -/
  | ldres (x : Issuer) (f : SF)
  /-- STCOND (R140): Store if the reservation holds, writing 0 on success or 1 on failure to gd. -/
  | stcond (x : Issuer) (f : RF) (dbl : Bool)
  /-- AMO_ADD (R143): Atomic add at the home slice, returning the old value, lanes combined under R56. -/
  | amoAdd (x : Issuer) (f : AF)
  /-- AMO_AND (R143): Atomic AND at the home slice. -/
  | amoAnd (x : Issuer) (f : AF)
  /-- AMO_OR (R143): Atomic OR at the home slice. -/
  | amoOr (x : Issuer) (f : AF)
  /-- AMO_XOR (R143): Atomic XOR at the home slice. -/
  | amoXor (x : Issuer) (f : AF)
  /-- AMO_MIN (R143): Atomic signed minimum at the home slice. -/
  | amoMin (x : Issuer) (f : AF)
  /-- AMO_MAX (R143): Atomic signed maximum at the home slice. -/
  | amoMax (x : Issuer) (f : AF)
  /-- AMO_SWAP (R56): Atomic swap at the home slice. -/
  | amoSwap (x : Issuer) (f : AF)
  /-- AMO_CAS (R56): Atomic compare-and-swap at the home slice, lanes applied in lane order. -/
  | amoCas (x : Issuer) (f : AF)
  /-- AMO_MINU (R143): Atomic unsigned minimum at the home slice. -/
  | amoMinu (x : Issuer) (f : AF)
  /-- AMO_MAXU (R143): Atomic unsigned maximum at the home slice. -/
  | amoMaxu (x : Issuer) (f : AF)
  /-- AMO_FADD_W (R144): Atomic FP32 add at the home slice, possibly setting the non-reproducible flag. -/
  | amoFadd (x : Issuer) (f : AF)
  /-- BARL (R133): Wait until every earlier load has returned before later accesses. -/
  | barl (x : Issuer) (f : RF)
  /-- BARS (R133): Wait until every earlier store is performed at its home. -/
  | bars (x : Issuer) (f : RF)
  /-- BARF (R133): Full barrier waiting for earlier loads and stores, and for XINV completion. -/
  | barf (x : Issuer) (f : RF)
  /-- ISYNC (R129): Discard the thread's instruction-fetch state. -/
  | isync (x : Issuer) (f : RF)
  /-- GBAR (R50): Park lanes at a group barrier, completing when one parked entry remains. -/
  | gbar (x : Issuer) (f : RF)
  /-- CBAR (R52): Park the group at a cohort barrier, released when every live cohort member has arrived. -/
  | cbar (x : Issuer) (f : RF)
  /-- SHFL (R432): Read ga of another lane into gd. -/
  | shfl (x : Issuer) (f : RF)
  /-- BALLOT (R432): Write the mask of running, guarded lanes whose pa is true. -/
  | ballot (x : Issuer) (f : RF)
  /-- TDSET (R59): Build a tile descriptor from two general registers, issued once for the group. -/
  | tdset (x : Issuer) (f : RF)
  /-- TDGETL (R59): Read the low half of a tile descriptor into gd. -/
  | tdgetl (x : Issuer) (f : RF)
  /-- TDGETH (R59): Read the high half of a tile descriptor into gd. -/
  | tdgeth (x : Issuer) (f : RF)
  /-- TMOVE (R37): Translate and start a tile copy or reduction between two tiles. -/
  | tmove (x : Issuer) (f : TF)
  /-- TWAIT (R60): Hold the group until at most n of its TMOVEs are outstanding. -/
  | twait (x : Issuer) (f : TF)
  /-- MLOAD (R82): Queue a load of a weight set into the shadow bank. -/
  | mload (x : Issuer) (f : XF)
  /-- MSTREAM (R77): Queue streaming of input rows through the active bank into an accumulator set. -/
  | mstream (x : Issuer) (f : XF)
  /-- MSWAP (R83): Queue exchange of the active and shadow banks. -/
  | mswap (x : Issuer) (f : XF)
  /-- MDRAIN (R91): Queue conversion and write of an accumulator set to a tile. -/
  | mdrain (x : Issuer) (f : XF)
  /-- MWAIT (R60): Hold the group until every matrix instruction it issued has completed. -/
  | mwait (x : Issuer) (f : XF)
  /-- FADD (R114): FP32 add rounded under FCSR.RM. -/
  | fadd (x : Issuer) (f : RF)
  /-- FSUB (R114): FP32 subtract rounded under FCSR.RM. -/
  | fsub (x : Issuer) (f : RF)
  /-- FMUL (R114): FP32 multiply rounded under FCSR.RM. -/
  | fmul (x : Issuer) (f : RF)
  /-- FMA (R114): FP32 fused multiply-add with one rounding. -/
  | fma (x : Issuer) (f : RF)
  /-- FDIV (R114): FP32 divide rounded under FCSR.RM. -/
  | fdiv (x : Issuer) (f : RF)
  /-- FSQRT (R114): FP32 square root of ga. -/
  | fsqrt (x : Issuer) (f : RF)
  /-- FMIN (R115): FP32 minimum with NaN and signed-zero rules. -/
  | fmin (x : Issuer) (f : RF)
  /-- FMAX (R115): FP32 maximum with NaN and signed-zero rules. -/
  | fmax (x : Issuer) (f : RF)
  /-- FCVT_I (R115): Convert FP32 to a saturated signed 32-bit integer. -/
  | fcvtI (x : Issuer) (f : RF)
  /-- FCVT_F (R115): Convert a signed 64-bit integer to FP32. -/
  | fcvtF (x : Issuer) (f : RF)
  /-- FCMP (R115): Compare FP32 values into a predicate. -/
  | fcmp (x : Issuer) (f : PF)
  /-- SRD (R40): Read a system register into gd, with privilege checks. -/
  | srd (x : Issuer) (f : IF)
  /-- SWR (R40): Write a system register that has no command of its own. -/
  | swr (x : Issuer) (f : IF)
  /-- GCTL_HALT (R71): GCTL command 1: halt the group selected by GSEL. -/
  | gctlHalt (x : Issuer) (f : IF)
  /-- GCTL_RESUME (R71): GCTL command 2: check and reload the selected group's image and run it. -/
  | gctlResume (x : Issuer) (f : IF)
  /-- GCTL_SINGLE_STEP (R71): GCTL command 3: run one instruction of the selected group, then halt it. -/
  | gctlSingleStep (x : Issuer) (f : IF)
  /-- TRAP (R28): System call, or monitor call at supervisor or monitor level. -/
  | trap (x : Issuer) (f : RF)
  /-- BRK (R28): Debug breakpoint trap. -/
  | brk (x : Issuer) (f : RF)
  /-- SRET (R28): Return from a supervisor trap, restoring level and enable from TSTAT. -/
  | sret (x : Issuer) (f : RF)
  /-- MRET (R28): Return from a monitor trap, restoring level and enable from MSTAT. -/
  | mret (x : Issuer) (f : RF)
  /-- WAITI (R42): Stall the control core until an interrupt source is pending. -/
  | waiti (x : Issuer) (f : RF)
  /-- XINV (R223): Invalidate a context's translations and mark held entries dying. -/
  | xinv (x : Issuer) (f : RF)
  /-- EPOCH (R278): Request an epoch commit at a cheap point and return the epoch number. -/
  | epoch (x : Issuer) (f : RF)
  /-- WATCH (R322): Register a watch handle on a line. -/
  | watch (x : Issuer) (f : RF)
  /-- UNWATCH (R322): Release a watch handle. -/
  | unwatch (x : Issuer) (f : RF)
  /-- INTERRUPT_TAKEN (R42): A control core with interrupts enabled takes the oldest pending source. -/
  | interruptTaken (n : Fin 96)
  /-- TMOVE_COMPLETE (R145): A TMOVE finishes its granule writes and releases its held translations. -/
  | tmoveComplete (x : Issuer) (k : Nat)
  /-- MATRIX_START (R88): The array starts a queued matrix instruction once its engine, operands and ordering allow. -/
  | matrixStart (d : Fin 4) (c : Fin 24) (k : Nat)
  /-- MATRIX_COMPLETE (R88): A matrix instruction completes and frees its queue entry and locks. -/
  | matrixComplete (d : Fin 4) (c : Fin 24) (k : Nat)
  /-- HOLD_TAPER_END (R93): The current-hold taper ends 1,250 gap cycles after a gap opens and the array goes idle. -/
  | holdTaperEnd (d : Fin 4) (c : Fin 24)
  /-- RAMP_STEP (R378): An array's ramp ceiling rises by one after 32 arithmetic cycles. -/
  | rampStep (d : Fin 4) (c : Fin 24)
  /-- ARRAY_PARITY_ERROR (R98): Parity error in array storage tears down the owning context for replay. -/
  | arrayParityError (d : Fin 4) (c : Fin 24)
  /-- CHEAP_POINT_SAVE (R65): A group asked to save reaches a cheap point and writes its kind-0 image. -/
  | cheapPointSave (d : Fin 4) (c : Fin 24) (slot : Fin 128)
  /-- PREEMPTION_LATE (R66): The pre-emption wait limit expires with groups not yet saved. -/
  | preemptionLate (ctx : BitVec 12)
  /-- GROUP_RESTORE (R68): A core checks and restores a group image. -/
  | groupRestore (d : Fin 4) (c : Fin 24) (slot : Fin 128) (ctx : BitVec 12) (q : Nat)
  /-- GROUP_HALT (R70): A group stops issuing at a halt or trap and its kind-1 image is written once outstanding work completes. -/
  | groupHalt (d : Fin 4) (c : Fin 24) (slot : Fin 128)
  /-- STORE_TIMEOUT (R150): A store leaving the device is unacknowledged within its limit and is declared failed. -/
  | storeTimeout (id : Nat)
  /-- RESERVATION_DEFERRAL_EXPIRY (R141): After 512 control cycles the holder serves requests deferred by a reservation. -/
  | reservationDeferralExpiry (line : BitVec 41)
  /-- SNOOP_TIMEOUT (R163): A snoop timer of 2 µs expires and the coherent domain goes down. -/
  | snoopTimeout (line : BitVec 41) (agent : BitVec 9)
  /-- RLOCK_TIMEOUT (R244): A line lock held for 2 µs takes the domain down with cause snoop timeout. -/
  | rlockTimeout (line : BitVec 41)
  /-- COMBINE_WAIT_EXPIRY (R174): A router's 64-cycle wait for a node's children expires and it forwards the packets. -/
  | combineWaitExpiry (router : BitVec 7) (line : BitVec 41) (tag : BitVec 12)
  /-- REDUCTION_PACKET (R173): A reduction packet reaches a router or home and is combined or applied. -/
  | reductionPacket (router : Option (BitVec 7)) (h : RedHdr) (src : W16) (agent : BitVec 9) (data : List Byte)
  /-- SLICE_PARITY_ERROR (R178): A parity error on a slice tag or data read is handled by refetch, poison or domain loss. -/
  | sliceParityError (slice : Fin 40) (whr : ParityWhere) (line : BitVec 41)
  /-- DOMAIN_DOWN (R179): A domain-loss event takes the coherent domain down and starts its restart. -/
  | domainDown (cause : Fin 5) (ref : W16)
  /-- DOMAIN_USABLE (R179): The restart completes and the coherent domain is usable again. -/
  | domainUsable (us : W32) (intact : Bool)
  /-- RD (R157): Ratline non-allocating read request served at the home. -/
  | rd (h : ReqHdr)
  /-- WRF (R157): Ratline full-line write request. -/
  | wrf (h : ReqHdr) (data : List Byte)
  /-- WRP (R157): Ratline partial write request. -/
  | wrp (h : ReqHdr) (data : List Byte)
  /-- AMO (R172): Ratline atomic request applied at the home slice. -/
  | amo (h : ReqHdr) (data : List Byte)
  /-- RES (R138): Ratline reservation read by a lane. -/
  | res (h : ReqHdr)
  /-- SCOND (R140): Ratline conditional store by a lane. -/
  | scond (h : ReqHdr) (data : List Byte)
  /-- RLOCK (R244): Read a line and mark it RP for a core-side reduction. -/
  | rlock (h : ReqHdr)
  /-- WUNLOCK (R244): Write reduced granules and clear RP. -/
  | wunlock (h : ReqHdr) (data : List Byte)
  /-- FILL (R185): Home asks an HBM controller for a 256-byte access. -/
  | fill (h : ReqHdr)
  /-- WBK (R157): Home writes a line back to HBM. -/
  | wbk (h : ReqHdr) (data : List Byte)
  /-- CRD (R157): Control-core read request at the home. -/
  | crd (h : ReqHdr)
  /-- CRDO (R157): Control-core read for ownership at the home. -/
  | crdo (h : ReqHdr)
  /-- CWB (R165): Writeback of a modified line by its owner. -/
  | cwb (h : ReqHdr) (data : List Byte)
  /-- CEVN (R159): Clean eviction notice from a control core. -/
  | cevn (h : ReqHdr)
  /-- DREQ (R159): Loam home asks the directory to snoop, invalidate or recall. -/
  | dreq (h : ReqHdr) (kind : BitVec 4)
  /-- DATA (R238): Ratline read data response. -/
  | data (h : RspHdr) (d : List Byte)
  /-- ACK (R238): Ratline write-performed response. -/
  | ack (h : RspHdr)
  /-- AMORSP (R238): Ratline atomic response with the old value. -/
  | amorsp (h : RspHdr) (d : List Byte)
  /-- SCRSP (R140): Ratline conditional-store response. -/
  | scrsp (h : RspHdr)
  /-- REFUSE (R192): Ratline refusal for ownership or an uncovered address. -/
  | refuse (h : RspHdr)
  /-- FILLDATA (R191): One line of a fill with its ownership fields; the home installs it. -/
  | filldata (h : RspHdr) (d : List Byte)
  /-- GRANT (R160): Grant of a line to a control core in E or S. -/
  | grant (h : RspHdr) (n : Fin 96) (shared : Bool) (d : List Byte)
  /-- DRSP (R159): Directory done response to a home. -/
  | drsp (h : RspHdr) (d : List Byte)
  /-- NOHOLD (R159): Directory reports no holder; the home clears its hint. -/
  | nohold (h : RspHdr)
  /-- WATCHED_LINE_SIGNAL (R322): A write to a watched line signals the handle's consumer. -/
  | watchedLineSignal (handles : List (BitVec 14)) (consumer : Option (Fin 96))
  /-- LAUNCH_PLACEMENT (R240): A throughput core receives a cohort to run. -/
  | launchPlacement (d : Fin 4) (c : Fin 24) (p : Placement)
  /-- TRANSLATION_INVALIDATION (R240): A die receives an XINV's invalidation. -/
  | translationInvalidation (d : Fin 5) (n : Fin 96) (gb : BitVec 13) (ga : W64)
  /-- TRAP_RECORD (R44): The dispatcher receives a trap record and appends it to the trap queue. -/
  | trapRecord (r : TrapRec)
  /-- FAULT_NOTICE (R218): The dispatcher receives a fault and opens or joins a fault record. -/
  | faultNotice (w : Waiter) (r : FaultRec)
  /-- INTERRUPT (R42): A control core receives an interrupt source into its pending list. -/
  | interrupt (n : Fin 96) (source : BitVec 24)
  /-- WORK_DONE_COHORT_ENDED (R240): A core reports that every group of a cohort has ended. -/
  | workDoneCohortEnded (d : Fin 4) (c : Fin 24) (ctx : BitVec 12) (cohort : W32)
  /-- WORK_DONE_INVALIDATION (R240): A die reports an XINV complete for its caches and engines. -/
  | workDoneInvalidation (d : Fin 5) (n : Fin 96) (ga : W64)
  /-- WORK_DONE_GROUP_IMAGE (R240): A core reports a group image written. -/
  | workDoneGroupImage (d : Fin 4) (c : Fin 24) (slot : Fin 128) (ctx : BitVec 12)
  /-- WORK_DONE_PLACEMENT_REFUSED (R240): A core refuses a cohort and the dispatcher places it again. -/
  | workDonePlacementRefused (d : Fin 4) (c : Fin 24) (ctx : BitVec 12) (cohort : W32)
  /-- TRACE_RECORD (R404): The trace engine receives a die's trace record and copies it to its queues. -/
  | traceRecord (d : Fin 5) (r : ObsRec)
  /-- COUNTER_READ (R411): A die receives a counter read from the Halyard controller. -/
  | counterRead (d : Fin 5) (index : W16) (sub : Byte) (tag : W64)
  /-- COUNTER_DATA (R411): The Halyard controller receives a counter value. -/
  | counterData (index : W16) (sub : Byte) (tag : W64) (value : W64) (status : BitVec 4)
  /-- RATLINE_FLIT_RECEIVED (R246): A module receives a flit, checks CRC and order, applies ACK, NAK and credits. -/
  | ratlineFlitReceived (link : Fin 8) (far : Bool) (m : Fin 50) (flit : List Byte)
  /-- CREDIT_RETURN_IDLE (R235): After 16 flit times without a flit an idle flit carries owed credits. -/
  | creditReturnIdle (link : Fin 8) (far : Bool) (m : Fin 50)
  /-- IDLE_FLIT (R228): The transmitter sends its periodic idle flit within every 2,048 flit times. -/
  | idleFlit (link : Fin 8) (far : Bool) (m : Fin 50)
  /-- ROOT_PLL_LOCK (R10): A die's root PLL first locks; the timer starts, straps latch and link training begins. -/
  | rootPllLock (d : Fin 5) (loc : BitVec 3)
  /-- PLL_LOCK_TIMEOUT (R418): A Loam root PLL not locked by 400 ms fails start-up with state 6. -/
  | pllLockTimeout (d : Fin 5)
  /-- LOSS_OF_LOCK (R18): A die's PLL loses lock, stops its clocks and its links are lost. -/
  | lossOfLock (d : Fin 5)
  /-- PLL_RELOCK (R18): A die's PLL relocks and its clocks and timer resume. -/
  | pllRelock (d : Fin 5)
  /-- IDENT (R10): A die receives IDENT; a Spar answer fixes position and roles, a ring IDENT is checked under R12. -/
  | ident (d : Fin 5) (phy : Fin 4) (spar : Bool) (port : Byte) (rev : W16)
  /-- POSITION_PROBE_TIMEOUT (R13): No Spar answer within 200 ms of lock fails start-up. -/
  | positionProbeTimeout (d : Fin 4)
  /-- CAPS (R242): A die receives capability bits and forms the intersection. -/
  | caps (link : Fin 8) (far : Bool) (major : Byte) (minor : Byte) (mask : W64)
  /-- CREDIT (R235): A die receives initial credits and the link becomes active. -/
  | credit (link : Fin 8) (far : Bool) (credits : W64)
  /-- LINK_REFUSE (R242): A die receives a link refusal and stops the link. -/
  | linkRefuse (link : Fin 8) (far : Bool) (reason : Byte)
  /-- RETRAIN (R16): A link or module retrains in-band and renegotiates capabilities. -/
  | retrain (link : Fin 8) (module : Byte)
  /-- TRAINING_STAGE_TIMEOUT (R241): A training stage overruns its limit and training retries, failing after 8 tries. -/
  | trainingStageTimeout (link : Fin 8)
  /-- LINK_LOSS_TIMEOUT (R247): A module gets no good flit or no acknowledgement for 1 µs and the link is lost. -/
  | linkLossTimeout (link : Fin 8) (why : LinkLoss)
  /-- SIDEBAND_FRAME (R248): A sideband frame is received and its link state acted on. -/
  | sidebandFrame (link : Fin 8) (far : Bool) (frame : W16)
  /-- SIDEBAND_TIMEOUT (R248): No valid sideband frame for 64 ticks; the link is lost. -/
  | sidebandTimeout (link : Fin 8) (far : Bool)
  /-- RATLINE_RECALIBRATION (R249): A 250 ms recalibration pass excludes and retunes lanes, or holds traffic. -/
  | ratlineRecalibration (link : Fin 8) (far : Bool) (m : Fin 50) (lane : Fin 84)
  /-- RECALIBRATION_LANE_RETURN (R249): A lane excluded for recalibration returns after 20 µs. -/
  | recalibrationLaneReturn (link : Fin 8) (far : Bool) (m : Fin 50) (lane : Fin 84)
  /-- RATLINE_PARITY_ERROR (R251): Buffer parity poisons a data slot or loses the link. -/
  | ratlineParityError (link : Fin 8) (far : Bool) (m : Fin 50) (header : Bool) (worst : Fin 84)
  /-- HBM_ERROR (R196): An HBM controller meets a stack, interface or buffer error. -/
  | hbmError (k : Fin 12) (j : Fin 32) (e : HbmErr) (line : BitVec 33)
  /-- PER_BANK_REFRESH (R198): Refresh of one bank at the standard or doubled interval. -/
  | perBankRefresh (k : Fin 12) (j : Fin 32) (bank : Byte)
  /-- HBM_TEMPERATURE_CHANGE (R198): A stack crosses 85 °C or 82 °C and refresh doubles or returns to normal. -/
  | hbmTemperatureChange (k : Fin 12) (celsius : Int)
  /-- INTERFACE_RECALIBRATION (R198): A channel's 500 ms interface recalibration. -/
  | interfaceRecalibration (k : Fin 12) (j : Fin 32)
  /-- ZEROING_COMPLETE (R195): Every channel has zeroed a frame's stripes and ZERO is cleared. -/
  | zeroingComplete (frame : BitVec 24)
  /-- FRAME_COMMAND (R193): A write of the frame command asks for a change of ownership entries. -/
  | frameCommand (q : Requester) (w0 w1 w2 : W64)
  /-- FRAME_UPDATE (R194): Once holding descriptors finish, the controller rewrites a frame's entry, zeroing as needed. -/
  | frameUpdate
  /-- PLACEMENT_REGION_WRITE (R186): A write to a placement region remaps, evicts and zeroes its frames. -/
  | placementRegionWrite (q : Requester) (r : Byte) (sub : Byte) (value : W64)
  /-- TRANSLATION_WALK (R202): A walker completes a page walk with a translation or a fault. -/
  | translationWalk (pool : Fin 5) (ctx : BitVec 12) (va : W64) (acc : Acc)
  /-- FAULT_RECORD_RESOLVE (R220): A HEAD write on the fault ring makes the dispatcher act on resolved records. -/
  | faultRecordResolve (p : Fin 64) (head : W64)
  /-- FAULT_RING_WRITE (R217): A write enabling, moving or disabling a fault ring, taking or freeing its watch handle. -/
  | faultRingWrite (q : Requester) (p : Fin 64) (sub : Byte) (value : W64)
  /-- FOOTPRINT_CHECK (R209): The dispatcher finishes translating and checking a descriptor footprint. -/
  | footprintCheck (entry : BitVec 10)
  /-- PARTITION_CREATE (R310): Partition command OP 1 creates a partition. -/
  | partitionCreate (q : Requester) (words : List W64)
  /-- PARTITION_RESET_BY_DRAIN (R311): Partition command OP 2 resets a partition by drain. -/
  | partitionResetByDrain (q : Requester) (words : List W64)
  /-- PARTITION_RESET_BY_SQUASH (R311): Partition command OP 3 resets a partition by squash. -/
  | partitionResetBySquash (q : Requester) (words : List W64)
  /-- PARTITION_DESTROY (R312): Partition command OP 4 destroys a partition. -/
  | partitionDestroy (q : Requester) (words : List W64)
  /-- DRAIN_LIMIT_EXPIRY (R311): The drain limit passes and the reset continues as a squash. -/
  | drainLimitExpiry (p : Fin 64)
  /-- CONTEXT_CREATE (R318): Context command OP 1 creates a context. -/
  | contextCreate (q : Requester) (words : List W64)
  /-- CONTEXT_SQUASH (R321): Context command OP 2 squashes a context. -/
  | contextSquash (q : Requester) (words : List W64)
  /-- CONTEXT_DESTROY (R321): Context command OP 3 destroys a context. -/
  | contextDestroy (q : Requester) (words : List W64)
  /-- CONTEXT_PREEMPT (R333): Context command OP 4 pre-empts a context. -/
  | contextPreempt (q : Requester) (words : List W64)
  /-- QUEUE_CREATE (R323): Queue command OP 1 creates a queue. -/
  | queueCreate (q : Requester) (words : List W64)
  /-- QUEUE_DELETE (R323): Queue command OP 2 deletes a queue. -/
  | queueDelete (q : Requester) (words : List W64)
  /-- QUEUE_SELECT (R323): A write to 0x3121:03 selects the queue whose state is reported. -/
  | queueSelect (q : Requester) (handle : W16)
  /-- DESCRIPTOR_FETCH (R324): On a tail signal the dispatcher reads TAIL and fetches descriptors. -/
  | descriptorFetch (handle : BitVec 14)
  /-- LAUNCH (R328): An eligible LAUNCH descriptor starts placing its groups. -/
  | launch (entry : BitVec 10)
  /-- COPY (R330): An eligible COPY descriptor runs the copy engine. -/
  | copy (entry : BitVec 10)
  /-- COLLECTIVE (R267): An eligible COLLECTIVE descriptor runs a tree reduction. -/
  | collective (entry : BitVec 10)
  /-- STEP (R329): An eligible STEP descriptor runs its graph or fall-back graph. -/
  | step (entry : BitVec 10)
  /-- COHORT_PLACEMENT (R331): The dispatcher places a cohort on a core as resources free. -/
  | cohortPlacement (entry : BitVec 10) (d : Fin 4) (c : Fin 24)
  /-- PRIORITY_PREEMPTION (R332): An unplaceable PRIO 7 launch makes the dispatcher pre-empt a context. -/
  | priorityPreemption (entry : BitVec 10)
  /-- COMPLETION_RECORD_WRITE (R334): The dispatcher writes a completion record once work completes and ring room allows. -/
  | completionRecordWrite (entry : BitVec 10)
  /-- COMPLETION_RING_POLL (R334): Every 10 µs the dispatcher rereads HEAD while a record waits. -/
  | completionRingPoll (handle : BitVec 14)
  /-- MIGRATION_TRACKING_SET (R340): Turning migration tracking on or off, freeing KIND 2 records when off. -/
  | migrationTrackingSet (q : Requester) (p : Fin 64) (value : Byte)
  /-- HARVEST (R341): A harvest lists written frames into a buffer. -/
  | harvest (q : Requester) (p : Fin 64) (w0 w1 : W64)
  /-- SILT_COPY (R280): The first write to a preserved frame in an epoch is held while the frame is copied to a silt slot. -/
  | siltCopy (frame : BitVec 24) (writer : W16)
  /-- SILT_POOL_RESIZE (R284): A write to 0x7010:01 changes the pool size and its system frames. -/
  | siltPoolResize (q : Requester) (pct : Byte)
  /-- EPOCH_REQUEST (R287): The coordinator receives a commit request. -/
  | epochRequest (src : W16) (job : W16) (epoch : W64)
  /-- EPOCH_PREPARE (R288): A device stops the job's work at a cut. -/
  | epochPrepare (src : W16) (gen : W32) (job : W16) (epoch : W64)
  /-- CUT_REACHED (R288): All work of the job has stopped and requests completed; PREPARED is sent. -/
  | cutReached (slot : Byte)
  /-- EPOCH_PREPARED (R287): The coordinator receives PREPARED and sends COMMIT when all have. -/
  | epochPrepared (src : W16) (job : W16) (epoch : W64)
  /-- EPOCH_COMMIT (R287): A device commits the epoch, frees slots and resumes work. -/
  | epochCommit (src : W16) (gen : W32) (job : W16) (epoch : W64)
  /-- EPOCH_COMMITTED (R287): The coordinator receives COMMITTED. -/
  | epochCommitted (src : W16) (job : W16) (epoch : W64)
  /-- EPOCH_ABANDON (R289): A device resumes stopped work with the open epoch unchanged. -/
  | epochAbandon (src : W16) (gen : W32) (job : W16) (epoch : W64)
  /-- EPOCH_FAULT (R290): The coordinator receives a fault class and chooses a rollback target. -/
  | epochFault (src : W16) (job : W16) (cls : Byte)
  /-- EPOCH_STOP (R290): A device tears down the job's contexts and sends STOPPED once its requests finish. -/
  | epochStop (src : W16) (gen : W32) (job : W16)
  /-- EPOCH_STOPPED (R290): The coordinator receives STOPPED. -/
  | epochStopped (src : W16) (job : W16)
  /-- EPOCH_RESTORE (R291): A device restores logged frames and dispatch state to the target epoch. -/
  | epochRestore (src : W16) (gen : W32) (job : W16) (target : W64)
  /-- EPOCH_RESTORED (R290): The coordinator receives RESTORED. -/
  | epochRestored (src : W16) (job : W16)
  /-- EPOCH_RESUME (R290): A device re-enables the job and restarts its work. -/
  | epochResume (src : W16) (gen : W32) (job : W16)
  /-- EPOCH_MIRRORED (R295): Mirroring of an epoch is complete and M advances. -/
  | epochMirrored (src : W16) (job : W16) (epoch : W64)
  /-- EPOCH_QUERY (R289): A device answers a new manager's query with STATE. -/
  | epochQuery (src : W16) (gen : W32) (job : W16)
  /-- EPOCH_STATE (R289): A new manager receives a device's slot state and committed epoch. -/
  | epochState (src : W16) (job : W16) (state : Byte) (epoch : W64)
  /-- FAULT_WINDOW_CLOSE (R298): A unit's 2^34-tick fault-counting window closes. -/
  | faultWindowClose (unit : W32)
  /-- REPLICA_PAIR_ACTIVATE (R301): A write activating a replica pair, refused if ranges conflict. -/
  | replicaPairActivate (q : Requester) (r : Fin 32) (sub : Byte) (value : W64)
  /-- SHROUD_FLIT_RECEIVED (R255): A port receives a flit, checks CRC and tag, and handles ACK, NAK and credits. -/
  | shroudFlitReceived (port : Fin 18) (flit : List Byte) (tagOk : Bool)
  /-- SHROUD_PORT_LOSS (R257): A port meets a loss condition, discards packets and returns to training. -/
  | shroudPortLoss (port : Fin 18) (why : PortLoss)
  /-- PORT_BRINGUP (R276): A port passes its bring-up stages to state 5 or restarts on overrun. -/
  | portBringup (port : Fin 18) (stage : PortStage)
  /-- PACKET_FORWARD (R260): A packet for another device is routed on by the route table. -/
  | packetForward (port : Fin 18) (op : BitVec 6) (p : SPkt) (data : List Byte)
  /-- DIRECTED_PACKET (R270): A directed control packet is forwarded or handled and answered. -/
  | directedPacket (port : Fin 18) (op : BitVec 6) (reply : Bool) (p : SPkt) (data : List Byte)
  /-- SHROUD_RD (R263): A remote read request is mapped through the job table and served. -/
  | shroudRd (port : Fin 18) (p : SPkt)
  /-- WR (R264): A remote write, or REL.4, performed at its home and acknowledged. -/
  | wr (port : Fin 18) (p : SPkt) (data : List Byte)
  /-- SHROUD_AMO (R264): A remote atomic served at the target home. -/
  | shroudAmo (port : Fin 18) (p : SPkt) (data : List Byte)
  /-- SHROUD_RES (R264): A remote reservation read. -/
  | shroudRes (port : Fin 18) (p : SPkt)
  /-- SHROUD_SCOND (R264): A remote conditional store. -/
  | shroudScond (port : Fin 18) (p : SPkt) (data : List Byte)
  /-- RED (R264): A remote reduction applied as untagged. -/
  | red (port : Fin 18) (p : SPkt) (data : List Byte)
  /-- SHROUD_DATA (R262): A remote read response arrives at the requester. -/
  | shroudData (port : Fin 18) (p : SPkt) (data : List Byte)
  /-- SHROUD_ACK (R262): A remote write acknowledgement arrives. -/
  | shroudAck (port : Fin 18) (p : SPkt)
  /-- SHROUD_AMORSP (R262): A remote atomic response arrives. -/
  | shroudAmorsp (port : Fin 18) (p : SPkt) (data : List Byte)
  /-- SHROUD_SCRSP (R262): A remote conditional-store response arrives. -/
  | shroudScrsp (port : Fin 18) (p : SPkt)
  /-- SHROUD_REFUSE (R265): A refusal arrives and is handled by its status. -/
  | shroudRefuse (port : Fin 18) (p : SPkt)
  /-- REMOTE_REQUEST_TIMEOUT (R265): A sourced request passes the Shroud timeout and its path is declared failed. -/
  | remoteRequestTimeout (tag : BitVec 21)
  /-- PATH_CLEAR (R265): A write to 0x5010:03 clears failed paths. -/
  | pathClear (q : Requester) (dest : W16)
  /-- ROUTE_TABLE_LOAD (R262): A write to 0x5200:03 loads entries into the non-current bank. -/
  | routeTableLoad (q : Requester) (first : W16) (count : BitVec 9) (res : Bool) (entries : List W32)
  /-- ROUTE_GENERATION_SWITCH (R262): A write to 0x5200:04 makes the loaded bank current. -/
  | routeGenerationSwitch (q : Requester) (gen : W32)
  /-- DEVICE_IDENTIFIER_WRITE (R258): A write of the device identifier, refused unless quiesced. -/
  | deviceIdentifierWrite (q : Requester) (id : W16)
  /-- CONTRIB (R267): A collective engine receives a child's contribution. -/
  | contrib (p : SPkt) (data : List Byte)
  /-- RESULT (R267): A collective engine receives the result from its parent. -/
  | result (p : SPkt) (data : List Byte)
  /-- COLLECTIVE_TIMEOUT (R269): A collective wait passes the timeout and the path fails. -/
  | collectiveTimeout (tree : Byte)
  /-- HEARTBEAT (R272): The standby receives the manager's heartbeat. -/
  | heartbeat (src : W16) (gen : W32)
  /-- HEARTBEAT_TIMEOUT (R272): The standby misses heartbeats, takes over and sends CLAIM. -/
  | heartbeatTimeout
  /-- CLAIM (R350): A device accepts or refuses a standby's claim and answers. -/
  | claim (src : W16) (gen : W32)
  /-- PORTEV_PORT_LOST (R257): The manager is told that a port was lost. -/
  | portevPortLost (src : W16) (port : Byte) (peer : W16)
  /-- PORTEV_PORT_UP (R276): The manager is told that a port came up. -/
  | portevPortUp (src : W16) (port : Byte) (peer : W16)
  /-- PORTEV_PORT_RETIRED (R257): The manager is told that a port was retired. -/
  | portevPortRetired (src : W16) (port : Byte) (peer : W16)
  /-- PORTEV_PATH_FAILED (R265): The manager is told that a path failed. -/
  | portevPathFailed (src : W16) (port : Byte) (peer : W16)
  /-- KEYX_CHAIN (R275): A port receives a certificate chain chunk. -/
  | keyxChain (port : Fin 18) (chunk nchunk : Byte) (sport : BitVec 5) (kph res : Bool) (payload : List Byte)
  /-- KEYX_OFFER (R275): A port receives a signed ephemeral key offer. -/
  | keyxOffer (port : Fin 18) (sport : BitVec 5) (kph res : Bool) (payload : List Byte)
  /-- KEYX_CONFIRM (R275): A port receives a confirm and switches key phase. -/
  | keyxConfirm (port : Fin 18) (sport : BitVec 5) (kph res : Bool) (payload : List Byte)
  /-- KEY_EXCHANGE_TIMEOUT (R274): An exchange fails to complete within 100 ms and the port is refused. -/
  | keyExchangeTimeout (port : Fin 18)
  /-- KEY_EXCHANGE_RETRY (R274): A refused port retries its exchange every 1 s. -/
  | keyExchangeRetry (port : Fin 18)
  /-- REKEY (R274): After the set number of flits a port starts a new exchange. -/
  | rekey (port : Fin 18)
  /-- DICTIONARY_READ (R347): A dictionary read request is checked and served. -/
  | dictionaryRead (q : Requester) (b : DictBody)
  /-- DICTIONARY_WRITE (R347): A dictionary write to an entry with no row of its own. -/
  | dictionaryWrite (q : Requester) (b : DictBody)
  /-- NEXT (R348): Return the next readable entry after INDEX:SUB. -/
  | next (q : Requester) (b : DictBody)
  /-- WINDOW_READ (R355): A BAR 0 slot read returns the value and records a status. -/
  | windowRead (port : Fin 2) (offset : BitVec 27) (size : Byte)
  /-- WINDOW_WRITE (R356): A posted BAR 0 slot write applied as a dictionary write. -/
  | windowWrite (port : Fin 2) (offset : BitVec 27) (size : Byte) (value : W64)
  /-- ALARM_CLEAR (R362): A write to 0x7000:02 clears alarm bits. -/
  | alarmClear (q : Requester) (mask : W64)
  /-- SET_ENDPOINT_ID (R360): MCTP control message setting an endpoint ID. -/
  | setEndpointId (ep : Fin 3) (eid : Byte)
  /-- GET_ENDPOINT_ID (R360): MCTP control message returning an endpoint ID. -/
  | getEndpointId (ep : Fin 3)
  /-- GET_MCTP_VERSION_SUPPORT (R360): MCTP control message returning version support. -/
  | getMctpVersionSupport (ep : Fin 3)
  /-- GET_MESSAGE_TYPE_SUPPORT (R360): MCTP control message returning message types. -/
  | getMessageTypeSupport (ep : Fin 3)
  /-- SPDM_REQUEST (R395): A responder serves an SPDM request. -/
  | spdmRequest (r : Responder) (m : SpdmReq)
  /-- IDE_INTEGRITY_FAILURE (R396): A TLP fails its IDE check and the stream becomes Insecure. -/
  | ideIntegrityFailure (port : Fin 2) (stream : Fin 9)
  /-- CONFIGURATION_REQUEST (R419): A port answers a configuration request, with retry status before usable. -/
  | configurationRequest (port : Fin 2) (r : CfgReq)
  /-- BAR2_ACCESS (R315): A host access through BAR 2 checked under ownership and performed. -/
  | bar2Access (f : Func) (pa : BitVec 40) (size : Byte) (data : Option (List Byte))
  /-- POWER_MODE_CHANGE (R381): A write of the power mode changes ceilings and setpoints in order. -/
  | powerModeChange (q : Requester) (mode : Byte)
  /-- ESTIMATOR_SAMPLE (R376): Every 8 ns a rail sample updates the estimate and rail ceiling. -/
  | estimatorSample (rail : Fin 24) (milliamps : W32)
  /-- PACKAGE_CEILING_UPDATE (R380): Each millisecond the package power is compared with the cap. -/
  | packageCeilingUpdate (watts : W32)
  /-- DROOP_TRIP (R382): A droop detector trips and the die's clocks stretch. -/
  | droopTrip (d : Fin 5)
  /-- DROOP_END (R382): All detectors read above threshold for 16 root cycles and stretching ends. -/
  | droopEnd (d : Fin 5) (roots : W32)
  /-- LONG_STRETCH (R382): A stretch passes 256 root cycles and rail ceilings fall. -/
  | longStretch (d : Fin 5)
  /-- AGEING_MEASURE (R383): Every 2^40 ticks the die measures ageing and raises its trim. -/
  | ageingMeasure (d : Fin 5) (inside : Bool)
  /-- AVSBUS_TIMEOUT (R383): An AVSBus write unacknowledged for 10 ms sets the fault flag. -/
  | avsbusTimeout (d : Fin 5)
  /-- THERMAL_READING (R384): Every 100 µs the die reads its temperature and adjusts its thermal ceiling. -/
  | thermalReading (d : Fin 5) (celsius : Int)
  /-- SUPPLY_VALID (R415): The last rail becomes valid, which is T0, and start-up begins. -/
  | supplyValid (rail : Fin 24)
  /-- SUPPLY_LOSS (R416): A rail falls below its threshold for over 1 µs; start-up is abandoned or the device powers down. -/
  | supplyLoss (rail : Fin 24)
  /-- ROOT_OF_TRUST_BOOT (R389): The root of trust selects and verifies a firmware slot, or stays in ROM service. -/
  | rootOfTrustBoot (a b : FwSlot)
  /-- DEVICE_USABLE (R419): Start-up completes and each trained port sends Device Readiness Status. -/
  | deviceUsable
  /-- PERST_ASSERT (R421): PERSTn_N asserted resets the port's link and functions. -/
  | perstAssert (port : Fin 2) (taken : Bool)
  /-- PERST_DEASSERT (R419): PERSTn_N deasserted lets the port train. -/
  | perstDeassert (port : Fin 2)
  /-- FUNCTION_LEVEL_RESET (R316): FLR of a virtual or physical function squashes partitions or deletes queues. -/
  | functionLevelReset (f : Func)
  /-- RAISE_MINIMUM_SVN (R391): A write to 0x8010:02 raises a fused minimum SVN. -/
  | raiseMinimumSvn (q : Requester) (id : Byte)
  /-- REVOKE_KEY (R391): A write to 0x8010:03 blows a key revocation fuse. -/
  | revokeKey (q : Requester) (key : Byte)
  /-- UPDATE_CHUNK (R392): A firmware update chunk is passed to the flash bridge. -/
  | updateChunk (q : Requester) (offset : W64) (data : List Byte)
  /-- CHECK_AND_ACTIVATE (R392): Update action 1 checks the inactive slot. -/
  | checkAndActivate (q : Requester) (inactive : FwSlot)
  /-- ABANDON (R392): Update action 2 abandons the update. -/
  | abandon (q : Requester)
  /-- MARKER (R411): A write to 0x9000:01 generates a marker record. -/
  | marker (q : Requester) (value : W32)
  /-- TRACE_RING_SET (R406): A write setting the trace ring's base or size. -/
  | traceRingSet (q : Requester) (sub : Byte) (value : W64)
  /-- LOG_RING_SET (R409): A write setting the log ring's base or size. -/
  | logRingSet (q : Requester) (sub : Byte) (value : W64)
  /-- TRACE_RING_WRITE (R406): The engine writes eight queued records to the trace ring. -/
  | traceRingWrite
  /-- TRACE_ALIGNMENT_BLOCK (R407): Every 16,384 block times the lanes send an alignment block. -/
  | traceAlignmentBlock
  /-- LOG_WINDOW_CLOSE (R408): A unit's log window closes and a count record is written. -/
  | logWindowClose (unit : W16)
  /-- CORE_PARITY_ERROR (R298): A byte-parity error in a throughput core's register file, local store or read-only caches tears down the group's context, is counted against the core, and may retire it. -/
  | coreParityError (d : Fin 4) (c : Fin 24) (slot : Fin 128)
  /-- CONTROL_CORE_PARITY_ERROR (R298): A byte-parity error in a control core's caches is counted against the core, which is retired with no spare when the count marks it lasting. -/
  | controlCoreParityError (n : Fin 96)
  /-- SELF_TEST (R300): A requested self-test or calibration of a unit is deferred to the unit's next drain by the class of its jobs, run, and the unit returned to service. -/
  | selfTest (d : Fin 4) (c : Fin 24)
  /-- PCIE_COMPLETION (R208): A completion from the host for a device read or atomic of host memory (TGT 1 or 2) arrives at a PCI Express port and is returned to the requester, poisoned if so marked. -/
  | pcieCompletion (id : Nat) (poison : Bool) (data : List Byte)
  /-- PCIE_REQUEST_TIMEOUT (R151): A load or atomic sent through a PCI Express port gets no completion within 50 µs and raises FABRIC_PATH at its instruction. -/
  | pcieRequestTimeout (id : Nat)
  /-- PCIE_STORE_ACKNOWLEDGE (R148): The link-layer acknowledgement of a device store's flit arrives at a PCI Express port, and the store counts as performed. -/
  | pcieStoreAcknowledge (id : Nat)
  /-- PCIE_LINK_UP (R419): A PCI Express port finishes training and reaches L0, after which it answers configuration requests. -/
  | pcieLinkUp (port : Fin 2)
  /-- AVSBUS_ACKNOWLEDGE (R381): The regulator acknowledges an AVSBus setpoint write, and the die may then raise its row-rate ceiling on leaving efficiency mode. -/
  | avsbusAcknowledge (d : Fin 5)
  /-- FORWARDED_CLOCK_DETECTED (R241): A Ratline module detects its partner's forwarded clock, or moves to the spare pair if it fails, so that training stage 1 completes. -/
  | forwardedClockDetected (link : Fin 8) (far : Bool) (m : Fin 50) (pairFailed : Bool)
  /-- LANE_TRAINING_COMPLETE (R241): The Ratline lane stage finishes its deskew and 2^24-UI PRBS31 run and excludes the failing lanes, so the link moves to the identity stage. -/
  | laneTrainingComplete (link : Fin 8) (far : Bool) (m : Fin 50) (failing : List (Fin 84))
  /-- PORT_FAILED_RETRY (R276): A Shroud port in state 7, failed after three bring-up failures, retries bring-up every 10 s. -/
  | portFailedRetry (port : Fin 18)
  /-- I3C_DYNAMIC_ADDRESS_ASSIGNMENT (R423): The I3C controller assigns the device's dynamic address, which is reported at 0x1100:04. -/
  | i3cDynamicAddressAssignment (address : Byte)
deriving DecidableEq, Repr

end Sys2Proof
end

