-- ==== Sys2Proof/Decode.lean ====
section
/-! DEFINITION. The encodings of the Zavor instruction set: the word of each instruction (R29, tables
"Instruction formats" and "Major opcode map"), its decoder, and the checks of R30, R34 and R89. The
table of commands gives no row any bits, so `decodeTableWord` reads none. -/

namespace Sys2Proof

/-! ## Packing the formats -/

def packR (major : BitVec 6) (fn : BitVec 4) (f : RF) : W32 := major ++ f.guard ++ f.gd ++ f.ga ++ f.gb ++ fn
def packI (major : BitVec 6) (f : IF) : W32 := major ++ f.guard ++ f.gd ++ f.ga ++ f.imm
def packSh (kind : BitVec 2) (f : ShF) : W32 := (0x07#6) ++ f.guard ++ f.gd ++ f.ga ++ kind ++ f.res ++ f.amount
def packS (major : BitVec 6) (f : SF) : W32 := major ++ f.guard ++ f.gd ++ f.ga ++ f.sz ++ f.imm
def packSc (major : BitVec 3) (f : ScF) : W32 := major ++ f.scope ++ f.guard ++ f.gd ++ f.ga ++ f.sz ++ f.imm
def packA (major : BitVec 3) (op : BitVec 4) (f : AF) : W32 := major ++ f.scope ++ f.guard ++ f.gd ++ f.ga ++ f.gb ++ op
def packP (major : BitVec 6) (f : PF) : W32 := major ++ f.guard ++ f.pd ++ f.cond ++ f.ga ++ f.gb ++ f.res
def packPI (major : BitVec 6) (f : PIF) : W32 := major ++ f.guard ++ f.pd ++ f.cond ++ f.ga ++ f.imm
def packPL (major : BitVec 6) (f : PLF) : W32 := major ++ f.guard ++ f.pd ++ f.op ++ f.pa ++ f.pb ++ f.res
def packB (major : BitVec 6) (f : BF) : W32 := major ++ f.guard ++ f.off
def packT (major : BitVec 6) (fn : BitVec 4) (f : TF) : W32 := major ++ f.guard ++ f.td ++ f.ts ++ f.rop ++ f.n ++ fn
def packX (major : BitVec 6) (fn : BitVec 4) (f : XF) : W32 :=
  major ++ f.guard ++ f.ta ++ f.shape ++ f.acc ++ f.zero ++ f.res ++ fn
def packL (op : BitVec 4) (f : LF) : W32 := (0x3E#6) ++ f.guard ++ f.gd ++ f.ga ++ f.res ++ op

/-! ## Unpacking the formats -/

def majorOf (w : W32) : Nat := (w.extractLsb' 26 6).toNat
def fnOf (w : W32) : Nat := (w.extractLsb' 0 4).toNat
def unR (w : W32) : RF := ⟨w.extractLsb' 22 4, w.extractLsb' 16 6, w.extractLsb' 10 6, w.extractLsb' 4 6⟩
def unI (w : W32) : IF := ⟨w.extractLsb' 22 4, w.extractLsb' 16 6, w.extractLsb' 10 6, w.extractLsb' 0 10⟩
def unSh (w : W32) : ShF :=
  ⟨w.extractLsb' 22 4, w.extractLsb' 16 6, w.extractLsb' 10 6, w.extractLsb' 6 2, w.extractLsb' 0 6⟩
def unS (w : W32) : SF :=
  ⟨w.extractLsb' 22 4, w.extractLsb' 16 6, w.extractLsb' 10 6, w.extractLsb' 7 3, w.extractLsb' 0 7⟩
def unSc (w : W32) : ScF :=
  ⟨w.extractLsb' 26 3, w.extractLsb' 22 4, w.extractLsb' 16 6, w.extractLsb' 10 6, w.extractLsb' 7 3, w.extractLsb' 0 7⟩
def unA (w : W32) (dbl : Bool) : AF :=
  ⟨w.extractLsb' 26 3, w.extractLsb' 22 4, w.extractLsb' 16 6, w.extractLsb' 10 6, w.extractLsb' 4 6, dbl⟩
def unP (w : W32) : PF :=
  ⟨w.extractLsb' 22 4, w.extractLsb' 19 3, w.extractLsb' 16 3, w.extractLsb' 10 6, w.extractLsb' 4 6, w.extractLsb' 0 4⟩
def unPI (w : W32) : PIF :=
  ⟨w.extractLsb' 22 4, w.extractLsb' 19 3, w.extractLsb' 16 3, w.extractLsb' 10 6, w.extractLsb' 0 10⟩
def unPL (w : W32) : PLF :=
  ⟨w.extractLsb' 22 4, w.extractLsb' 19 3, w.extractLsb' 16 3, w.extractLsb' 13 3, w.extractLsb' 10 3, w.extractLsb' 0 10⟩
def unB (w : W32) : BF := ⟨w.extractLsb' 22 4, w.extractLsb' 0 22⟩
def unT (w : W32) : TF :=
  ⟨w.extractLsb' 22 4, w.extractLsb' 18 4, w.extractLsb' 14 4, w.extractLsb' 11 3, w.extractLsb' 4 7⟩
def unX (w : W32) : XF :=
  ⟨w.extractLsb' 22 4, w.extractLsb' 18 4, w.extractLsb' 15 3, w.extractLsb' 13 2, w.extractLsb' 12 1, w.extractLsb' 4 8⟩
def unL (w imm : W32) : LF :=
  ⟨w.extractLsb' 22 4, w.extractLsb' 16 6, w.extractLsb' 10 6, w.extractLsb' 4 6, imm⟩

/-! ## Instruction words -/

/-- The words of an instruction: its first word, and the second word of a long form. A GCTL command is an
SWR of register 0x108. `none` for a command that is no instruction. -/
def zisEncode : Instr → Option (W32 × W32)
  | .add _ f => some (packR 0x01 0 f, 0)
  | .sub _ f => some (packR 0x01 1 f, 0)
  | .and _ f => some (packR 0x01 2 f, 0)
  | .or _ f => some (packR 0x01 3 f, 0)
  | .xor _ f => some (packR 0x01 4 f, 0)
  | .sll _ f => some (packR 0x01 5 f, 0)
  | .srl _ f => some (packR 0x01 6 f, 0)
  | .sra _ f => some (packR 0x01 7 f, 0)
  | .mul _ f => some (packR 0x01 8 f, 0)
  | .mulh _ f => some (packR 0x01 9 f, 0)
  | .mulhu _ f => some (packR 0x01 10 f, 0)
  | .div _ f => some (packR 0x01 11 f, 0)
  | .divu _ f => some (packR 0x01 12 f, 0)
  | .rem _ f => some (packR 0x01 13 f, 0)
  | .remu _ f => some (packR 0x01 14 f, 0)
  | .min _ f => some (packR 0x02 0 f, 0)
  | .max _ f => some (packR 0x02 1 f, 0)
  | .minu _ f => some (packR 0x02 2 f, 0)
  | .maxu _ f => some (packR 0x02 3 f, 0)
  | .clz _ f => some (packR 0x02 4 f, 0)
  | .popc _ f => some (packR 0x02 5 f, 0)
  | .addi _ f => some (packI 0x03 f, 0)
  | .andi _ f => some (packI 0x04 f, 0)
  | .ori _ f => some (packI 0x05 f, 0)
  | .xori _ f => some (packI 0x06 f, 0)
  | .slli _ f => some (packSh 0 f, 0)
  | .srli _ f => some (packSh 1 f, 0)
  | .srai _ f => some (packSh 2 f, 0)
  | .cmp _ f => some (packP 0x08 f, 0)
  | .cmpi _ f => some (packPI 0x09 f, 0)
  | .plog _ f => some (packPL 0x0A f, 0)
  | .shfl _ f => some (packR 0x0B 0 f, 0)
  | .ballot _ f => some (packR 0x0B 1 f, 0)
  | .b _ f => some (packB 0x0C f, 0)
  | .call _ f => some (packB 0x0D f, 0)
  | .jr _ f => some (packI 0x0E f, 0)
  | .tdset _ f => some (packR 0x0F 0 f, 0)
  | .tdgetl _ f => some (packR 0x0F 1 f, 0)
  | .tdgeth _ f => some (packR 0x0F 2 f, 0)
  | .acq _ f => some (packSc 2 f, 0)
  | .rel _ f => some (packSc 3 f, 0)
  | .amoAdd _ f => some (packA 4 (BitVec.ofBool f.dbl ++ 0#3) f, 0)
  | .amoAnd _ f => some (packA 4 (BitVec.ofBool f.dbl ++ 1#3) f, 0)
  | .amoOr _ f => some (packA 4 (BitVec.ofBool f.dbl ++ 2#3) f, 0)
  | .amoXor _ f => some (packA 4 (BitVec.ofBool f.dbl ++ 3#3) f, 0)
  | .amoMin _ f => some (packA 4 (BitVec.ofBool f.dbl ++ 4#3) f, 0)
  | .amoMax _ f => some (packA 4 (BitVec.ofBool f.dbl ++ 5#3) f, 0)
  | .amoSwap _ f => some (packA 4 (BitVec.ofBool f.dbl ++ 6#3) f, 0)
  | .amoCas _ f => some (packA 4 (BitVec.ofBool f.dbl ++ 7#3) f, 0)
  | .amoMinu _ f => some (packA 5 (0#3 ++ BitVec.ofBool f.dbl) f, 0)
  | .amoMaxu _ f => some (packA 5 (1#3 ++ BitVec.ofBool f.dbl) f, 0)
  | .amoFadd _ f => some (packA 5 (2#3 ++ BitVec.ofBool f.dbl) f, 0)
  | .ld _ f => some (packS 0x30 f, 0)
  | .st _ f => some (packS 0x31 f, 0)
  | .ldv _ f => some (packS 0x32 f, 0)
  | .ldres _ f => some (packS 0x33 f, 0)
  | .stcond _ f d => some (packR 0x34 (1#3 ++ BitVec.ofBool d) f, 0)
  | .barl _ f => some (packR 0x35 0 f, 0)
  | .bars _ f => some (packR 0x35 1 f, 0)
  | .barf _ f => some (packR 0x35 2 f, 0)
  | .gbar _ f => some (packR 0x35 3 f, 0)
  | .cbar _ f => some (packR 0x35 4 f, 0)
  | .isync _ f => some (packR 0x35 5 f, 0)
  | .tmove _ f => some (packT 0x36 0 f, 0)
  | .twait _ f => some (packT 0x36 1 f, 0)
  | .mload _ f => some (packX 0x37 0 f, 0)
  | .mstream _ f => some (packX 0x37 1 f, 0)
  | .mswap _ f => some (packX 0x37 2 f, 0)
  | .mdrain _ f => some (packX 0x37 3 f, 0)
  | .mwait _ f => some (packX 0x37 4 f, 0)
  | .fadd _ f => some (packR 0x38 0 f, 0)
  | .fsub _ f => some (packR 0x38 1 f, 0)
  | .fmul _ f => some (packR 0x38 2 f, 0)
  | .fma _ f => some (packR 0x38 3 f, 0)
  | .fmin _ f => some (packR 0x38 4 f, 0)
  | .fmax _ f => some (packR 0x38 5 f, 0)
  | .fdiv _ f => some (packR 0x38 6 f, 0)
  | .fsqrt _ f => some (packR 0x38 7 f, 0)
  | .fcvtI _ f => some (packR 0x38 8 f, 0)
  | .fcvtF _ f => some (packR 0x38 9 f, 0)
  | .fcmp _ f => some (packP 0x39 f, 0)
  | .srd _ f => some (packI 0x3A f, 0)
  | .swr _ f => some (packI 0x3B f, 0)
  | .gctlHalt _ f => some (packI 0x3B f, 0)
  | .gctlResume _ f => some (packI 0x3B f, 0)
  | .gctlSingleStep _ f => some (packI 0x3B f, 0)
  | .trap _ f => some (packR 0x3C 0 f, 0)
  | .brk _ f => some (packR 0x3C 1 f, 0)
  | .sret _ f => some (packR 0x3C 2 f, 0)
  | .mret _ f => some (packR 0x3C 3 f, 0)
  | .waiti _ f => some (packR 0x3C 4 f, 0)
  | .xinv _ f => some (packR 0x3C 5 f, 0)
  | .epoch _ f => some (packR 0x3D 0 f, 0)
  | .watch _ f => some (packR 0x3D 1 f, 0)
  | .unwatch _ f => some (packR 0x3D 2 f, 0)
  | .movl _ f => some (packL 0 f, f.imm)
  | .movh _ f => some (packL 1 f, f.imm)
  | .addl _ f => some (packL 2 f, f.imm)
  | .orl _ f => some (packL 3 f, f.imm)
  | _ => none

def decAlu (x : Issuer) (w : W32) : Option Instr :=
  match fnOf w with
  | 0 => some (.add x (unR w))
  | 1 => some (.sub x (unR w))
  | 2 => some (.and x (unR w))
  | 3 => some (.or x (unR w))
  | 4 => some (.xor x (unR w))
  | 5 => some (.sll x (unR w))
  | 6 => some (.srl x (unR w))
  | 7 => some (.sra x (unR w))
  | 8 => some (.mul x (unR w))
  | 9 => some (.mulh x (unR w))
  | 10 => some (.mulhu x (unR w))
  | 11 => some (.div x (unR w))
  | 12 => some (.divu x (unR w))
  | 13 => some (.rem x (unR w))
  | 14 => some (.remu x (unR w))
  | _ => none

def decAlu2 (x : Issuer) (w : W32) : Option Instr :=
  match fnOf w with
  | 0 => some (.min x (unR w))
  | 1 => some (.max x (unR w))
  | 2 => some (.minu x (unR w))
  | 3 => some (.maxu x (unR w))
  | 4 => some (.clz x (unR w))
  | 5 => some (.popc x (unR w))
  | _ => none

def decShi (x : Issuer) (w : W32) : Option Instr :=
  match (w.extractLsb' 8 2).toNat with
  | 0 => some (.slli x (unSh w))
  | 1 => some (.srli x (unSh w))
  | 2 => some (.srai x (unSh w))
  | _ => none

def decGrp (x : Issuer) (w : W32) : Option Instr :=
  match fnOf w with
  | 0 => some (.shfl x (unR w))
  | 1 => some (.ballot x (unR w))
  | _ => none

def decTreg (x : Issuer) (w : W32) : Option Instr :=
  match fnOf w with
  | 0 => some (.tdset x (unR w))
  | 1 => some (.tdgetl x (unR w))
  | 2 => some (.tdgeth x (unR w))
  | _ => none

def decAmo (x : Issuer) (w : W32) : Option Instr :=
  let f := unA w (w.getLsbD 3)
  match (w.extractLsb' 0 3).toNat with
  | 0 => some (.amoAdd x f)
  | 1 => some (.amoAnd x f)
  | 2 => some (.amoOr x f)
  | 3 => some (.amoXor x f)
  | 4 => some (.amoMin x f)
  | 5 => some (.amoMax x f)
  | 6 => some (.amoSwap x f)
  | _ => some (.amoCas x f)

def decAmo2 (x : Issuer) (w : W32) : Option Instr :=
  match fnOf w with
  | 0 => some (.amoMinu x (unA w false))
  | 1 => some (.amoMinu x (unA w true))
  | 2 => some (.amoMaxu x (unA w false))
  | 3 => some (.amoMaxu x (unA w true))
  | 4 => some (.amoFadd x (unA w false))
  | _ => none

def decBar (x : Issuer) (w : W32) : Option Instr :=
  match fnOf w with
  | 0 => some (.barl x (unR w))
  | 1 => some (.bars x (unR w))
  | 2 => some (.barf x (unR w))
  | 3 => some (.gbar x (unR w))
  | 4 => some (.cbar x (unR w))
  | 5 => some (.isync x (unR w))
  | _ => none

def decMatrix (x : Issuer) (w : W32) : Option Instr :=
  match fnOf w with
  | 0 => some (.mload x (unX w))
  | 1 => some (.mstream x (unX w))
  | 2 => some (.mswap x (unX w))
  | 3 => some (.mdrain x (unX w))
  | 4 => some (.mwait x (unX w))
  | _ => none

def decFp (x : Issuer) (w : W32) : Option Instr :=
  match fnOf w with
  | 0 => some (.fadd x (unR w))
  | 1 => some (.fsub x (unR w))
  | 2 => some (.fmul x (unR w))
  | 3 => some (.fma x (unR w))
  | 4 => some (.fmin x (unR w))
  | 5 => some (.fmax x (unR w))
  | 6 => some (.fdiv x (unR w))
  | 7 => some (.fsqrt x (unR w))
  | 8 => some (.fcvtI x (unR w))
  | 9 => some (.fcvtF x (unR w))
  | _ => none

def decSys (x : Issuer) (w : W32) : Option Instr :=
  match fnOf w with
  | 0 => some (.trap x (unR w))
  | 1 => some (.brk x (unR w))
  | 2 => some (.sret x (unR w))
  | 3 => some (.mret x (unR w))
  | 4 => some (.waiti x (unR w))
  | 5 => some (.xinv x (unR w))
  | _ => none

def decQue (x : Issuer) (w : W32) : Option Instr :=
  match fnOf w with
  | 0 => some (.epoch x (unR w))
  | 1 => some (.watch x (unR w))
  | 2 => some (.unwatch x (unR w))
  | _ => none

def decLong (x : Issuer) (w imm : W32) : Option Instr :=
  match fnOf w with
  | 0 => some (.movl x (unL w imm))
  | 1 => some (.movh x (unL w imm))
  | 2 => some (.addl x (unL w imm))
  | 3 => some (.orl x (unL w imm))
  | _ => none

/-- The instruction of a word (and of the word after it, for a long form), for an issuer; `none` where
the major opcode, function or kind is reserved (table "Major opcode map"). -/
def zisDecode (x : Issuer) (w imm : W32) : Option Instr :=
  match majorOf w with
  | 0x01 => decAlu x w
  | 0x02 => decAlu2 x w
  | 0x03 => some (.addi x (unI w))
  | 0x04 => some (.andi x (unI w))
  | 0x05 => some (.ori x (unI w))
  | 0x06 => some (.xori x (unI w))
  | 0x07 => decShi x w
  | 0x08 => some (.cmp x (unP w))
  | 0x09 => some (.cmpi x (unPI w))
  | 0x0A => some (.plog x (unPL w))
  | 0x0B => decGrp x w
  | 0x0C => some (.b x (unB w))
  | 0x0D => some (.call x (unB w))
  | 0x0E => some (.jr x (unI w))
  | 0x0F => decTreg x w
  | 0x30 => some (.ld x (unS w))
  | 0x31 => some (.st x (unS w))
  | 0x32 => some (.ldv x (unS w))
  | 0x33 => some (.ldres x (unS w))
  | 0x34 =>
    match fnOf w with
    | 2 => some (.stcond x (unR w) false)
    | 3 => some (.stcond x (unR w) true)
    | _ => none
  | 0x35 => decBar x w
  | 0x36 =>
    match fnOf w with
    | 0 => some (.tmove x (unT w))
    | 1 => some (.twait x (unT w))
    | _ => none
  | 0x37 => decMatrix x w
  | 0x38 => decFp x w
  | 0x39 => some (.fcmp x (unP w))
  | 0x3A => some (.srd x (unI w))
  | 0x3B => some (.swr x (unI w))
  | 0x3C => decSys x w
  | 0x3D => decQue x w
  | 0x3E => decLong x w imm
  | m =>
    match m / 8 with
    | 2 => some (.acq x (unSc w))
    | 3 => some (.rel x (unSc w))
    | 4 => decAmo x w
    | 5 => decAmo2 x w
    | _ => none

/-! ## Decode checks of R30, R34 and R89 -/

/-- The access size in bytes of an sz value (R30). -/
def szBytes (sz : BitVec 3) : Nat :=
  match sz.toNat with
  | 0 => 1
  | 1 => 2
  | 2 => 4
  | 3 => 8
  | 4 => 16
  | 5 => 1
  | 6 => 2
  | _ => 4

def legalGb0 (f : RF) : Bool := f.gb == 0
def legalNone (f : RF) : Bool := f.gd == 0 && f.ga == 0 && f.gb == 0
def legalLoad (f : SF) : Bool := f.sz != 4 || !f.gd.getLsbD 0
def legalScope (s : BitVec 3) : Bool := decide (s.toNat ≤ 4)

/-- System registers (table "System registers"): number, whether it may be written. -/
def sysReg : Nat → Option Bool
  | 0x000 => some false
  | 0x001 => some false
  | 0x002 => some false
  | 0x003 => some false
  | 0x004 => some false
  | 0x005 => some false
  | 0x006 => some true
  | 0x100 => some true
  | 0x101 => some true
  | 0x102 => some true
  | 0x103 => some true
  | 0x104 => some true
  | 0x105 => some true
  | 0x106 => some true
  | 0x107 => some true
  | 0x108 => some true
  | 0x109 => some false
  | 0x200 => some true
  | 0x201 => some true
  | 0x202 => some true
  | 0x203 => some true
  | 0x204 => some true
  | 0x205 => some true
  | 0x206 => some true
  | _ => none

def legalSwr (f : IF) : Bool := f.gd == 0 && sysReg f.imm.toNat == some true

/-- Whether an instruction's encoding is legal: no reserved value, no non-zero reserved or unused field
(R30, R34, R40, R89). True of a command that is no instruction. -/
def zisLegal : Instr → Bool
  | .clz _ f | .popc _ f | .fsqrt _ f | .fcvtI _ f | .fcvtF _ f => legalGb0 f
  | .slli _ f | .srli _ f | .srai _ f => f.res == 0
  | .movl _ f | .movh _ f => f.res == 0 && f.ga == 0
  | .addl _ f | .orl _ f => f.res == 0
  | .cmp _ f => f.res == 0 && decide (f.cond.toNat < 6)
  | .cmpi _ f => decide (f.cond.toNat < 6)
  | .plog _ f => f.res == 0 && decide (f.op.toNat < 4)
  | .fcmp _ f => f.res == 0 && decide (f.cond.toNat < 4)
  | .ld _ f | .ldv _ f => legalLoad f
  | .st _ f => legalLoad f && decide (f.sz.toNat ≤ 4)
  | .acq _ f => legalScope f.scope && f.sz != 4
  | .rel _ f => legalScope f.scope && decide (f.sz.toNat ≤ 3)
  | .ldres _ f => f.sz == 2 || f.sz == 3
  | .amoAdd _ f | .amoAnd _ f | .amoOr _ f | .amoXor _ f | .amoMin _ f | .amoMax _ f | .amoSwap _ f
  | .amoCas _ f | .amoMinu _ f | .amoMaxu _ f => legalScope f.scope
  | .amoFadd _ f => legalScope f.scope && !f.dbl
  | .barl _ f | .bars _ f | .barf _ f | .isync _ f | .gbar _ f | .cbar _ f => legalNone f
  | .ballot _ f => f.ga == 0 && decide (f.gb.toNat < 8)
  | .tdset _ f => decide (f.gd.toNat < 16)
  | .tdgetl _ f | .tdgeth _ f => decide (f.ga.toNat < 16) && f.gb == 0
  | .tmove _ f => f.n == 0 && decide (f.rop.toNat < 4)
  | .twait _ f => f.td == 0 && f.ts == 0 && f.rop == 0
  | .mload _ f => f.res == 0 && decide (f.shape.toNat < 6) && f.acc == 0 && f.zero == 0
  | .mstream _ f => f.res == 0 && decide (f.shape.toNat < 6)
  | .mswap _ f | .mwait _ f => f.res == 0 && f.ta == 0 && f.shape == 0 && f.acc == 0 && f.zero == 0
  | .mdrain _ f => f.res == 0 && f.shape == 0 && f.zero == 0
  | .srd _ f => f.ga == 0 && (sysReg f.imm.toNat).isSome
  | .swr _ f | .gctlHalt _ f | .gctlResume _ f | .gctlSingleStep _ f => legalSwr f
  | .trap _ f | .brk _ f | .unwatch _ f => f.gd == 0 && f.ga == 0
  | .sret _ f | .mret _ f | .waiti _ f => legalNone f
  | .xinv _ f => f.gd == 0
  | .epoch _ f => f.ga == 0 && f.gb == 0
  | .watch _ f => legalGb0 f
  | _ => true

/-- The command a table word spells: the table gives no row any bits, so none. -/
def decodeTableWord (_nbits _w : Nat) : Option Instr := none

end Sys2Proof
end

