-- ==== Sys2Proof/Machine/Tab.lean ====
section
/-! DEFINITION. Sparse tables in one canonical form, byte memories over them, and the bit-field and
byte-order helpers that every family uses. -/

namespace Sys2Proof.Machine

/-- A sparse table: keys strictly rising. -/
abbrev Tab (α : Type) := List (Nat × α)

/-- The entry of a key, if the table lists one. -/
def tfind {α : Type} : Tab α → Nat → Option α
  | [], _ => none
  | (j, v) :: r, k => if j = k then some v else tfind r k

/-- The entry of a key, or the value an unlisted key has. -/
def tget {α : Type} (t : Tab α) (k : Nat) (d : α) : α := (tfind t k).getD d

/-- The table with `k` bound to `v`; keeps the keys rising. -/
def tput {α : Type} : Tab α → Nat → α → Tab α
  | [], k, v => [(k, v)]
  | (j, w) :: r, k, v =>
    if k < j then (k, v) :: (j, w) :: r
    else if k = j then (k, v) :: r
    else (j, w) :: tput r k v

/-- The table without `k`. -/
def tdel {α : Type} : Tab α → Nat → Tab α
  | [], _ => []
  | (j, w) :: r, k => if j = k then r else (j, w) :: tdel r k

/-- Change one entry, starting from `d` where it is not listed. -/
def tmod {α : Type} (t : Tab α) (k : Nat) (d : α) (f : α → α) : Tab α := tput t k (f (tget t k d))

/-- Change one entry only where the table lists it. -/
def tadj {α : Type} : Tab α → Nat → (α → α) → Tab α
  | [], _, _ => []
  | (j, w) :: r, k, f => if j = k then (j, f w) :: r else (j, w) :: tadj r k f

/-- Change every listed entry. -/
def tmap {α : Type} (t : Tab α) (f : Nat → α → α) : Tab α := t.map fun p => (p.1, f p.1 p.2)

/-- Keep the entries that satisfy a test. -/
def tfilter {α : Type} (t : Tab α) (f : Nat → α → Bool) : Tab α := t.filter fun p => f p.1 p.2

/-- The keys are strictly rising. -/
def tsorted {α : Type} : Tab α → Bool
  | [] => true
  | [_] => true
  | p :: q :: r => decide (p.1 < q.1) && tsorted (q :: r)

/-- The lowest key of `n` keys from `k` on that the table does not list. -/
def tfree {α : Type} (t : Tab α) : Nat → Nat → Option Nat
  | _, 0 => none
  | k, n + 1 => match tfind t k with
    | none => some k
    | some _ => tfree t (k + 1) n

/-! ## Byte memories -/

/-- A byte memory: strictly rising addresses, and no entry equal to zero, which is what an unlisted
address reads as (R190, R195: every frame is zero until something writes it). -/
abbrev Memory := List (Nat × BitVec 8)

/-- One byte of a memory. -/
def mread (m : Memory) (a : Nat) : Byte := tget m a 0

/-- Write one byte; a zero leaves no entry. -/
def mwrite (m : Memory) (a : Nat) (b : Byte) : Memory := if b = 0 then tdel m a else tput m a b

/-- `n` bytes from address `a`, lowest first. -/
def mreadN (m : Memory) (a : Nat) : Nat → List Byte
  | 0 => []
  | n + 1 => mread m a :: mreadN m (a + 1) n

/-- Write bytes from address `a` upward. -/
def mwriteN (m : Memory) (a : Nat) : List Byte → Memory
  | [] => m
  | b :: bs => mwriteN (mwrite m a b) (a + 1) bs

/-- Every byte of `[a, a + n)` becomes zero. -/
def mzero (m : Memory) (a n : Nat) : Memory := m.filter fun p => !(decide (a ≤ p.1) && decide (p.1 < a + n))

/-- The canonical form of a byte memory. -/
def Memory.wf (m : Memory) : Bool := tsorted m && m.all fun p => p.2 != 0

/-! ## Byte order and fields (R1) -/

/-- A little-endian byte string as a number. -/
def leNat : List Byte → Nat
  | [] => 0
  | b :: bs => b.toNat + 256 * leNat bs

/-- A number as `n` little-endian bytes. -/
def natLe : Nat → Nat → List Byte
  | 0, _ => []
  | n + 1, v => BitVec.ofNat 8 v :: natLe n (v / 256)

/-- Bits [hi:lo] of a number. -/
def bits (v hi lo : Nat) : Nat := (v >>> lo) % 2 ^ (hi + 1 - lo)

/-- Bit `n` of a number. -/
def bit (v n : Nat) : Bool := v.testBit n

/-- A field value placed at bit `lo`. -/
def fld (lo v : Nat) : Nat := v <<< lo

/-- Sum of field values. -/
def flds : List (Nat × Nat) → Nat
  | [] => 0
  | (lo, v) :: r => (v <<< lo) + flds r

/-- A Boolean as a bit. -/
def b2n (b : Bool) : Nat := if b then 1 else 0

/-- The number of bits set in the low `n` bits. -/
def popN : Nat → Nat → Nat
  | 0, _ => 0
  | n + 1, v => v % 2 + popN n (v / 2)

/-- The positions of the set bits among the low `n` bits, ascending, counted from `k`. -/
def bitsSetFrom (k : Nat) : Nat → Nat → List Nat
  | 0, _ => []
  | n + 1, v => if v % 2 = 1 then k :: bitsSetFrom (k + 1) n (v / 2) else bitsSetFrom (k + 1) n (v / 2)

/-- The positions of the set bits among the low `n` bits, ascending. -/
def bitsSet (n v : Nat) : List Nat := bitsSetFrom 0 n v

/-- The mask with the listed bits set. -/
def maskOf : List Nat → Nat
  | [] => 0
  | k :: r => Nat.lor (2 ^ k) (maskOf r)

/-- `v` sign-extended from `n` bits, as an integer. -/
def sext (n v : Nat) : Int := if v.testBit (n - 1) then (v : Int) - (2 ^ n : Nat) else v

/-- `⌈a / b⌉`. -/
def ceilDiv (a b : Nat) : Nat := (a + b - 1) / b

/-- Words of 64 bits from a byte string. -/
def wordsOf : Nat → List Byte → List Nat
  | 0, _ => []
  | n + 1, bs => leNat (bs.take 8) :: wordsOf n (bs.drop 8)

/-- The element at an index, or a stated value beyond the end. -/
def nth {α : Type} (l : List α) (n : Nat) (d : α) : α := l.getD n d

/-- The list with one element replaced. -/
def setNth {α : Type} : List α → Nat → α → List α
  | [], _, _ => []
  | _ :: r, 0, v => v :: r
  | x :: r, n + 1, v => x :: setNth r n v

/-- The list without the element at an index. -/
def dropNth {α : Type} : List α → Nat → List α
  | [], _ => []
  | _ :: r, 0 => r
  | x :: r, n + 1 => x :: dropNth r n

/-- Insert by a key, before the first element whose key is not smaller. -/
def insertBy {α : Type} (f : α → Nat) (x : α) : List α → List α
  | [] => [x]
  | y :: r => if f x ≤ f y then x :: y :: r else y :: insertBy f x r

/-- Sort by a key, ascending; equal keys keep their order. -/
def sortBy {α : Type} (f : α → Nat) : List α → List α
  | [] => []
  | x :: r => insertBy f x (sortBy f r)

/-- The low bits of an address cleared. -/
def alignDown (a n : Nat) : Nat := a - a % n

end Sys2Proof.Machine
end

