-- ==== Sys2Proof/Machine/Flags.lean ====
section
/-! DEFINITION. Binary floating point from exact integers: decoding, one rounding, the FP32 operations of the
vector pipes and of the home slice, and the FCSR flags they raise (R100, R114 to R116). -/

namespace Sys2Proof.Machine

/-- FCSR.FLAGS bits in place (table FCSR). -/
def fInvalid : Nat := 64
def fDivZero : Nat := 32
def fOverflow : Nat := 16
def fUnderflow : Nat := 8
def fInexact : Nat := 4

/-- A decoded value: NaN (and whether signalling), infinity, or ±m × 2^e exactly. -/
inductive FVal where
  | nan (signalling : Bool)
  | inf (neg : Bool)
  | fin (neg : Bool) (m : Nat) (e : Int)
deriving DecidableEq, Repr

/-- A floating-point format (R100): exponent and fraction widths, bias, and which encodings are special:
0 infinities and NaNs as IEEE 754, 1 only all-ones is NaN (E4M3), 2 no special value. -/
structure FFmt where
  eb : Nat
  mb : Nat
  bias : Nat
  special : Nat
deriving DecidableEq, Repr

def fmtFP32 : FFmt := ⟨8, 23, 127, 0⟩
def fmtBF16 : FFmt := ⟨8, 7, 127, 0⟩
def fmtFP16 : FFmt := ⟨5, 10, 15, 0⟩
def fmtE5M2 : FFmt := ⟨5, 2, 15, 0⟩
def fmtE4M3 : FFmt := ⟨4, 3, 7, 1⟩
def fmtE3M2 : FFmt := ⟨3, 2, 3, 2⟩
def fmtE2M3 : FFmt := ⟨2, 3, 1, 2⟩
def fmtE2M1 : FFmt := ⟨2, 1, 1, 2⟩

/-- Decode an element's bits (R100). -/
def fdecode (f : FFmt) (v : Nat) : FVal :=
  let m := v % 2 ^ f.mb
  let e := (v / 2 ^ f.mb) % 2 ^ f.eb
  let neg := (v / 2 ^ (f.mb + f.eb)) % 2 = 1
  let ones := e = 2 ^ f.eb - 1
  if f.special = 0 ∧ ones ∧ m ≠ 0 then .nan (m / 2 ^ (f.mb - 1) = 0)
  else if f.special = 0 ∧ ones then .inf neg
  else if f.special = 1 ∧ ones ∧ m = 2 ^ f.mb - 1 then .nan false
  else if e = 0 then .fin neg m (1 - (f.bias : Int) - f.mb)
  else .fin neg (m + 2 ^ f.mb) ((e : Int) - f.bias - f.mb)

/-- Bits in a number. -/
def bitLen (m : Nat) : Nat := if m = 0 then 0 else Nat.log2 m + 1

/-- Round the magnitude m × 2^e, with a further positive part smaller than any representable magnitude when
`sticky`, to `p` significant bits but no bit below 2^qmin, under rounding mode `rm` (0 nearest even, 1 toward
zero, 2 toward +∞, 3 toward −∞). Answers the significand, its exponent, and whether the result is inexact. -/
def roundMag (rm : Nat) (neg : Bool) (m0 : Nat) (e0 : Int) (sticky : Bool) (p : Nat) (qmin : Option Int) : Nat × Int × Bool :=
  let m := if sticky then m0 * 2 ^ 400 + 1 else m0
  let e := if sticky then e0 - 400 else e0
  let q0 := e + bitLen m - p
  let q := match qmin with
    | none => q0
    | some x => max q0 x
  if q ≤ e then (m * 2 ^ (e - q).toNat, q, false)
  else
    let sh := (q - e).toNat
    let kept := m / 2 ^ sh
    let rem := m % 2 ^ sh
    let half := 2 ^ (sh - 1)
    let inc :=
      if rm = 0 then decide (rem > half) || (decide (rem = half) && decide (kept % 2 = 1))
      else if rm = 1 then false
      else if rm = 2 then decide (rem ≠ 0) && !neg
      else decide (rem ≠ 0) && neg
    (if inc then kept + 1 else kept, q, decide (rem ≠ 0))

/-- Largest finite encoding of a format, without its sign. -/
def fmax0 (f : FFmt) : Nat :=
  if f.special = 0 then (2 ^ f.eb - 2) * 2 ^ f.mb + (2 ^ f.mb - 1)
  else if f.special = 1 then 2 ^ (f.eb + f.mb) - 2
  else 2 ^ (f.eb + f.mb) - 1

/-- The encoding of s × 2^q for a significand already rounded to the format (at most mb + 1 bits, or 2^(mb+1)),
or none when it exceeds the largest finite value. -/
def fencode (f : FFmt) (m : Nat) (q : Int) : Option Nat :=
  if m = 0 then some 0
  else
    let (m, q) := if m = 2 ^ (f.mb + 1) then (2 ^ f.mb, q + 1) else (m, q)
    let raw : Int :=
      if m < 2 ^ f.mb then (m : Int)
      else (q + f.mb + f.bias) * (2 ^ f.mb : Nat) + ((m - 2 ^ f.mb : Nat) : Int)
    if raw ≤ fmax0 f then some raw.toNat else none

/-- The exponent of a format's last subnormal bit. -/
def fqmin (f : FFmt) : Int := 1 - (f.bias : Int) - f.mb

/-- Round ±m × 2^e (with sticky magnitude) into FP32 under `rm`: the bits and the flags (R114). -/
def round32 (rm : Nat) (neg : Bool) (m : Nat) (e : Int) (sticky : Bool) : Nat × Nat :=
  let sign := if neg then 2 ^ 31 else 0
  if m = 0 && !sticky then (sign, 0)
  else
    let (r, q, inexact) := roundMag rm neg m e sticky 24 (some (-149))
    let (u, uq, _) := roundMag rm neg m e sticky 24 none
    let tiny := u ≠ 0 ∧ uq + bitLen u - 1 < -126
    match fencode fmtFP32 r q with
    | some v => (sign + v, (if inexact then fInexact else 0) + (if tiny && inexact then fUnderflow else 0))
    | none =>
      let toInf := rm = 0 || (rm = 2 && !neg) || (rm = 3 && neg)
      (sign + (if toInf then 0x7F800000 else 0x7F7FFFFF), fOverflow + fInexact)

/-- The default NaN (R114). -/
def qnan32 : Nat := 0x7FC00000

/-- Sign of an exact zero sum: +0, or −0 toward −∞, unless both zeros carry one sign (IEEE 754). -/
def zeroSum (rm : Nat) (n1 n2 : Bool) : Nat := if n1 && n2 then 2 ^ 31 else if n1 != n2 && rm = 3 then 2 ^ 31 else 0

/-- ±m1 × 2^e1 + ±m2 × 2^e2 exactly: a signed integer and its exponent. -/
def addExact (n1 : Bool) (m1 : Nat) (e1 : Int) (n2 : Bool) (m2 : Nat) (e2 : Int) : Int × Int :=
  let e := min e1 e2
  let a : Int := (m1 * 2 ^ (e1 - e).toNat : Nat)
  let b : Int := (m2 * 2 ^ (e2 - e).toNat : Nat)
  ((if n1 then -a else a) + (if n2 then -b else b), e)

def isSnan : FVal → Bool
  | .nan s => s
  | _ => false

/-- Invalid raised by signalling operands. -/
def snanFlag (a b : FVal) : Nat := if isSnan a || isSnan b then fInvalid else 0

/-- FP32 sum of decoded values. -/
def fsum (rm : Nat) (a b : FVal) : Nat × Nat :=
  match a, b with
  | .nan s, y => (qnan32, snanFlag (.nan s) y)
  | x, .nan s => (qnan32, snanFlag x (.nan s))
  | .inf n1, .inf n2 => if n1 = n2 then ((if n1 then 2 ^ 31 else 0) + 0x7F800000, 0) else (qnan32, fInvalid)
  | .inf n, _ => ((if n then 2 ^ 31 else 0) + 0x7F800000, 0)
  | _, .inf n => ((if n then 2 ^ 31 else 0) + 0x7F800000, 0)
  | .fin n1 m1 e1, .fin n2 m2 e2 =>
    let (v, e) := addExact n1 m1 e1 n2 m2 e2
    if v = 0 then ((if m1 = 0 && m2 = 0 then zeroSum rm n1 n2 else if rm = 3 then 2 ^ 31 else 0), 0)
    else round32 rm (v < 0) v.natAbs e false

def fneg : FVal → FVal
  | .nan s => .nan s
  | .inf n => .inf (!n)
  | .fin n m e => .fin (!n) m e

def fd (v : W32) : FVal := fdecode fmtFP32 v.toNat
def w32 (p : Nat × Nat) : W32 × Nat := (BitVec.ofNat 32 p.1, p.2)

/-- FADD, FSUB, FMUL, FDIV, FSQRT, FMA: result bits and flags raised (R114). -/
def fpAdd (rm : Nat) (a b : W32) : W32 × Nat := w32 (fsum rm (fd a) (fd b))
def fpSub (rm : Nat) (a b : W32) : W32 × Nat := w32 (fsum rm (fd a) (fneg (fd b)))

def fpMul (rm : Nat) (a b : W32) : W32 × Nat :=
  w32 (match fd a, fd b with
  | .nan s, y => (qnan32, snanFlag (.nan s) y)
  | x, .nan s => (qnan32, snanFlag x (.nan s))
  | .inf n1, .inf n2 => ((if n1 != n2 then 2 ^ 31 else 0) + 0x7F800000, 0)
  | .inf n1, .fin n2 m _ => if m = 0 then (qnan32, fInvalid) else ((if n1 != n2 then 2 ^ 31 else 0) + 0x7F800000, 0)
  | .fin n1 m _, .inf n2 => if m = 0 then (qnan32, fInvalid) else ((if n1 != n2 then 2 ^ 31 else 0) + 0x7F800000, 0)
  | .fin n1 m1 e1, .fin n2 m2 e2 => round32 rm (n1 != n2) (m1 * m2) (e1 + e2) false)

def fpDiv (rm : Nat) (a b : W32) : W32 × Nat :=
  w32 (match fd a, fd b with
  | .nan s, y => (qnan32, snanFlag (.nan s) y)
  | x, .nan s => (qnan32, snanFlag x (.nan s))
  | .inf _, .inf _ => (qnan32, fInvalid)
  | .inf n1, .fin n2 _ _ => ((if n1 != n2 then 2 ^ 31 else 0) + 0x7F800000, 0)
  | .fin n1 _ _, .inf n2 => ((if n1 != n2 then 2 ^ 31 else 0), 0)
  | .fin n1 m1 e1, .fin n2 m2 e2 =>
    if m2 = 0 then
      if m1 = 0 then (qnan32, fInvalid) else ((if n1 != n2 then 2 ^ 31 else 0) + 0x7F800000, fDivZero)
    else if m1 = 0 then ((if n1 != n2 then 2 ^ 31 else 0), 0)
    else
      let n := m1 * 2 ^ 64
      round32 rm (n1 != n2) (n / m2) (e1 - e2 - 64) (n % m2 ≠ 0))

/-- Integer square root, one result bit at a time from bit `k - 1` down. -/
def isqrtFrom (n : Nat) : Nat → Nat → Nat
  | 0, r => r
  | k + 1, r => let r' := r + 2 ^ k; if r' * r' ≤ n then isqrtFrom n k r' else isqrtFrom n k r

def fpSqrt (rm : Nat) (a : W32) : W32 × Nat :=
  w32 (match fd a with
  | .nan s => (qnan32, if s then fInvalid else 0)
  | .inf false => (0x7F800000, 0)
  | .inf true => (qnan32, fInvalid)
  | .fin neg m e =>
    if m = 0 then ((if neg then 2 ^ 31 else 0), 0)
    else if neg then (qnan32, fInvalid)
    else
      let (m, e) := if e % 2 = 0 then (m, e) else (2 * m, e - 1)
      let n := m * 2 ^ 64
      let r := isqrtFrom n 48 0
      round32 rm false r (e / 2 - 32) (r * r ≠ n))

def fpMa (rm : Nat) (a b c : W32) : W32 × Nat :=
  let x := fd a
  let y := fd b
  let z := fd c
  let infZero := match x, y with
    | .inf _, .fin _ 0 _ => true
    | .fin _ 0 _, .inf _ => true
    | _, _ => false
  if infZero then (BitVec.ofNat 32 qnan32, fInvalid)
  else
    w32 (match x, y, z with
    | .nan _, _, _ | _, .nan _, _ | _, _, .nan _ => (qnan32, if isSnan x || isSnan y || isSnan z then fInvalid else 0)
    | .inf n1, .inf n2, w => fsum rm (.inf (n1 != n2)) w
    | .inf n1, .fin n2 _ _, w => fsum rm (.inf (n1 != n2)) w
    | .fin n1 _ _, .inf n2, w => fsum rm (.inf (n1 != n2)) w
    | .fin n1 m1 e1, .fin n2 m2 e2, w => fsum rm (.fin (n1 != n2) (m1 * m2) (e1 + e2)) w)

/-- Order of two decoded values that are not NaN, −0 below +0 (R115). -/
def fless (a b : FVal) : Bool :=
  match a, b with
  | .inf n1, .inf n2 => n1 && !n2
  | .inf n, _ => n
  | _, .inf n => !n
  | .fin n1 m1 e1, .fin n2 m2 e2 =>
    let (v, _) := addExact n1 m1 e1 (!n2) m2 e2
    v < 0 || (m1 = 0 && m2 = 0 && n1 && !n2)
  | _, _ => false

/-- FMIN and FMAX (R115). -/
def fpMinMax (mx : Bool) (a b : W32) : W32 × Nat :=
  let fl := snanFlag (fd a) (fd b)
  match fd a, fd b with
  | .nan _, .nan _ => (BitVec.ofNat 32 qnan32, fl)
  | .nan _, _ => (b, fl)
  | _, .nan _ => (a, fl)
  | x, y => ((if fless x y != mx then a else b), fl)

/-- FCMP: 0 EQ, 1 LT, 2 LE, 3 UN; the truth and the flags (R115). UN raises invalid for a signalling NaN,
as IEEE 754's unordered predicate does (assumption 5). -/
def fpCmp (cond : Nat) (a b : W32) : Bool × Nat :=
  let x := fd a
  let y := fd b
  let un := match x, y with
    | .nan _, _ => true
    | _, .nan _ => true
    | _, _ => false
  if un then
    (cond = 3, if cond = 1 || cond = 2 then fInvalid else snanFlag x y)
  else
    let eq := match x, y with
      | .inf n1, .inf n2 => n1 = n2
      | .fin n1 m1 e1, .fin n2 m2 e2 => (addExact n1 m1 e1 (!n2) m2 e2).1 = 0
      | _, _ => false
    let lt := fless x y && !eq
    (if cond = 0 then eq else if cond = 1 then lt else if cond = 2 then lt || eq else false, 0)

/-- FCVT.I: FP32 to a saturated signed 32-bit integer, sign-extended (R115). -/
def fpToInt (rm : Nat) (a : W32) : W64 × Nat :=
  match fd a with
  | .nan _ => (0, fInvalid)
  | .inf n => (BitVec.ofInt 64 (if n then -(2 ^ 31 : Int) else 2 ^ 31 - 1), fInvalid)
  | .fin neg m e =>
    let (r, q, inexact) := roundMag rm neg m e false 200 (some 0)
    let v : Int := (r * 2 ^ q.toNat : Nat)
    let v := if neg then -v else v
    if v < -(2 ^ 31 : Int) then (BitVec.ofInt 64 (-(2 ^ 31 : Int)), fInvalid)
    else if v > 2 ^ 31 - 1 then (BitVec.ofInt 64 (2 ^ 31 - 1), fInvalid)
    else (BitVec.ofInt 64 v, if inexact then fInexact else 0)

/-- FCVT.F: signed 64-bit integer to FP32 (R115). -/
def fpOfInt (rm : Nat) (a : W64) : W32 × Nat :=
  let v := a.toInt
  if v = 0 then (0, 0) else w32 (round32 rm (v < 0) v.natAbs 0 false)

/-- The home slice's FADD: nearest even, no flags (R116). -/
def homeFadd (a b : W32) : W32 := (fpAdd 0 a b).1

end Sys2Proof.Machine
end

