-- ==== Sys2Proof/Config.lean ====
section
/-! DEFINITION. What a part or its board fixes, and the free values: constants with no body wherever the
specification gives no value, so that no proof can lean on one. -/

namespace Sys2Proof.Config

/-! ## Values fixed at manufacture, which the specification does not state (assumption 3) -/

/-- Die revision of each die (R14 sub-index 02). -/
opaque dieRevision : Nat → BitVec 16
/-- PCI vendor and device identifiers (R361). -/
opaque pciVendor : BitVec 16
opaque pciDevice : BitVec 16
/-- Serial number of the part (R361). -/
opaque serial : BitVec 64
/-- Firmware build label (R361). -/
opaque buildLabel : List (BitVec 8)
/-- Identity public key, X then Y (R399). -/
opaque identityKey : List (BitVec 8)
/-- Certificate slot 0, as DER bytes, for an alias key certified over the given measurements (R393). -/
opaque certificates : List (List (BitVec 8)) → List (BitVec 8)
/-- Boot ROM bytes (R395, measurement 1). -/
opaque rom : List (BitVec 8)
/-- Fused minimum SVN of the manifest (0) and of component IDs 1 to 5, as manufactured (R391): its low six bits, the range of
an SVN. -/
opaque fusedSvn : Nat → Nat
/-- Physical cores of each Loam die that passed manufacturing test, at least 24, ascending (R299). -/
opaque goodCores : Nat → List Nat
/-- Capability bits a die advertises are an input of training; a die's own set, for signals it sends. -/
opaque ownCaps : Nat → BitVec 64
/-- The MCTP versions the endpoints support, as DMTF codes them (R360). -/
opaque mctpVersions : Nat
/-- Setpoint in mV of an HBM rail, as JEDEC HBM4 sets for the stacks fitted (R373). -/
opaque hbmSetpoint : Nat → Nat
/-- Temperature in degrees before any reading, of stack `k` at `k` and of die `d` at `12 + d` (R199 and R386 give no default). -/
opaque firstTemp : Nat → Int

/-- Routers on the fixed route from a leaf core (24 × die + core) to a home slice, nearest the home first, each
with the input port the route enters it by (R174; the specification does not lay out the bulk network). -/
opaque routerPath : Nat → Nat → List (Nat × Nat)

/-- Interrupt source of a queue's notification to a control core, by handle (R42 names none). -/
opaque notifySource : Nat → Nat
/-- Spare data lanes of an HBM channel (R197 gives no number). -/
opaque spareLanes : Nat → Nat
/-- The error kind a unit reports in an event of an error counted (chapter 18 gives no codes), by the kind of error. -/
opaque errorKind : Nat → Nat

/-- Devices of a fabric job, as the manager's software planned it; no state of a device holds the list (R287). -/
opaque jobDevices : Nat → List Nat

/-! ## Engines whose algorithms other standards define -/

/-- Whether an ECDSA P-384 signature and certificate chain verify (R274, R275, R388). -/
opaque chainVerifies : List (BitVec 8) → Bool
opaque offerVerifies : List (BitVec 8) → List (BitVec 8) → Bool
opaque confirmVerifies : List (BitVec 8) → List (BitVec 8) → List (BitVec 8) → Bool
/-- The OFFER and CONFIRM payloads the device makes for a port and phase (R275). -/
opaque offerOf : Nat → Bool → List (BitVec 8)
/-- Signed parts of SPDM responses (R394, R395). -/
opaque spdmSigned : Nat → List (BitVec 8) → List (BitVec 8)

/-! ## Free values: applied to the counter `freeCtr` of the state or to operands -/

/-- A choice between two outcomes the specification allows (R6). -/
opaque freeBool : Nat → Bool
/-- An open number. -/
opaque freeNat : Nat → Nat
/-- An open 64-bit value. -/
opaque freeWord : Nat → BitVec 64

end Sys2Proof.Config
end

