-- ==== Sys2Proof/Machine/Units.lean ====
section
/-! DEFINITION. The units of the device as plain data: cores and their groups, the matrix array, lines at
their homes, links, ports, contexts, queues. `Machine/State.lean` puts them together. Every field's
default is its value at power-up. -/

namespace Sys2Proof.Machine

/-! ## Threads, groups and cores (chapters 2 and 3) -/

/-- Privilege level (R27). -/
inductive Level where
  | user | supervisor | monitor
deriving DecidableEq, Repr

/-- The registers of the threads of a group, or of a control core as lane 0 (R23). -/
structure Threads where
  /-- g registers, key 64 × lane + number; g0 is never listed -/
  gpr : Tab W64 := []
  /-- p1 to p7 as lane masks -/
  pred : Tab W32 := []
  /-- t0 to t15 -/
  tile : Tab W128 := []
  /-- FCSR[6:0] of each lane -/
  fcsr : Tab (BitVec 7) := []
deriving DecidableEq, Repr

/-- Park state of a reconvergence-stack entry (R48). -/
inductive Park where
  | run | gbar | cbar
deriving DecidableEq, Repr

/-- An entry of the reconvergence stack. -/
structure SEntry where
  pc : W64
  mask : W32
  park : Park
deriving DecidableEq, Repr

/-- State of a group as GSTATE shows it (R40, R70). -/
inductive GState where
  | running | halted | trapped
deriving DecidableEq, Repr

/-- A translation's result: output address, target, permissions, page size exponent (R204). -/
structure Leaf where
  hi : W16 := 0
  oa : Nat := 0
  tgt : Nat := 0
  u : Bool := false
  x : Bool := false
  w : Bool := false
  r : Bool := false
  size : Nat := 16
deriving DecidableEq, Repr

/-- An outstanding TMOVE: its tiles as they read at issue, its reduction, the lane that issued it, the pages
it holds with their leaves (R210), and what its off-device part has come to. -/
structure TMoveRec where
  /-- its number among the TMOVEs of its core -/
  id : Nat := 0
  td : W128
  ts : W128
  rop : Nat
  lane : Nat
  src : List (Nat × Leaf) := []
  dst : List (Nat × Leaf) := []
  /-- off-device requests outstanding, and the bytes returned by virtual address -/
  ids : List Nat := []
  got : List (Nat × List Byte) := []
  /-- its writes have been made or sent -/
  wrote : Bool := false
  /-- a hardware fault it met: cause and address -/
  bad : Option (Nat × Nat) := none
deriving DecidableEq, Repr

/-- A store accepted by a memory port or store buffer and not yet performed at its home (R124, R127). -/
structure PStore where
  thread : Nat
  ctx : BitVec 12
  part : Nat
  sys : Bool
  pa : Nat
  bytes : List Byte
deriving DecidableEq, Repr

/-- A thread group in a slot of a throughput core. -/
structure Group where
  ctx : BitVec 12 := 0
  /-- in-flight entry of its launch, and the graph entry within a step -/
  entry : Nat := 0
  /-- 0, or 1 + its place in the graph of a step -/
  place : Nat := 0
  /-- its cohort: the number within the launch, and the cohort's own identity -/
  cohort : Nat := 0
  cid : Nat := 0
  /-- local-store bytes of its share, and use of the matrix array -/
  lss : Nat := 0
  array : Bool := false
  /-- residence number (R318) -/
  q : Nat := 0
  /-- group number within the launch (R328) -/
  number : Nat := 0
  /-- registers allocated: 16, 32, 48 or 64 (R24) -/
  alloc : Nat := 16
  th : Threads := {}
  stack : List SEntry := []
  gstate : GState := .running
  /-- trap cause the group halted on -/
  cause : Nat := 0
  /-- asked to stop; the kind-1 image is not yet complete (R70) -/
  halting : Bool := false
  /-- the record of the trap that halts it, which leaves once the image is complete and stays until it resumes (R44, R70, R73) -/
  trapRec : Option TrapRec := none
  /-- the record of its translation fault, which leaves once the image is complete (R215) -/
  faultRec : Option FaultRec := none
  /-- halted as the waiter of a translation fault record (R215) -/
  waiting : Bool := false
  /-- asked to save at a cheap point (R65), or to stop at an epoch cut (R288) -/
  saveReq : Bool := false
  cutReq : Bool := false
  /-- stopped at the cut of a commit -/
  atCut : Bool := false
  /-- a GCTL single-step waits for its instruction (R71, R72) -/
  stepReq : Bool := false
  tmoves : List TMoveRec := []
  /-- matrix instructions issued and not completed -/
  matrix : Nat := 0
  /-- off-device requests the issued instruction waits for, and the results it will write: lane, register, value -/
  waitIds : List Nat := []
  results : List (Nat × Nat × W64) := []
  /-- words of the barriers its entries are parked at -/
  parkWords : Tab W32 := []
  /-- generation at which it arrived at a CBAR -/
  arrived : Option Nat := none
  /-- PC and mask of its last exit (R150) -/
  exitPc : W64 := 0
  exitMask : W32 := 0
  code : W64 := 0
  map : W64 := 0
  mapn : Nat := 0
  /-- reduction tag of the launch -/
  tag : Nat := 0
deriving DecidableEq, Repr

/-- A cohort resident on a core (R52). -/
structure Cohort where
  id : Nat := 0
  ctx : BitVec 12 := 0
  entry : Nat := 0
  place : Nat := 0
  number : Nat := 0
  /-- members saved by a pre-emption and not restored -/
  away : Nat := 0
  /-- every group has ended; the report has not reached the dispatcher -/
  ended : Bool := false
  slots : List Nat := []
  /-- barrier generations completed -/
  gen : Nat := 0
deriving DecidableEq, Repr

/-- Matrix instruction kinds. -/
inductive MKind where
  | mload | mstream | mswap | mdrain
deriving DecidableEq, Repr

/-- A queued matrix instruction (R61, R88). -/
structure MInstr where
  id : Nat := 0
  kind : MKind
  ta : W128
  shape : Nat
  acc : Nat
  zero : Bool
  /-- tile of the accumulator set, for MSTREAM and MDRAIN -/
  bound : W128
  slot : Nat
  ctx : BitVec 12
  started : Bool := false
  /-- pages of an MDRAIN destination in memory -/
  pages : List (Nat × Leaf) := []
  /-- TMOVEs issued before it that write into its local-store footprint (R87) -/
  before : List Nat := []
  lane : Nat := 0
  /-- rows it overwrote in the local store, for a stop under R97; rows it drained for memory -/
  old : List (List Byte) := []
  out : List (List Byte) := []
  /-- off-device writes outstanding; its writes have been made or sent; a hardware fault it met -/
  ids : List Nat := []
  wrote : Bool := false
  bad : Option (Nat × Nat) := none
deriving DecidableEq, Repr

/-- A weight bank (R75): tag and contents. `grp` 15 is the format group "any"; `triple` is 0, 1 for TRIPLE-HI, 2 for TRIPLE-LO. -/
structure Bank where
  shape : Nat := 0
  grp : Nat := 15
  triple : Nat := 0
  fmt : Nat := 0
  /-- element codes, key 1024 × k + n -/
  w : Tab Nat := []
  /-- block scales, key 1024 × block + n -/
  scale : Tab Nat := []
  /-- sparse indices, key 1024 × value row + n -/
  index : Tab Nat := []
deriving DecidableEq, Repr

/-- What the streamer does between instructions (R93, R379). -/
inductive ArrayPhase where
  | idle | streaming | taper
deriving DecidableEq, Repr

/-- The matrix array of a throughput core (R75, R96). -/
structure MArray where
  owner : Option (BitVec 12) := none
  activeB : Bool := false
  bankA : Bank := {}
  bankB : Bank := {}
  /-- bound tile of each accumulator set -/
  sets : Tab W128 := []
  queue : List MInstr := []
  phase : ArrayPhase := .idle
  /-- ramp ceiling (R378) and density bound R of the taper (R379) -/
  ramp : Nat := 16
  taperR : Nat := 0
  rows : Nat := 0
  holds : Nat := 0
  nans : Nat := 0
deriving DecidableEq, Repr

/-- A throughput core under its logical number. -/
structure Core where
  groups : Tab Group := []
  cohorts : List Cohort := []
  ls : Memory := []
  /-- constant cache: line number to its bytes (R128) -/
  ccache : Tab (List Byte) := []
  /-- instruction cache: word address to word (R129) -/
  icache : Tab W32 := []
  port : List PStore := []
  /-- micro translation cache, key 2^48 × context + 64 KiB page (R211) -/
  micro : Tab Leaf := []
  array : MArray := {}
  issued : Nat := 0
  /-- TMOVEs numbered so far -/
  tmNext : Nat := 0
  /-- tagged rounds sent per line by this leaf, modulo 65,536 (R174) -/
  rounds : Tab Nat := []
  /-- context whose data the local store holds -/
  lsCtx : BitVec 12 := 0
  /-- drained for a self-test (R300) -/
  testing : Bool := false
deriving DecidableEq, Repr

/-- An XINV a control core has issued and that is not complete: operands, the dies still to report, and the
TMOVEs and MDRAINs that held a matching entry, each as its core and number (R224). -/
structure XinvRec where
  gb : Nat
  ga : Nat
  dies : List Nat
  /-- dies whose caches have been cleared -/
  seen : List Nat := []
  waits : List (Nat × Nat) := []
deriving DecidableEq, Repr

/-- A control core. -/
structure CCore where
  th : Threads := {}
  pc : W64 := 0
  level : Level := .monitor
  /-- CTXID of the core, whose setting the spec does not give -/
  ctx : BitVec 12 := 0
  tstat : W64 := 0
  tcause : W64 := 0
  tpc : W64 := 0
  tval : W64 := 0
  tvec : W64 := 0
  tscratch : W64 := 0
  xroot : W64 := 0
  gsel : W64 := 0
  mstat : W64 := 0
  mcause : W64 := 0
  mpc : W64 := 0
  mval : W64 := 0
  mvec : W64 := 0
  mscratch : W64 := 0
  mdeleg : W64 := 0x3FFF
  /-- pending interrupt sources, oldest first (R42) -/
  irq : List Nat := []
  /-- a step is armed for the next instruction (TSTAT.STEP, MSTAT.STEP) -/
  armed : Bool := false
  /-- store buffer, oldest first (R124) -/
  sb : List PStore := []
  resv : Option Nat := none
  /-- its deferral window is open (R141) -/
  window : Bool := false
  tmoves : List TMoveRec := []
  tmNext : Nat := 0
  tlb : Tab Leaf := []
  icache : Tab W32 := []
  xinv : List XinvRec := []
  waitIds : List Nat := []
  results : List (Nat × Nat × W64) := []
  /-- released by the root of trust, and running -/
  released : Bool := false
  /-- an EPOCH that waits for the end of the commit (R288) -/
  inEpoch : Bool := false
  retired : Bool := false
deriving DecidableEq, Repr

/-! ## Homes (chapter 7) -/

/-- States of a line at its home (R156). -/
inductive LState where
  | I | V | S | X | F | K | W
deriving DecidableEq, Repr

/-- Line classes (R168). -/
inductive LClass where
  | persist | normal | stream
deriving DecidableEq, Repr

/-- A request waiting in a home's pending buffer (R157), or deferred by a reservation (R141). -/
structure PendReq where
  op : Nat
  h : ReqHdr
  kind : Nat := 0
  data : List Byte := []
deriving DecidableEq, Repr

/-- A line present at its home, or in transit there. -/
structure Line where
  st : LState := .I
  dirty : Bool := false
  /-- the owner's copy in X is M -/
  mod : Bool := false
  /-- owner in X; holders in S -/
  owner : Nat := 0
  sharers : List Nat := []
  poison : Bool := false
  /-- reduction pending, and the lock's holder under R244 -/
  rp : Bool := false
  lock : Option Nat := none
  /-- the control-core hint of the home's tag -/
  hint : Bool := false
  cls : LClass := .normal
  win : Option Nat := none
  /-- partition whose ways hold the line; 64 the shared ways -/
  ways : Nat := 64
  /-- order of use in its set -/
  stamp : Nat := 0
  pend : List PendReq := []
  /-- in K: what the directory was asked, 0 snoop to S, 1 invalidate, 2 recall -/
  snoop : Nat := 0
deriving DecidableEq, Repr

/-- A reservation in a home's table, oldest first (R138). `who` is the thread's key. -/
structure Resv where
  who : Nat
  line : Nat
  /-- the deferral window of R141 is open -/
  window : Bool := true
deriving DecidableEq, Repr

/-- A tagged reduction round at a home, or packets held at a router (R174, R175). -/
structure RedRound where
  line : Nat
  tag : Nat
  round : Nat
  rop : Nat
  fmt : Nat
  ctx : BitVec 12
  /-- values by the node they cover -/
  vals : List (Nat × Nat × List Byte) := []
deriving DecidableEq, Repr

/-- A tag table entry (R173): leaves, class and footprint. -/
structure RedTag where
  ctx : BitVec 12 := 0
  entry : Nat := 0
  leaves : List Nat := []
  cls : Nat := 2
  rop : Nat := 1
  fmt : Nat := 0
  spill : Nat := 0
  lines : List Nat := []
deriving DecidableEq, Repr

/-- A Reef window (R170). -/
structure Reef where
  base : Nat := 0
  size : Nat := 0
  cls : Nat := 1
  quota : Nat := 4
  part : Nat := 0xFF
  demotions : Nat := 0
deriving DecidableEq, Repr

/-- A source record for the non-reproducible flag (R305). -/
structure SrcRec where
  line : Nat
  ctx : BitVec 12
  dev : Nat
  agent : Nat
deriving DecidableEq, Repr

/-! ## HBM (chapter 8) -/

/-- A placement region (R184). -/
structure Region where
  base : Nat := 0
  size : Nat := 0
  cls : Nat := 0
  target : Nat := 0
  cb : Nat := 0
deriving DecidableEq, Repr

/-- An ownership-table entry (R190). -/
structure Own where
  owner : Nat := 0
  part : Nat := 0
  /-- 0 free, 1 reserved, 2 owned, 3 system -/
  state : Nat := 0
  share : Nat := 0
  zero : Bool := true
  poison : Bool := false
  presv : Bool := false
  /-- both copies of the entry's line fail: not a field of the entry (R196) -/
  lost : Bool := false
deriving DecidableEq, Repr

/-- A stack's status (R199). -/
structure Stack where
  state : Nat := 0
  retired : Nat := 0
  temp : Option Int := none
  refresh : Nat := 0
  corrections : Nat := 0
  uncorrectable : Nat := 0
  reissues : Nat := 0
  spares : Nat := 0
  passes : Nat := 0
  /-- spare lanes used, by channel -/
  chanSpares : Tab Nat := []
  /-- the bank last refreshed, by channel -/
  banks : Tab Nat := []
deriving DecidableEq, Repr

/-- A frame command being applied (R193, R194). -/
structure FrameCmd where
  next : Nat
  last : Nat
  new : Own
  done : Nat := 0
deriving DecidableEq, Repr

/-! ## Translation (chapter 9) -/

/-- A held translation (R210): who holds it, whether XINV marked it dying. -/
structure Held where
  ctx : BitVec 12
  page : Nat
  leaf : Leaf
  count : Nat := 1
  dying : Bool := false
deriving DecidableEq, Repr

/-- A fault ring of a partition (R217, R220). -/
structure FaultRing where
  base : Nat := 0
  n : Nat := 0
  core : Nat := 0
  tail : Nat := 0
  /-- records the dispatcher has acted on -/
  hd : Nat := 0
  written : Nat := 0
  joined : Nat := 0
  handle : Option Nat := none
deriving DecidableEq, Repr

/-- An open fault record, or one waiting for ring space (R218, R221). -/
structure OpenRec where
  rec0 : FaultRec
  waiters : List Waiter
  joined : Nat := 1
  /-- ring index once written -/
  index : Option Nat := none
  seq : Nat := 0
  closed : Bool := false
deriving DecidableEq, Repr

/-! ## Ratline (chapter 10) -/

/-- One direction of one module of a link. -/
structure Module where
  txSeq : Nat := 0
  acked : Nat := 4095
  rxLast : Nat := 4095
  replay : List (Nat × List Byte) := []
  credits : List Nat := [0, 0, 0, 0, 0, 0]
  owed : List Nat := [0, 0, 0, 0, 0, 0]
  excluded : List Nat := []
  retired : List Nat := []
  recal : Option Nat := none
  /-- clock pairs failed -/
  pairs : Nat := 0
  clock : Bool := false
  lanes : Bool := false
  /-- discarding until the replay arrives -/
  nakWait : Bool := false
  replays : Nat := 0
  buffered : Nat := 0
deriving DecidableEq, Repr

/-- A sideband receiver (R248). -/
structure Sideband where
  count : Nat := 0
  good : Nat := 0
  aligned : Bool := false
deriving DecidableEq, Repr

/-- A Ratline link (R241, R245). `A` is the Loam, or clockwise-sending, end. -/
structure Link where
  advA : W64 := 0
  advB : W64 := 0
  inter : W64 := 0
  state : Nat := 0
  badCrc : Nat := 0
  replayed : Nat := 0
  holds : Nat := 0
  minorA : Nat := 0
  minorB : Nat := 0
  gotA : Bool := false
  gotB : Bool := false
  creditA : Bool := false
  creditB : Bool := false
  identA : Option Nat := none
  identB : Option Nat := none
  tries : Nat := 0
  /-- the intersection in force before an in-band retrain (R16) -/
  before : Option W64 := none
  mods : Tab Module := []
  sideA : Sideband := {}
  sideB : Sideband := {}
  trafficHeld : Bool := false
deriving DecidableEq, Repr

/-- A die (R14, R20). -/
structure Die where
  position : Nat := 7
  straps : Nat := 0
  strapWarn : Bool := false
  portMap : Nat := 0x3F
  startState : Nat := 0
  lockLosses : Nat := 0
  timer : W64 := 0
  everLocked : Bool := false
  clocks : Bool := false
  /-- interfaces on which a Spar answer has come -/
  answered : List Nat := []
  trapSeq : Nat := 0
  /-- die translation cache and walk cache (R211) -/
  xlat : Tab Leaf := []
  walks : Tab Nat := []
  /-- trace unit (R402, R403) -/
  traceSeq : Nat := 0
  traceBuf : List ObsRec := []
  traceGap : Option (Nat × Nat) := none
  traceGen : Nat := 0
  traceDrop : Nat := 0
  traceCap : Nat := 0
  traceRingDrop : Nat := 0
  traceLaneDrop : Nat := 0
  traceLost : Nat := 0
  /-- next trace number the engine expects from the die (R404) -/
  traceNext : Nat := 0
  ringGap : Option (Nat × Nat) := none
  laneGap : Option (Nat × Nat) := none
  /-- power (R377, R382 to R384) -/
  trim : Int := -30
  ageLimit : Bool := false
  avsFault : Bool := false
  /-- setpoint written over AVSBus and not yet acknowledged, in mV -/
  avsPending : Option Nat := none
  temp : Option Int := none
  stretches : Nat := 0
  rootsAdded : Nat := 0
  droopThreshold : Nat := 60
  stretching : Bool := false
  thermal : Nat := 16
  modeCeil : Nat := 16
  /-- setpoint in force of the die's logic rail, in mV: regulators start at 0.750 V (R417) -/
  setpoint : Nat := 750
  lost : Bool := false
deriving DecidableEq, Repr

/-! ## Shroud (chapter 11) -/

/-- A packet that waits at a port for credits or replay room: its virtual channel, opcode, header and data (R256). -/
structure QPkt where
  vc : Nat
  op : Nat
  p : SPkt
  data : List Byte
deriving DecidableEq, Repr

/-- A Shroud port (R255, R257, R274 to R276). -/
structure Port where
  state : Nat := 0
  partner : Nat := 0xFFFF
  partnerPort : Nat := 0xFF
  badCrc : Nat := 0
  replayed : Nat := 0
  fecCorrected : Nat := 0
  fecUncorrectable : Nat := 0
  losses : Nat := 0
  failures : Nat := 0
  txSeq : Nat := 0
  acked : Nat := 4095
  rxLast : Nat := 4095
  replay : List (Nat × List Byte) := []
  nakWait : Bool := false
  replays : Nat := 0
  credits : List Nat := [0, 0, 0, 0, 0, 0, 0, 0]
  /-- packets that wait to leave, in order -/
  queue : List QPkt := []
  protect : Nat := 0
  keyState : Nat := 0
  rekeyAfter : Nat := 2 ^ 36
  flits : Nat := 0
  tagFails : Nat := 0
  exchanges : Nat := 0
  /-- the exchange in progress: chain chunks received, offer and confirms seen -/
  chain : Tab (List Byte) := []
  chainLen : Nat := 0
  chainGood : Bool := false
  offerIn : Option (List Byte) := none
  offerOut : Option (List Byte) := none
  confirmIn : Bool := false
  confirmOut : Bool := false
  kph : Bool := false
  kphNext : Bool := false
deriving DecidableEq, Repr

/-- What an off-device request asks for. -/
inductive OutKind where
  | load | store | amo | res | scond | red | tile | tileW | copy | copyW | replica
deriving DecidableEq, Repr

/-- A lane's part in an off-device request: the lane, its destination register, size and sign. -/
structure OutLane where
  lane : Nat
  gd : Nat
  size : Nat
  signed : Bool
deriving DecidableEq, Repr

/-- An outstanding off-device request (R150, R151, R265). `tgt` is 1 or 2 for the PCI Express ports, 3 for Shroud. -/
structure OutReq where
  id : Nat
  tgt : Nat
  dev : Nat
  addr : Nat
  va : Nat
  kind : OutKind
  who : Issuer
  ctx : BitVec 12
  entry : Nat := 0
  lanes : List OutLane := []
  size : Nat := 0
  /-- of an atomic: its AOP field, and the lanes' operands and compare values -/
  aop : Nat := 0
  items : List (Nat × Nat × Nat) := []
  /-- its issuer has been torn down -/
  orphan : Bool := false
  /-- a store declared failed, and the status that ended it (R262) -/
  failed : Bool := false
  denied : Bool := false
deriving DecidableEq, Repr

/-- A request that reached a port and waits at it: for a reservation's deferral, a lock, or an earlier one (R141, R149, R264). -/
structure HeldPkt where
  port : Nat
  op : Nat
  p : SPkt
  data : List Byte
deriving DecidableEq, Repr

/-- A collective tree (R267). -/
structure Tree where
  job : Nat := 0
  parent : Nat := 0xFFFF
  index : Nat := 0
  children : Nat := 0
  devices : List Nat := []
  round : Nat := 0
  discarded : Nat := 0
deriving DecidableEq, Repr

/-- A collective running on a tree. -/
structure Collective where
  tree : Nat
  entry : Nat
  ctx : BitVec 12
  job : Nat
  round : Nat
  rop : Nat
  fmt : Nat
  src : Nat
  dst : Nat
  chunks : Nat
  /-- contributions received: chunk, child index, data -/
  got : List (Nat × Nat × List Byte) := []
  /-- chunks written -/
  done : List Nat := []
  /-- chunks sent to the parent -/
  sent : List Nat := []
deriving DecidableEq, Repr

/-- A job-table entry (R263). -/
structure JobEntry where
  job : Nat := 0
  ctx : Nat := 0
  part : Nat := 0
  enabled : Bool := false
  rolling : Bool := false
deriving DecidableEq, Repr

/-! ## Epochs (chapter 12) -/

/-- A job slot (R277). -/
structure JobSlot where
  job : Nat := 0
  protect : Nat := 1
  cls : Nat := 2
  devices : Nat := 1
  buddy : Nat := 0xFFFF
  mirror : Nat := 0
  hold : Nat := 0
  holdNext : Nat := 0
  committed : Nat := 0
  mirrored : Nat := 0
  state : Nat := 0
  commits : Nat := 0
  rollbacks : Nat := 0
  /-- control cores in the commit set, as a mask -/
  cset : Nat := 0
  /-- frames with a copied mark in the open epoch -/
  copied : List Nat := []
  seq : Nat := 0
  overflowed : Bool := false
  /-- a commit is asked for and not yet prepared -/
  asked : Bool := false
  target : Nat := 0
  faultClass : Nat := 0
  /-- poisoned frames to reload (R294) -/
  reload : List Nat := []
  /-- STOP received, STOPPED not yet sent; the epoch of a PREPARE received and not yet answered -/
  stopping : Bool := false
  cutFor : Option Nat := none
  /-- devices whose failed paths ended requests of the job, and a RESTORE that waits for those paths (R293) -/
  far : List Nat := []
  restoreAt : Option Nat := none
deriving DecidableEq, Repr

/-- A silt slot in use: its log record and, for KIND 1, a copy of the frame in the slot's frame of memory (R284). -/
structure Silt where
  frame : Nat
  kind : Nat
  ctx : BitVec 12
  slot : Nat
  epoch : Nat
  seq : Nat
  srcdev : Nat
  timer : W64
  part : Nat
deriving DecidableEq, Repr

/-- The coordinator's record of a job's commit or rollback (R287, R290). `phase`: 0 none, 1 preparing,
2 committing, 3 stopping, 4 restoring, 5 querying. -/
structure Coord where
  job : Nat
  phase : Nat
  epoch : Nat
  answered : List Nat := []
  states : List (Nat × Nat) := []
  /-- the committed and the mirrored epoch as the coordinator records them -/
  recorded : Nat := 0
  mirrored : Nat := 0
  /-- a commit is asked for and waits for the mirror -/
  wants : Bool := false
deriving DecidableEq, Repr

/-- An error-counting window of a unit (R298). -/
structure Window where
  count : Nat := 0
  opened : W64 := 0
deriving DecidableEq, Repr

/-- A replica pair (R301). -/
structure Replica where
  source : Nat := 0
  size : Nat := 0
  replica : Nat := 0
  state : Nat := 0
  repaired : Nat := 0
deriving DecidableEq, Repr

/-! ## Dispatch (chapter 13) -/

/-- A partition (R308). -/
structure Partition where
  state : Nat := 0
  cores : Nat := 0
  ccores : Nat := 0
  ways : Nat := 0
  slices : Nat := 0
  watchQuota : Nat := 0
  watches : Nat := 0
  ctxQuota : Nat := 0
  contexts : Nat := 0
  port : Nat := 2
  jobs : Nat := 0
  guaranteed : Nat := 0
  channels : Nat := 0
  limit : Nat := 0
deriving DecidableEq, Repr

/-- What a watch handle's signal wakes (R322). -/
inductive Consumer where
  | queue | cc (n : Nat) | ring (p : Nat) | trapq (ctx : Nat)
deriving DecidableEq, Repr

/-- A watch handle. -/
structure Watch where
  line : Nat
  consumer : Consumer
  part : Nat
  ctx : BitVec 12
  pending : Bool := false
deriving DecidableEq, Repr

/-- State of a context. -/
inductive CtxState where
  | live
  /-- ended by a program fault, until destroyed -/
  | ended
  /-- torn down by a hardware fault, until RESUME -/
  | torn
  /-- saved by a pre-emption and not yet restored -/
  | saved
deriving DecidableEq, Repr

/-- A group saved in the pre-emption area. -/
structure Saved where
  entry : Nat
  place : Nat
  cohort : Nat
  cid : Nat
  lss : Nat
  array : Bool
  number : Nat
  alloc : Nat
  /-- GSTATE to restore, and its cause -/
  gstate : GState
  cause : Nat
  tag : Nat := 0
  code : W64 := 0
  map : W64 := 0
  mapn : Nat := 0
  /-- it waits at a CBAR that its cohort has not passed -/
  arrived : Bool := false
  /-- its image lies in the epoch save area -/
  cut : Bool := false
  /-- the record of the trap it is halted by (R73) -/
  trapRec : Option TrapRec := none
deriving DecidableEq, Repr

/-- A replay list entry (R337). -/
structure Replay where
  words : List Nat
  queue : Nat
  fallback : Bool
  seq : Nat
  /-- epoch in which the descriptor completed -/
  doneIn : Option Nat := none
  /-- a rollback waits to rerun it -/
  waiting : Bool := false
deriving DecidableEq, Repr

/-- Life of an in-flight entry. -/
inductive EPhase where
  | fetched | checked | running | completed
deriving DecidableEq, Repr

/-- A piece of work: a descriptor of KIND 1 to 3, or an entry of a step's graph (R328 to R330). -/
structure Work where
  /-- 0 for the descriptor itself, 1 + its place for a graph entry -/
  place : Nat := 0
  words : List Nat := []
  running : Bool := false
  done : Bool := false
  status : Nat := 0
  val : Nat := 0
  cause : Nat := 0
  /-- cohorts still to place; cohorts sent to a core and not ended: core, number; whether the core took it -/
  toPlace : List Nat := []
  placed : List (Nat × Nat × Bool) := []
  tag : Nat := 0
  /-- the core list of a launch, chosen as it starts (R331) -/
  cores : List Nat := []
  /-- a copy: off-device requests outstanding, data returned, writes sent -/
  ids : List Nat := []
  got : List (Nat × List Byte) := []
  wrote : Bool := false
deriving DecidableEq, Repr

/-- An in-flight entry of the dispatcher (R325, R330). -/
structure Entry where
  queue : Nat
  ctx : BitVec 12
  seq : Nat
  user : Nat
  words : List Nat
  phase : EPhase := .fetched
  parts : List Work := []
  status : Nat := 0
  val : Nat := 0
  cause : Nat := 0
  late : Bool := false
  fallback : Bool := false
  replay : Bool := false
  nr : Bool := false
  fetched : W64 := 0
  started : Option W64 := none
  ended : W64 := 0
  estimate : Nat := 0
  /-- graph address and entries a step runs -/
  graph : Nat := 0
  gcount : Nat := 0
  pages : List Nat := []
  /-- waits on a translation fault record -/
  waiting : Bool := false
  /-- its record waits until the epoch of its completion commits -/
  heldFor : Option Nat := none
deriving DecidableEq, Repr

/-- A context's dispatch state as a cut records it (R288, R337). -/
structure Snap where
  entries : List (Nat × Entry) := []
  groups : Tab Saved := []
  tags : Tab RedTag := []
  rounds : List RedRound := []
  /-- rounds sent per line and tag by each leaf -/
  leaves : List (Nat × Tab Nat) := []
deriving DecidableEq, Repr

/-- A context (R317, R318). -/
structure Ctx where
  part : Nat := 0
  slot : Nat := 0
  maxres : Nat := 1
  trapcore : Nat := 0
  traplog : Nat := 0
  root : W64 := 0
  preempt : Nat := 0
  epsave : Nat := 0
  debug : Nat := 0
  trapq : Nat := 0
  state : CtxState := .live
  rm : Nat := 0
  ovf : Nat := 0
  nrflag : Bool := false
  signature : W64 := 0
  trapTail : Nat := 0
  trapHead : Nat := 0
  trapWait : List TrapRec := []
  trapHandle : Nat := 0
  debugOk : Bool := false
  saved : Tab Saved := []
  replay : List Replay := []
  /-- entries written to the replay list so far -/
  replayNext : Nat := 0
  /-- a pre-emption is in progress; whether OP 4 asked; whether it was late -/
  preempting : Bool := false
  byCommand : Bool := false
  late : Bool := false
  /-- dispatch state by epoch, and that of the cut in progress -/
  snaps : Tab Snap := []
  cut : Option Snap := none
  /-- command that began the pre-emption: transport -/
  asker : Nat := 0
deriving DecidableEq, Repr

/-- A queue (R323). -/
structure Queue where
  ctx : BitVec 12 := 0
  prio : Nat := 0
  logn : Nat := 0
  clogn : Nat := 0
  func : Nat := 0xFF
  vector : Nat := 0
  ring : Nat := 0
  compl : Nat := 0
  fbgraph : Nat := 0
  fbcount : Nat := 0
  init : Nat := 0
  state : Nat := 1
  head : Nat := 0
  /-- TAIL as last read -/
  tail : Nat := 0
  ctail : Nat := 0
  deleting : Bool := false
deriving DecidableEq, Repr

/-- Migration tracking of a partition (R340). -/
structure Track where
  on : Bool := false
  overflow : Bool := false
  state : Nat := 0
  count : Nat := 0
deriving DecidableEq, Repr

/-- History of a context and graph (R335): (ROWS, run time), newest first. -/
structure History where
  ctx : BitVec 12
  graph : Nat
  runs : List (Nat × Nat)
deriving DecidableEq, Repr

/-! ## Power and observation (chapters 16 and 18) -/

/-- A supply rail (R373, R376, R386). -/
structure Rail where
  valid : Bool := false
  estimate : Nat := 0
  peak : Nat := 0
  throttles : Nat := 0
  ceil : Nat := 16
  /-- the last 250 samples, newest first -/
  samples : List Nat := []
  calm : Nat := 0
deriving DecidableEq, Repr

/-- A ring in HBM the observation path writes (R406, R409). -/
structure ObsRing where
  base : Nat := 0
  size : Nat := 0
  mode : Nat := 0
  tail : Nat := 0
  head : Nat := 0
  lost : Nat := 0
deriving DecidableEq, Repr

/-- A counter read the Halyard controller has sent to a Loam die and not had answered (R239, R411): its tag, who asked, the
request's TAG, and for a window read the place and width asked for. -/
structure CtrRead where
  tag : Nat
  q : Requester
  op : Nat
  dtag : Nat
  index : Nat
  sub : Nat
  /-- of a window read: the half asked for, and its size -/
  half : Nat := 0
  size : Nat := 8
deriving DecidableEq, Repr

/-- A unit's log window (R408). -/
structure LogWin where
  count : Nat := 0
  w : Nat := 28
deriving DecidableEq, Repr

/-- A host's memory request through BAR 2: its function, address and size, and the bytes of a write (R315). -/
structure HostReq where
  f : Func
  pa : Nat
  n : Nat
  data : Option (List Byte)
deriving DecidableEq, Repr

/-- A PCI Express port of the device (R314, R396, R419, R421). -/
structure Pcie where
  perst : Bool := true
  up : Bool := false
  /-- a reset of its functions waits for the coherent domain (R422) -/
  flr : Bool := false
  eid : Nat := 0
  winStatus : Nat := 0
  winErrors : Nat := 0
  ideLink : Nat := 0
  ideSel : Tab Nat := []
  ideFails : Nat := 0
  caErrors : Nat := 0
  /-- memory requests of hosts that wait behind a deferred or locked line, in order of arrival (R141, R148) -/
  waiting : List HostReq := []
  /-- posted writes discarded while the coherent domain was down (R179) -/
  discarded : Nat := 0
deriving DecidableEq, Repr

/-- A virtual function (R315). -/
structure VFunc where
  part : Nat := 0xFF
  enabled : Bool := false
  flr : Bool := false
  refused : Nat := 0
  busMaster : Bool := false
deriving DecidableEq, Repr

end Sys2Proof.Machine
end

