-- ==== Sys2Proof/Machine/State.lean ====
section
/-! DEFINITION. The state of the device and the reasons a step can stop. Plain data throughout; a table
that lists no entry for a unit holds that unit at its power-up value. -/

namespace Sys2Proof.Machine

/-- Reasons a step stops with a fault. No meaning of this model raises one: every command of the table
has an effect the spec gives (safe: a stop proves nothing false). The type stays because the host's
interface names it. -/
inductive Fault where
  /-- the device is asked for a unit it does not have; raised by nothing, kept for the interface; safe -/
  | noSuchUnit
deriving DecidableEq, Repr

/-- Reasons a command is refused. -/
inductive Refusal where
  /-- the command has no meaning yet; raised only by an arm of `exec`; safe -/
  | notModelled (mnemonic : String)
deriving DecidableEq, Repr

/-- The life of the package (R13, R181, R361, R415, R416). -/
inductive Life where
  /-- some rail is not valid: nothing runs -/
  | unpowered
  /-- from T0 until usable -/
  | starting
  | usable
  /-- start-up failed, or failed later as R181 states -/
  | failed
  /-- a die tripped on temperature: clocks halted until power-down (R384) -/
  | tripped
deriving DecidableEq, Repr

/-- A message, record or signal the device sends or drives, in the order it does so. -/
inductive Out where
  /-- a dictionary response: requester, OP of the request, TAG, INDEX, SUB, STATUS, TYPE, value -/
  | dict (q : Requester) (op tag index sub status type : Nat) (value : List Byte)
  /-- a BAR 0 window read's value -/
  | window (port : Nat) (value : W64)
  /-- a BAR 2 completion: 0 successful, 1 Unsupported Request, 2 Completer Abort -/
  | bar2 (f : Func) (status : Nat) (poison : Bool) (data : List Byte)
  /-- a configuration completion: normal, or with Request Retry Status -/
  | config (port : Nat) (retry : Bool)
  /-- Device Readiness Status of a port's physical function -/
  | drs (port : Nat)
  | mctp (ep : Nat) (what : Nat) (value : Nat)
  | spdm (r : Responder) (error : Nat) (value : List Byte)
  | msix (func vector : Nat)
  /-- event messages (R240) -/
  | watched (handles : List Nat) (consumer : Option Nat)
  | placement (die core : Nat) (p : Placement)
  | invalidation (die cc gb ga : Nat)
  /-- a walker's result: pool, context, address, and the leaf, or the reason and level of a fault (0, 9 for POISON) -/
  | walked (pool ctx va : Nat) (leaf : Option Leaf) (reason level : Nat)
  | trap (r : TrapRec)
  | fault (w : Waiter) (r : FaultRec)
  | interrupt (n source : Nat)
  | workDone (kind die core arg : Nat)
  | trace (r : ObsRec)
  | lanes (r : ObsRec)
  | align
  | counterRead (die index sub tag : Nat)
  | counterData (index sub tag value status : Nat)
  /-- a Ratline memory or coherence request or response of opcode `op` -/
  | req (op : Nat) (h : ReqHdr) (kind : Nat) (data : List Byte)
  | rsp (op : Nat) (h : RspHdr) (kind : Nat) (data : List Byte)
  /-- a response delivered to the agent that asked -/
  | deliver (agent txn status : Nat) (poison : Bool) (data : List Byte)
  /-- a reduction packet -/
  | red (h : RedHdr) (data : List Byte)
  /-- a Ratline link control message: link, end, kind, argument -/
  | ctl (link : Nat) (far : Bool) (kind arg : Nat)
  /-- an idle flit, or a flit resent, of a module: link, end, module, SEQ, ACK, NAK -/
  | flit (link : Nat) (far : Bool) (m seq ack : Nat) (nak : Bool) (returns : List Nat)
  | sideband (link : Nat) (far : Bool) (state : Nat)
  /-- a Shroud packet: port (32 the loopback), opcode, header, data -/
  | packet (port op : Nat) (p : SPkt) (data : List Byte)
  | sflit (port seq ack : Nat) (nak : Bool)
  /-- a key exchange message of a port: step -/
  | keyx (port step : Nat)
  /-- an EPOCH control packet: destination, job, kind, argument, epoch -/
  | epoch (dst job kind arg epoch : Nat)
  /-- the contents of a frame for the buddy's mirror store: buddy, job, frame -/
  | mirror (dst job frame : Nat) (data : List Byte)
  | heartbeat (dst : Nat)
  | claim (gen : Nat)
  | portev (dst kind port peer : Nat)
  /-- a port event delivered to the manager's software: source, kind, port, peer -/
  | portevIn (src kind port peer : Nat)
  /-- a request leaving through a PCI Express port -/
  | pcie (port id : Nat) (write : Bool) (addr : Nat) (data : List Byte)
  /-- a firmware update chunk passed to the flash bridge -/
  | flash (offset : Nat) (data : List Byte)
  /-- an AVSBus setpoint write of a die, in mV -/
  | avsbus (die mv : Nat)
  /-- a memory controller's refresh or recalibration of a bank or channel -/
  | refresh (stack channel bank : Nat)
deriving DecidableEq, Repr

/-- Homes, directory, reductions and the coherent domain (chapters 6, 7). -/
structure Homes where
  lines : Tab Line := []
  /-- order-of-use counter, from which the oldest marks count down -/
  clock : Nat := 2 ^ 40
  resvs : List Resv := []
  /-- requests deferred by reservations, by line -/
  deferred : Tab (List PendReq) := []
  reef : Tab Reef := []
  tags : Tab RedTag := []
  rounds : List RedRound := []
  /-- rounds applied per line and tag -/
  applied : Tab Nat := []
  /-- packets held in routers' combining stores, key router -/
  routers : Tab (List RedRound) := []
  srcs : List SrcRec := []
  /-- retired ways, key 128 × (8192 × slice + set) + the ways' owner -/
  retiredWays : Tab Nat := []
  spareRows : Nat := 64
  /-- requests outstanding on links, by transaction tag -/
  txns : Tab PendReq := []
  /-- 0x4480 -/
  losses : Nat := 0
  cause : Nat := 0
  ref : Nat := 0xFFFF
  poisoned : Nat := 0
  lastUs : Nat := 0
  /-- the domain is down and restarting; it will not come back -/
  down : Bool := false
  dead : Bool := false
  discarded : Nat := 0
deriving DecidableEq, Repr

/-- HBM and its ownership table (chapter 8). -/
structure Hbm where
  regions : Tab Region := []
  own : Tab Own := []
  stk : Tab Stack := []
  cmds : List FrameCmd := []
  /-- the frames of firmware and of the silt pool are in state system -/
  system : Bool := false
  cmdResult : Nat := 0
  cmdDone : Nat := 0
deriving DecidableEq, Repr

/-- Held translations, fault rings and open records (chapter 9). -/
structure Xlat where
  held : List Held := []
  rings : Tab FaultRing := []
  records : List OpenRec := []
  seq : Nat := 0
  /-- requesters stalled for want of an open record -/
  stalled : List (Waiter × FaultRec) := []
  /-- XINVs known to every die: issuer, operands -/
  inval : List (Nat × XinvRec) := []
deriving DecidableEq, Repr

/-- Shroud (chapter 11). -/
structure Fabric where
  role : Nat := 0
  device : Nat := 0xFFFF
  manager : Nat := 0xFFFF
  gen : Nat := 0
  standby : Nat := 0xFFFF
  heartbeatUs : Nat := 1000
  missed : Nat := 10
  hops : Nat := 16
  timeoutUs : Nat := 25
  failed : List Nat := []
  failures : Nat := 0
  ports : Tab Port := []
  bank0 : Tab W32 := []
  bank1 : Tab W32 := []
  current : Nat := 0
  /-- generations of the current bank and of the other -/
  routeGen : Nat := 0
  otherGen : Nat := 0
  /-- the bank that is not current still serves the generation it had -/
  loaded : Bool := false
  draining : List Nat := []
  jobs : Tab JobEntry := []
  trees : Tab Tree := []
  running : List Collective := []
  out : List OutReq := []
  /-- requests that wait at the ports, in order of arrival -/
  held : List HeldPkt := []
  nextId : Nat := 0
  lastBeat : W64 := 0
  discarded : Nat := 0
deriving DecidableEq, Repr

/-- Epochs, the silt pool and fault counting (chapter 12). -/
structure Epochs where
  slots : Tab JobSlot := []
  pct : Nat := 10
  silt : Tab Silt := []
  written : Nat := 0
  fills : Nat := 0
  overflows : Nat := 0
  coords : List Coord := []
  threshold : Nat := 3
  retired : Nat := 0
  closed : Nat := 0
  windows : Tab Window := []
  /-- physical core of each logical core, where it differs from the map of manufacture; 0xFF none -/
  map : Tab Nat := []
  /-- spare physical cores used, by die -/
  used : Tab Nat := []
  replicas : Tab Replica := []
deriving DecidableEq, Repr

/-- Partitions, contexts, queues and the dispatcher (chapter 13). -/
structure Disp where
  parts : Tab Partition := []
  /-- results of the last command of a kind by transport: key 128 × kind + transport, (result, number) -/
  results : Tab (Nat × Nat) := []
  selected : Nat := 0
  portMode : Nat := 0
  vfs : Tab VFunc := []
  ctxs : Tab Ctx := []
  watches : Tab Watch := []
  queues : Tab Queue := []
  entries : Tab Entry := []
  order : List Nat := []
  history : List History := []
  tracks : Tab Track := []
  waitUs : Nat := 1000
  completed : Nat := 0
  swapped : Nat := 0
  lastQueue : Nat := 0
  /-- cohorts placed so far, for their identities -/
  cohorts : Nat := 0
deriving DecidableEq, Repr

/-- Power (chapter 16). -/
structure Power where
  mode : Nat := 0
  cap : Nat := 2800
  watts : Nat := 0
  energy : Nat := 0
  stepsDown : Nat := 0
  ceil : Nat := 16
  calm : Nat := 0
  rails : Tab Rail := []
  /-- energy by die and unit class, key 8 × die + class; by core, key 24 × die + core -/
  classes : Tab Nat := []
  coreEnergy : Tab Nat := []
deriving DecidableEq, Repr

/-- Boot, firmware update and identity (chapter 17). -/
structure Security where
  boot : Nat := 0
  rejection : Nat := 0
  rejected : Nat := 0xFF
  version : Nat := 0
  svn : Nat := 0
  compSvn : List Nat := []
  signer : Nat := 0
  /-- fuses raised in the field over those of manufacture: manifest, then IDs 1 to 5 -/
  minimums : List Nat := [0, 0, 0, 0, 0, 0]
  revoked : Nat := 0
  manifest : List Byte := []
  digests : List (List Byte) := []
  entry : Nat := 0
  restart : Nat := 0
  /-- firmware update (R392) -/
  update : Nat := 0
  binding : Option Nat := none
  spdm : Nat := 0
  sessions : Tab Nat := []
deriving DecidableEq, Repr

/-- Trace, log and alarms (chapter 18). -/
structure Observe where
  level : Nat := 1
  ring : ObsRing := {}
  ringQueue : List ObsRec := []
  laneQueue : List ObsRec := []
  lanesOn : Nat := 1
  lanesSent : Nat := 0
  log : ObsRing := {}
  logBuf : List ObsRec := []
  logSeq : Nat := 0
  logW : Nat := 28
  logCounted : Nat := 0
  logWins : Tab LogWin := []
  alarms : W64 := 0
  firstAlarm : W64 := 0
  ok : Nat := 0
  bad : Nat := 0
  /-- counter reads sent to Loam dies, and the tag of the next -/
  reads : List CtrRead := []
  nextRead : Nat := 0
deriving DecidableEq, Repr

/-- The state of one ZU-4800 package. -/
structure State where
  /-- commands that wait, oldest first -/
  pending : List Instr
  life : Life
  dies : Tab Die
  links : Tab Link
  cores : Tab Core
  ccs : Tab CCore
  /-- HBM as the homes serve it -/
  mem : Memory
  homes : Homes
  hbm : Hbm
  xlat : Xlat
  fabric : Fabric
  epochs : Epochs
  disp : Disp
  power : Power
  sec : Security
  obs : Observe
  pcie : Tab Pcie
  /-- I3C endpoint ID, dynamic address -/
  i3cEid : Nat
  i3cAddr : Nat
  /-- arithmetic defaults (R118) -/
  defRm : Nat
  defOvf : Nat
  /-- THERMTRIP_N asserted -/
  thermTrip : Bool
  outbox : List Out
  /-- the model's own counter for free values -/
  freeCtr : Nat
deriving DecidableEq, Repr

/-- Partition 0 at power-up (R307). -/
def partition0 : Partition :=
  { state := 1, cores := 2 ^ 96 - 1, ccores := 2 ^ 96 - 1, watchQuota := 16384, ctxQuota := 4096, guaranteed := 1024 }

/-- The device at power-up: no rail valid yet, every entry at its default (R358), partition 0 and region 0
as R307 and R184 give them. -/
def State.reset : State :=
  { pending := [], life := .unpowered, dies := [], links := [], cores := [], ccs := [], mem := [],
    homes := {}, hbm := { regions := [(0, { size := 768000000000 })] }, xlat := {}, fabric := {}, epochs := {},
    disp := { parts := [(0, partition0)] }, power := {}, sec := {}, obs := {}, pcie := [],
    i3cEid := 0, i3cAddr := 0, defRm := 0, defOvf := 0, thermTrip := false, outbox := [], freeCtr := 0 }

end Sys2Proof.Machine
end

