-- ==== Sys2Proof/Machine/Ops.lean ====
section
/-! DEFINITION. Named operations over the state: units by number, the life of the package, alarms, logs,
lanes and their registers. -/

namespace Sys2Proof.Machine

/-- The answer of a meaning. -/
abbrev Result := Host.Outcome State Fault Refusal

/-! ## Units by number -/

/-- The value a die's block starts from: the Spar die's port map reads 0x0000 (R14). -/
def die0 (d : Nat) : Die := if d = 4 then { portMap := 0 } else {}
def getDie (s : State) (d : Nat) : Die := tget s.dies d (die0 d)
def setDie (s : State) (d : Nat) (v : Die) : State := { s with dies := tput s.dies d v }
def modDie (s : State) (d : Nat) (f : Die → Die) : State := setDie s d (f (getDie s d))

/-- Key of a throughput core: 24 × die + logical core. -/
def coreKey (d : Fin 4) (c : Fin 24) : Nat := 24 * d.val + c.val
def getCore (s : State) (k : Nat) : Core := tget s.cores k {}
def setCore (s : State) (k : Nat) (v : Core) : State := { s with cores := tput s.cores k v }
def modCore (s : State) (k : Nat) (f : Core → Core) : State := setCore s k (f (getCore s k))

def getCC (s : State) (n : Nat) : CCore := tget s.ccs n {}
def setCC (s : State) (n : Nat) (v : CCore) : State := { s with ccs := tput s.ccs n v }
def modCC (s : State) (n : Nat) (f : CCore → CCore) : State := setCC s n (f (getCC s n))

/-- The group in a slot of a core, if the slot holds one. -/
def getGroup (s : State) (k slot : Nat) : Option Group := tfind (getCore s k).groups slot
def setGroup (s : State) (k slot : Nat) (g : Group) : State :=
  modCore s k fun c => { c with groups := tput c.groups slot g }
def delGroup (s : State) (k slot : Nat) : State :=
  modCore s k fun c => { c with groups := tdel c.groups slot }
def modGroup (s : State) (k slot : Nat) (f : Group → Group) : State :=
  match getGroup s k slot with
  | some g => setGroup s k slot (f g)
  | none => s

def getLink (s : State) (n : Nat) : Link := tget s.links n {}
def modLink (s : State) (n : Nat) (f : Link → Link) : State := { s with links := tmod s.links n {} f }
def getPcie (s : State) (n : Nat) : Pcie := tget s.pcie n {}
def modPcie (s : State) (n : Nat) (f : Pcie → Pcie) : State := { s with pcie := tmod s.pcie n {} f }
def getPort (s : State) (n : Nat) : Port := tget s.fabric.ports n {}
def modPort (s : State) (n : Nat) (f : Port → Port) : State :=
  { s with fabric := { s.fabric with ports := tmod s.fabric.ports n {} f } }
def getPart (s : State) (p : Nat) : Partition := tget s.disp.parts p {}
def modPart (s : State) (p : Nat) (f : Partition → Partition) : State :=
  { s with disp := { s.disp with parts := tmod s.disp.parts p {} f } }
def getCtx (s : State) (c : Nat) : Option Ctx := tfind s.disp.ctxs c
def modCtx (s : State) (c : Nat) (f : Ctx → Ctx) : State :=
  { s with disp := { s.disp with ctxs := tadj s.disp.ctxs c f } }
def getQueue (s : State) (h : Nat) : Option Queue := tfind s.disp.queues h
def modQueue (s : State) (h : Nat) (f : Queue → Queue) : State :=
  { s with disp := { s.disp with queues := tadj s.disp.queues h f } }
def getEntry (s : State) (e : Nat) : Option Entry := tfind s.disp.entries e
def modEntry (s : State) (e : Nat) (f : Entry → Entry) : State :=
  { s with disp := { s.disp with entries := tadj s.disp.entries e f } }
def getSlot (s : State) (j : Nat) : JobSlot := tget s.epochs.slots j {}
def modSlot (s : State) (j : Nat) (f : JobSlot → JobSlot) : State :=
  { s with epochs := { s.epochs with slots := tmod s.epochs.slots j {} f } }
def getLine (s : State) (l : Nat) : Line := tget s.homes.lines l {}
def setLine (s : State) (l : Nat) (v : Line) : State :=
  { s with homes := { s.homes with lines := if v = ({} : Line) then tdel s.homes.lines l else tput s.homes.lines l v } }
def modLine (s : State) (l : Nat) (f : Line → Line) : State := setLine s l (f (getLine s l))
def getStack (s : State) (k : Nat) : Stack := tget s.hbm.stk k {}
def modStack (s : State) (k : Nat) (f : Stack → Stack) : State :=
  { s with hbm := { s.hbm with stk := tmod s.hbm.stk k {} f } }
def modRail (s : State) (r : Nat) (f : Rail → Rail) : State :=
  { s with power := { s.power with rails := tmod s.power.rails r {} f } }
def getRing (s : State) (p : Nat) : FaultRing := tget s.xlat.rings p {}
def modRing (s : State) (p : Nat) (f : FaultRing → FaultRing) : State :=
  { s with xlat := { s.xlat with rings := tmod s.xlat.rings p {} f } }
def getJob (s : State) (j : Nat) : JobEntry := tget s.fabric.jobs j {}
def modJob (s : State) (j : Nat) (f : JobEntry → JobEntry) : State :=
  { s with fabric := { s.fabric with jobs := tmod s.fabric.jobs j {} f } }
def getTree (s : State) (t : Nat) : Tree := tget s.fabric.trees t {}
def modTree (s : State) (t : Nat) (f : Tree → Tree) : State :=
  { s with fabric := { s.fabric with trees := tmod s.fabric.trees t {} f } }
def modHomes (s : State) (f : Homes → Homes) : State := { s with homes := f s.homes }
def modHbm (s : State) (f : Hbm → Hbm) : State := { s with hbm := f s.hbm }
def modXlat (s : State) (f : Xlat → Xlat) : State := { s with xlat := f s.xlat }
def modFabric (s : State) (f : Fabric → Fabric) : State := { s with fabric := f s.fabric }
def modEpochs (s : State) (f : Epochs → Epochs) : State := { s with epochs := f s.epochs }
def modDisp (s : State) (f : Disp → Disp) : State := { s with disp := f s.disp }
def modPower (s : State) (f : Power → Power) : State := { s with power := f s.power }
def modSec (s : State) (f : Security → Security) : State := { s with sec := f s.sec }
def modObs (s : State) (f : Observe → Observe) : State := { s with obs := f s.obs }

/-- Send a message or drive a signal. -/
def emit (s : State) (o : Out) : State := { s with outbox := s.outbox ++ [o] }
def emits (s : State) : List Out → State
  | [] => s
  | o :: r => emits (emit s o) r

/-- Fold a state over a list. -/
def each {α : Type} (s : State) : List α → (State → α → State) → State
  | [], _ => s
  | x :: r, f => each (f s x) r f

/-- Draw a free value's index (assumption 4). -/
def draw (s : State) : State × Nat := ({ s with freeCtr := s.freeCtr + 1 }, s.freeCtr)

/-! ## Time, alarms, log and trace (R20, R362, R402, R408) -/

/-- The Spar die's local timer. -/
def sparTimer (s : State) : W64 := (getDie s 4).timer

/-- Unit identifier (R400): die, class, instance. -/
def unitId (die cls inst : Nat) : Nat := 8192 * die + 256 * cls + inst

/-- Set a bit of the alarm summary; the first bit set since a clear left it zero records the timer (R362). -/
def alarm (s : State) (n : Nat) : State :=
  modObs s fun o => { o with
    alarms := o.alarms ||| BitVec.ofNat 64 (2 ^ n)
    firstAlarm := if o.alarms = 0 then sparTimer s else o.firstAlarm }

/-- Whether an event is of the log (chapter 18, The log). -/
def isLogged (event arg : Nat) : Bool :=
  event = 0x001 || (event = 0x102 && (arg = 1 || arg = 2)) || event = 0x201 || event = 0x303 ||
  event = 0x601 || event = 0x602 || event = 0x801 || event = 0x802

/-- An observation record from numbers; COUNT saturates. -/
def obsRec (unit event ctx kind arg : Nat) (timer : W64) (param seq count : Nat) : ObsRec :=
  { unit := BitVec.ofNat 16 unit
    event := BitVec.ofNat 12 event
    ctx := BitVec.ofNat 12 ctx
    kind := BitVec.ofNat 2 kind
    arg := BitVec.ofNat 22 arg
    timer := timer
    param := BitVec.ofNat 64 param
    seq := BitVec.ofNat 32 seq
    count := BitVec.ofNat 32 (min count (2 ^ 32 - 1)) }

/-- Put a log or count record in the log buffer, in log-sequence order; false when it is full (R409). -/
def logPut (s : State) (unit event ctx kind arg : Nat) (timer : W64) (param count : Nat) : State × Bool :=
  if s.obs.logBuf.length < 1024 then
    (modObs s fun o => { o with
      logBuf := o.logBuf ++ [obsRec unit event ctx kind arg timer param o.logSeq count]
      logSeq := o.logSeq + 1 }, true)
  else (s, false)

/-- Log an event of a unit: the first of its window in full, the later ones counted (R408, R409). -/
def logEvent (s : State) (die unit event ctx arg param : Nat) : State :=
  let counted (s : State) : State :=
    alarm (modObs s fun o => { o with
      logWins := tmod o.logWins unit {} fun w => { w with count := w.count + 1 }
      logCounted := o.logCounted + 1 }) 14
  match tfind s.obs.logWins unit with
  | some _ => counted s
  | none =>
    let s := modObs s fun o => { o with logWins := tput o.logWins unit { count := 0, w := o.logW } }
    let (s, ok) := logPut s unit event ctx 2 arg (getDie s die).timer param 0
    if ok then s else counted s

/-- Whether full-level records of a die reach the trace engine: its Inner link carries bit 8, or it is the Spar die (R403). -/
def carriesFull (s : State) (die : Nat) : Bool := die = 4 || (getLink s die).inter.getLsbD 8

/-- A die generates a trace record for an event of level `full` or summary (R402, R403). -/
def traceEvent (s : State) (die unit event ctx arg param : Nat) (full : Bool) : State :=
  let lvl := s.obs.level
  if lvl = 0 || (full && lvl ≠ 2) then s
  else if full && !carriesFull s die then modDie s die fun d => { d with traceCap := d.traceCap + 1 }
  else
    let d := getDie s die
    let r := obsRec unit event ctx 0 arg d.timer param d.traceSeq 0
    let d := { d with traceSeq := (d.traceSeq + 1) % 2 ^ 32, traceGen := d.traceGen + 1 }
    if d.traceBuf.length < 4096 then
      match d.traceGap with
      | none => emit (setDie s die { d with traceBuf := d.traceBuf ++ [r] }) (.trace r)
      | some (first, n) =>
        let gap := obsRec (unitId die 0 0) 0 0 1 1 (sparTimer s) 0 first n
        emits (setDie s die { d with traceBuf := d.traceBuf ++ [gap, r], traceGap := none }) [.trace gap, .trace r]
    else
      let gap := match d.traceGap with
        | none => (r.seq.toNat, 1)
        | some (first, n) => (first, n + 1)
      alarm (setDie s die { d with traceGap := some gap, traceDrop := d.traceDrop + 1 }) 15

/-- An event of the table "Event identifiers": traced at its level, and logged when it concerns a fault. -/
def event (s : State) (die unit ev ctx arg param : Nat) (full : Bool) : State :=
  let s := traceEvent s die unit ev ctx arg param full
  if isLogged ev arg then logEvent s die unit ev ctx arg param else s

/-! ## Capability set (R15, R245) -/

/-- Bits present in all eight intersections. -/
def capSet (s : State) : W64 := (List.range 8).foldl (fun m n => m &&& (getLink s n).inter) (BitVec.allOnes 64)

def capHas (s : State) (n : Nat) : Bool := (capSet s).getLsbD n

/-! ## The life of the package -/

/-- The Halyard controller runs: the Spar die's clocks run and the package is powered (R13, R18). -/
def halyard (s : State) : Bool :=
  (getDie s 4).clocks && (match s.life with | .unpowered => false | .tripped => false | _ => true)

/-- The coherent domain serves requests: the device usable, or starting with the Monitor stage done, and the domain not
down (R179, R390). -/
def domainUp (s : State) : Bool :=
  (match s.life with | .usable => true | .starting => s.hbm.system | _ => false) && !s.homes.down && !s.homes.dead

/-- Cores run work. -/
def running (s : State) : Bool := domainUp s && halyard s

/-- Package state at 0x1000:07 (R361). -/
def packageState (s : State) : Nat :=
  match s.life with
  | .usable => if s.homes.dead then 2 else if s.homes.down then 3 else 1
  | .failed => 2
  | _ => 0

/-- A start-up failure, or a later failure of the device, recorded in the blocks of the dies it involves:
the first failure of a die stays (R13, R181). -/
def failDies (s : State) (ds : List Nat) (code : Nat) : State :=
  let s := each s ds fun s d => modDie s d fun x => if x.startState ≤ 1 then { x with startState := code } else x
  { s with life := .failed }

/-! ## Lanes -/

/-- The lanes of a mask, ascending. -/
def lanesOf (m : W32) : List Nat := bitsSet 32 m.toNat

/-- A lane mask from its lanes. -/
def laneMask (ls : List Nat) : W32 := BitVec.ofNat 32 (maskOf ls)

/-- Read general register `r` of a lane: g0 reads as zero (R23). -/
def rdG (t : Threads) (lane : Nat) (r : Nat) : W64 := if r = 0 then 0 else tget t.gpr (64 * lane + r) 0

/-- Write general register `r` of a lane: a write to g0 is discarded (R23). -/
def wrG (t : Threads) (lane : Nat) (r : Nat) (v : W64) : Threads :=
  if r = 0 then t else { t with gpr := tput t.gpr (64 * lane + r) v }

/-- Read a predicate as a lane mask: p0 reads as true (R23). -/
def rdPMask (t : Threads) (p : Nat) : W32 := if p = 0 then BitVec.allOnes 32 else tget t.pred p 0

/-- Read a predicate of a lane. -/
def rdP (t : Threads) (lane p : Nat) : Bool := (rdPMask t p).getLsbD lane

/-- Write a predicate of a lane: a write to p0 is discarded. -/
def wrP (t : Threads) (lane p : Nat) (v : Bool) : Threads :=
  if p = 0 then t
  else
    let m := rdPMask t p
    let b := BitVec.ofNat 32 (2 ^ lane)
    { t with pred := tput t.pred p (if v then m ||| b else m &&& ~~~b) }

/-- Read a tile descriptor register. -/
def rdT (t : Threads) (n : Nat) : W128 := tget t.tile n 0
/-- Write a tile descriptor register. -/
def wrT (t : Threads) (n : Nat) (v : W128) : Threads := { t with tile := tput t.tile n v }

/-- FCSR[6:0] of a lane. -/
def rdF (t : Threads) (lane : Nat) : BitVec 7 := tget t.fcsr lane 0
def wrF (t : Threads) (lane : Nat) (v : BitVec 7) : Threads := { t with fcsr := tput t.fcsr lane v }

/-- The guard of a lane: the named predicate, inverted when NEG is 1 (chapter 2, Encoding). -/
def guardOf (t : Threads) (guard : BitVec 4) (lane : Nat) : Bool :=
  (rdP t lane (guard.toNat % 8)) != guard.getLsbD 3

/-- Fold a change of the registers over lanes. -/
def eachLane (t : Threads) : List Nat → (Threads → Nat → Threads) → Threads
  | [], _ => t
  | l :: r, f => eachLane (f t l) r f

/-! ## The reconvergence stack (R48) -/

/-- The entry a group runs next: the lowest-PC entry that is not parked. -/
def topRun : List SEntry → Option SEntry
  | [] => none
  | e :: r => if e.park = .run then some e else topRun r

/-- Insert an entry, merging it with one of equal PC and equal park state (R48, R49). -/
def stackAdd (e : SEntry) : List SEntry → List SEntry
  | [] => if e.mask = 0 then [] else [e]
  | x :: r =>
    if e.mask = 0 then x :: r
    else if e.pc = x.pc ∧ e.park = x.park then { x with mask := x.mask ||| e.mask } :: r
    else if e.pc.toNat < x.pc.toNat then e :: x :: r
    else x :: stackAdd e r

/-- Merge a list of entries into a sorted stack. -/
def stackOf (es : List SEntry) : List SEntry := es.foldr stackAdd []

/-- The stack after the entry of PC `pc` issued: its lanes go to their targets, a target of 0 exits, and
the lanes of `parked` stay at the barrier's PC with park state `pk` (R47, R48). -/
def stackIssue (st : List SEntry) (e : SEntry) (target : Nat → W64) (parked : W32) (pk : Park) : List SEntry :=
  let others := st.filter fun x => x ≠ e
  let moved := (lanesOf (e.mask &&& ~~~parked)).map fun l =>
    ({ pc := target l, mask := BitVec.ofNat 32 (2 ^ l), park := .run } : SEntry)
  let moved := moved.filter fun x => x.pc ≠ 0
  let kept : List SEntry := if e.mask &&& parked = 0 then [] else [{ pc := e.pc, mask := e.mask &&& parked, park := pk }]
  stackOf (others ++ kept ++ moved)

/-- Lanes that have not exited. -/
def liveMask (st : List SEntry) : W32 := st.foldl (fun m e => m ||| e.mask) 0

end Sys2Proof.Machine
end

