-- ==== Sys2Proof/Machine/Home.lean ====
section
/-! DEFINITION. Physical memory as its homes serve it: placement regions and homes (R154, R183 to R185),
the ownership table and its check (R190 to R192), lines and their transitions at the home (R156 to R159,
R167 to R169), the silt engine's copy before a first write (R280 to R286), watched lines (R322),
reservations (R138, R139), and one read and one write of a line. -/

namespace Sys2Proof.Machine

/-! ## Placement -/

/-- The active region that covers a physical address, if one does (R183). -/
def findRegion (pa : Nat) : Tab Region → Option Region
  | [] => none
  | (_, r) :: rest => if r.size ≠ 0 ∧ r.base ≤ pa ∧ pa < r.base + r.size then some r else findRegion pa rest

def regionOf (s : State) (pa : Nat) : Option Region := findRegion pa s.hbm.regions

/-- The global channels of partition `p`'s set in key order 12 j + k (R185). -/
def partChannels (s : State) (p : Nat) : List Nat :=
  sortBy (fun g => 12 * (g % 32) + g / 32) (bitsSet 384 (getPart s p).channels)

/-- The number C of channels in a region's set (R184, R185). -/
def chanCount (s : State) (r : Region) : Nat :=
  match r.cls with
  | 0 => 384
  | 1 => 96
  | 2 => 32
  | _ => popN 384 (getPart s r.target).channels

/-- Stack and channel within the stack at a position of a region's ordered set (R185). -/
def chanAt (s : State) (r : Region) (n : Nat) : Nat × Nat :=
  match r.cls with
  | 0 => (n % 12, n / 12)
  | 1 => (3 * r.target + n % 3, n / 3)
  | 2 => (r.target, n)
  | _ => let g := nth (partChannels s r.target) n 0; (g / 32, g % 32)

/-- Where a controller places an address: stack, channel, channel-stripe index (R185). -/
def placeIn (s : State) (r : Region) (pa : Nat) : Nat × Nat × Nat :=
  let c := max 1 (chanCount s r)
  let n := (pa - r.base) / 256
  let (k, j) := chanAt s r (n % c)
  (k, j, r.cb + n / c)

/-- The home hash of an address (R154). -/
def homeHash (pa : Nat) : Nat :=
  let x := (pa / 256) % 2 ^ 40
  Nat.xor (Nat.xor x (x / 2 ^ 12)) (x / 2 ^ 24)

/-- The home slice of an address under a region (R154). -/
def homeIn (s : State) (r : Region) (pa : Nat) : Nat :=
  let h := homeHash pa
  match r.cls with
  | 0 => h % 40
  | 1 => 6 * r.target + h % 6
  | 2 => 6 * (r.target / 3) + 2 * (r.target % 3) + h % 2
  | _ => let (k, j, _) := placeIn s r pa; 6 * (k / 3) + 2 * (k % 3) + j % 2

/-- The home slice of an address; an uncovered address hashes over all slices, where it is refused. -/
def homeOf (s : State) (pa : Nat) : Nat :=
  match regionOf s pa with
  | some r => homeIn s r pa
  | none => homeHash pa % 40

/-- The die of a slice (R153). -/
def sliceDie (slice : Nat) : Nat := if slice < 24 then slice / 6 else 4

/-- The set of a line within its home slice (R153). -/
def setOf (pa : Nat) : Nat := Nat.xor ((pa / 128) % 8192) ((pa / 2 ^ 20) % 8192)

def covered (s : State) (pa : Nat) : Bool := decide (pa < 2 ^ 40) && (regionOf s pa).isSome

/-! ## The ownership table -/

/-- Frames of the silt pool (R284). -/
def siltP (s : State) : Nat := 11718750 * s.epochs.pct / 100

/-- The entry of a frame the table lists nowhere: free and awaiting zeroing; the table's own frames are system, and
from training on so are those of the firmware and of the silt pool (R190, R284, R390). -/
def own0 (s : State) (f : Nat) : Own :=
  if f < 4096 then { state := 3, zero := false }
  else if s.hbm.system && decide (f < 5120 + siltP s) then { state := 3 }
  else {}
def getOwn (s : State) (f : Nat) : Own := tget s.hbm.own f (own0 s f)
def modOwn (s : State) (f : Nat) (g : Own → Own) : State :=
  modHbm s fun h => { h with own := tput h.own f (g (getOwn s f)) }

/-- An ownership-table entry as its 8 bytes hold it (table "Ownership table entry"). -/
def ownWord (o : Own) : Nat :=
  flds [(52, o.owner % 4096), (46, o.part % 64), (44, o.state % 4), (42, o.share % 4), (41, b2n o.zero),
    (40, b2n o.poison), (39, b2n o.presv)]

/-- An entry from the NEW word of a frame command. -/
def ownOf (w : Nat) : Own :=
  { owner := bits w 63 52
    part := bits w 51 46
    state := bits w 45 44
    share := bits w 43 42
    zero := bit w 41
    poison := bit w 40
    presv := bit w 39 }

/-- Under whose identity a request runs (R191). -/
inductive Who where
  /-- a context and its partition -/
  | ctx (c : BitVec 12) (q : Nat)
  /-- a virtual function of a partition -/
  | vf (q : Nat)
  /-- the system mark -/
  | sys
  /-- the Halyard controller, and the root of trust -/
  | halyard
  | root
deriving DecidableEq, Repr

/-- The ownership check of a request on a frame (R192). -/
def ownPass (s : State) (who : Who) (write : Bool) (f : Nat) : Bool :=
  let o := getOwn s f
  o.lost || match who with
  | .sys => !(write && decide (f < 4352))
  | .halyard => !(write && decide (4096 ≤ f) && decide (f < 4352))
  | .root => !(write && decide (f < 4096))
  | .ctx c q =>
    o.state = 2 && (o.owner = c.toNat || ((o.share = 1 || o.share = 2) && q = o.part) || (!write && o.share = 2))
  | .vf q =>
    (o.state = 1 && q = o.part) || (o.state = 2 && (q = o.part || (!write && o.share = 2)))

/-- A request passes at its home: the address is covered and the ownership check passes (R183, R192). -/
def paPass (s : State) (who : Who) (write : Bool) (pa : Nat) : Bool := covered s pa && ownPass s who write (pa / 65536)

/-! ## Reading bytes -/

/-- One byte as its home serves it; the ownership table's two copies read as the table stands (R190). -/
def memByte (s : State) (pa : Nat) : Byte :=
  if pa < 2 ^ 28 then BitVec.ofNat 8 (ownWord (getOwn s (pa % 2 ^ 27 / 8)) / 256 ^ (pa % 8))
  else mread s.mem pa

def memBytes (s : State) (pa : Nat) : Nat → List Byte
  | 0 => []
  | n + 1 => memByte s pa :: memBytes s (pa + 1) n

/-- An 8-byte little-endian word. -/
def memWord (s : State) (pa : Nat) : Nat := leNat (memBytes s pa 8)

def modMem (s : State) (f : Memory → Memory) : State := { s with mem := f s.mem }

/-- Write bytes of memory with no other effect. -/
def putBytes (s : State) (pa : Nat) (bs : List Byte) : State := modMem s fun m => mwriteN m pa bs
def putWord (s : State) (pa v : Nat) : State := putBytes s pa (natLe 8 v)

/-! ## Requests at a home -/

/-- Who asks, for the home: identity, agent number (R164), thread, source device (own 0xFFFF is local),
partition whose ways it may use, and whether it is a stream-class TMOVE. -/
structure By where
  who : Who
  agent : Nat
  thread : Nat := 0
  dev : Option Nat := none
  stream : Bool := false
deriving DecidableEq, Repr

/-- The key of a thread for reservations: device, agent, thread. -/
def By.key (b : By) : Nat :=
  (match b.dev with | none => 0 | some d => (d + 1) * 2 ^ 21) + b.agent * 4096 + b.thread

/-- Partition of a request; 255 for a request with none (R167). -/
def By.part (b : By) : Nat :=
  match b.who with
  | .ctx _ q => q
  | .vf q => q
  | _ => 255

/-- Agent numbers (table "Agent numbers"). -/
def agentCC (n : Nat) : Nat := n
def agentTC (k : Nat) : Nat := 128 + k
def agentDispatcher : Nat := 256
def agentPcie (p : Nat) : Nat := 272 + p
def agentPort (p : Nat) : Nat := 288 + p
def agentHalyard : Nat := 320
def agentTrace : Nat := 321

def byDispatcher : By := { who := .sys, agent := agentDispatcher }
def byHalyard : By := { who := .halyard, agent := agentHalyard }
def byTrace : By := { who := .sys, agent := agentTrace }

/-! ## Ways, classes and victims (R167 to R169) -/

/-- Whose ways a request of partition `p` allocates into at a slice: the partition's, or 64 for the shared ways. -/
def waysOf (s : State) (p slice : Nat) : Nat :=
  if p < 64 ∧ (getPart s p).ways ≠ 0 ∧ bit (getPart s p).slices slice then p else 64

/-- Ways of a slice assigned to partitions. -/
def waysAssigned (s : State) (slice : Nat) : Nat :=
  s.disp.parts.foldl (fun n p => if bit p.2.slices slice then n + p.2.ways else n) 0

/-- Key of an owner's ways in a set, for retired ways. -/
def wayKey (w slice set : Nat) : Nat := 128 * (8192 * slice + set) + w

/-- The number of ways an owner has in a set of a slice, less those retired (R298). -/
def waysCount (s : State) (w slice set : Nat) : Nat :=
  (if w < 64 then (getPart s w).ways else 16 - waysAssigned s slice) - tget s.homes.retiredWays (wayKey w slice set) 0

/-- The lowest-numbered enabled Reef window that holds a line for a partition (R168). -/
def findReef (pa p : Nat) : Tab Reef → Option (Nat × Reef)
  | [] => none
  | (w, r) :: rest =>
    if r.size ≠ 0 ∧ r.base ≤ pa ∧ pa < r.base + r.size ∧ r.part = p then some (w, r) else findReef pa p rest

def classOfNat (n : Nat) : LClass := if n = 0 then .persist else if n = 1 then .normal else .stream

/-- Class and window of a line for a request (R168). -/
def lineClass (s : State) (b : By) (ln : Nat) : LClass × Option Nat :=
  match findReef (ln * 128) b.part s.homes.reef with
  | some (w, r) => (classOfNat r.cls, some w)
  | none => (if b.stream then .stream else .normal, none)

/-- The lines of a slice and set. -/
def setLines (s : State) (slice set : Nat) : List (Nat × Line) :=
  s.homes.lines.filter fun p => homeOf s (p.1 * 128) = slice && setOf (p.1 * 128) = set && p.2.st != .I

def stable (l : Line) : Bool := l.st != .F && l.st != .K && l.st != .W
def mayEvict (l : Line) : Bool := stable l && !l.rp && l.pend.isEmpty

/-- The line of least stamp. -/
def oldest : List (Nat × Line) → Option (Nat × Line)
  | [] => none
  | x :: r => match oldest r with
    | none => some x
    | some y => if x.2.stamp ≤ y.2.stamp then some x else some y

/-- The victim among candidates: the oldest stream line, else normal, else persist (R169). -/
def victimOf (c : List (Nat × Line)) : Option (Nat × Line) :=
  match oldest (c.filter fun p => p.2.cls = .stream) with
  | some v => some v
  | none => match oldest (c.filter fun p => p.2.cls = .normal) with
    | some v => some v
    | none => oldest c

/-- A line leaves the slice: a poisoned one marks its frame (R157, R178). -/
def evict (s : State) (ln : Nat) : State :=
  let l := getLine s ln
  let s := if l.poison then modOwn s (ln / 512) fun o => { o with poison := true } else s
  setLine s ln {}

/-- A stamp older than every line of a list. -/
def olderStamp (ls : List (Nat × Line)) (clock : Nat) : Nat := ls.foldl (fun n p => min n p.2.stamp) clock - 1

/-- Demote the oldest persist line among `ls`, counting it against its window (R169, R170). -/
def demoteOldest (s : State) (slice : Nat) (ls : List (Nat × Line)) : State :=
  match oldest (ls.filter fun p => p.2.cls = .persist) with
  | none => s
  | some (k, l) =>
    let s := setLine s k { l with cls := .normal }
    match l.win with
    | none => s
    | some w =>
      let s := modHomes s fun h => { h with reef := tadj h.reef w fun r => { r with demotions := r.demotions + 1 } }
      event s (sliceDie slice) (unitId (sliceDie slice) 3 slice) 0x302 0 w 0 true

/-- The persist limits after a persist line is installed (R169). -/
def persistLimits (s : State) (slice set w : Nat) (win : Option Nat) : State :=
  let mine (s : State) : List (Nat × Line) :=
    (setLines s slice set).filter fun p => p.2.ways = w && p.2.cls = .persist
  let ofWin := (mine s).filter fun p => p.2.win = win
  let quota := match win with
    | some n => (tget s.homes.reef n {}).quota
    | none => 16
  let s := if ofWin.length > quota then demoteOldest s slice ofWin else s
  if (mine s).length > waysCount s w slice set - 4 then demoteOldest s slice (mine s) else s

/-- Install a line in its set, evicting as R169 says; false where no way can be had. -/
def install (s : State) (b : By) (ln : Nat) (cls : LClass) (win : Option Nat) (l : Line) : State × Bool :=
  let pa := ln * 128
  let slice := homeOf s pa
  let set := setOf pa
  let w := waysOf s b.part slice
  let here := (setLines s slice set).filter fun p => p.2.ways = w
  let room := decide (here.length < waysCount s w slice set)
  let cand := here.filter fun p => mayEvict p.2
  match room, victimOf cand with
  | false, none => (s, false)
  | _, v =>
    let s := if room then s else match v with | some (k, _) => evict s k | none => s
    let clock := s.homes.clock
    let stamp := if cls = .stream then olderStamp (setLines s slice set) clock else clock
    let s := setLine s ln { l with cls := cls, win := win, ways := w, stamp := stamp }
    let s := modHomes s fun h => { h with clock := clock + 1 }
    (if cls = .persist then persistLimits s slice set w win else s, true)

/-- Whether a line's fill is repaired from a replica: an active pair covers it (R302). -/
def replicaOf (s : State) (pa : Nat) : Option (Nat × Replica) :=
  (s.epochs.replicas.filter fun p => p.2.state = 1 && p.2.size ≠ 0 && decide (p.2.source ≤ pa) &&
    decide (pa < p.2.source + p.2.size)).head?

/-- A fill's data: poisoned where the frame is, unless a replica repairs it (R178, R190, R302). -/
def fillPoison (s : State) (ln : Nat) : State × Bool :=
  if (getOwn s (ln / 512)).poison then
    match replicaOf s (ln * 128) with
    | some (r, _) =>
      (modEpochs s fun e => { e with replicas := tadj e.replicas r fun x => { x with repaired := x.repaired + 1 } }, false)
    | none => (s, true)
  else (s, false)

/-- Install the sibling of a filled line as the oldest normal line of its set (R158). -/
def installSibling (s : State) (b : By) (ln : Nat) : State :=
  let sib := Nat.xor ln 1
  if (getLine s sib).st != .I then s
  else
    let pa := sib * 128
    let slice := homeOf s pa
    let old := olderStamp (setLines s slice (setOf pa)) s.homes.clock
    let (s, poison) := fillPoison s sib
    let (s, ok) := install s b sib .normal none { st := .V, poison := poison }
    if ok then modLine s sib fun l => { l with stamp := old } else s

/-- A hit renews a line's class and order of use (R168, R169). -/
def touch (s : State) (b : By) (ln : Nat) : State :=
  let (cls, win) := lineClass s b ln
  let s := modLine s ln fun l => { l with cls := cls, win := win, stamp := s.homes.clock }
  modHomes s fun h => { h with clock := h.clock + 1 }

/-- Bring a line in: a fill with its sibling, or an allocation without fill for a whole-line write (R157). -/
def bring (s : State) (b : By) (ln : Nat) (fill : Bool) : State :=
  let (cls, win) := lineClass s b ln
  if fill then
    let (s, poison) := fillPoison s ln
    let (s, _) := install s b ln cls win { st := .V, poison := poison }
    installSibling s b ln
  else (install s b ln cls win { st := .V }).1

/-- The line is present, filled where it was not. -/
def present (s : State) (b : By) (ln : Nat) : State :=
  if (getLine s ln).st = .I then bring s b ln true else touch s b ln

/-- A fill or the directory's answer that a line awaits has come: the line is stable (R157). -/
def settleLine (l : Line) : Line :=
  match l.st with
  | .F => { l with st := .V }
  | .K =>
    let d := l.dirty || l.mod
    if l.snoop = 0 then { l with st := .S, dirty := d, mod := false, sharers := l.owner :: l.sharers, owner := 0 }
    else { l with st := .V, dirty := d, mod := false, sharers := [], owner := 0, hint := false }
  | _ => l

/-- A request finds its line stable: what the line awaited comes first. -/
def settled (s : State) (ln : Nat) : State := if stable (getLine s ln) then s else modLine s ln settleLine

/-- Non-allocating read at the home (R157). -/
def naRead (s : State) (b : By) (ln : Nat) : State :=
  let s := present (settled s ln) b ln
  modLine s ln fun l =>
    if l.st = .X then { l with st := .S, dirty := l.dirty || l.mod, mod := false, sharers := [l.owner], owner := 0 } else l

/-- Non-allocating write at the home: every holder invalidated, D set; a whole line clears poison (R157, R178). -/
def naWrite (s : State) (b : By) (ln : Nat) (whole : Bool) : State :=
  let s := settled s ln
  let s := if (getLine s ln).st = .I then bring s b ln (!whole) else touch s b ln
  modLine s ln fun l =>
    if l.st = .I then l
    else
      { l with
        st := if stable l then .V else l.st
        dirty := true
        mod := false
        sharers := []
        owner := 0
        hint := if stable l then false else l.hint
        poison := if whole then false else l.poison }

/-- Control-core read by `c` (R157, R159). -/
def ccRead (s : State) (b : By) (c ln : Nat) : State :=
  let s := present (settled s ln) b ln
  modLine s ln fun l =>
    match l.st with
    | .V => { l with st := .X, owner := c, hint := true }
    | .S => if l.sharers.contains c then l else { l with sharers := l.sharers ++ [c], hint := true }
    | .X =>
      if l.owner = c then l
      else { l with st := .S, dirty := l.dirty || l.mod, mod := false, sharers := [l.owner, c], owner := 0, hint := true }
    | _ => l

/-- Control-core read for ownership by `c`, whose copy becomes M when it stores (R157, R159). -/
def ccOwn (s : State) (b : By) (c ln : Nat) : State :=
  let s := present (settled s ln) b ln
  modLine s ln fun l =>
    if stable l && l.st != .I then
      { l with
        st := .X
        dirty := if l.st = .X && l.owner ≠ c then l.dirty || l.mod else l.dirty
        mod := true
        owner := c
        sharers := []
        hint := true }
    else l

/-- Whether a read of a line delivers poison: the line's mark, or the frame's where the line is absent. -/
def linePoisoned (s : State) (ln : Nat) : Bool :=
  let l := getLine s ln
  if (getOwn s (ln / 512)).lost then true
  else if l.st = .I then (getOwn s (ln / 512)).poison && (replicaOf s (ln * 128)).isNone else l.poison

/-! ## The silt engine (R280, R284 to R286) -/

/-- Slots of the pool, and frames of its log (R284). -/
def siltN (s : State) : Nat := 2048 * siltP s / 2049
def siltL (s : State) : Nat := siltP s - siltN s
def siltBase : Nat := 5120 * 65536
def siltSlotPa (s : State) (i : Nat) : Nat := siltBase + 65536 * (siltL s + i)

/-- A silt log record's bytes. -/
def siltRecord (kind : Nat) (r : Silt) : List Byte :=
  natLe 8 (flds [(40, r.frame), (36, kind), (24, r.ctx.toNat), (16, r.slot)]) ++ natLe 8 r.epoch ++
    natLe 8 (flds [(32, r.seq % 2 ^ 32), (16, r.srcdev)]) ++ natLe 8 r.timer.toNat

/-- The lowest free slot index from `k` up, in a sorted table. -/
def lowestFree : Tab Silt → Nat → Nat
  | [], k => k
  | (j, _) :: r, k => if j = k then lowestFree r (k + 1) else k

/-- Write a record, and the frame's copy for KIND 1, into slot `i` (R280, R284). -/
def siltPut (s : State) (i : Nat) (r : Silt) : State :=
  let s := modEpochs s fun e => { e with silt := tput e.silt i r, written := e.written + 1 }
  let s := putBytes s (siltBase + 32 * i) (siltRecord r.kind r)
  if r.kind = 1 then
    let dst := siltSlotPa s i
    let src := r.frame * 65536
    let cells := s.mem.filter fun p => decide (src ≤ p.1) && decide (p.1 < src + 65536)
    modMem s fun m => cells.foldl (fun m p => mwrite m (p.1 - src + dst) p.2) (mzero m dst 65536)
  else s

/-- Free slot `i`: its record reads KIND 0. -/
def siltFree (s : State) (i : Nat) : State :=
  match tfind s.epochs.silt i with
  | none => s
  | some r =>
    putBytes (modEpochs s fun e => { e with silt := tdel e.silt i }) (siltBase + 32 * i) (siltRecord 0 r)

/-- The coordinator of a job: the manager, or this device for a job confined to it (chapter 12, Commit). -/
def coordOf (s : State) (sl : JobSlot) : Nat := if sl.devices = 1 then s.fabric.device else s.fabric.manager

/-- Ask each job that holds slots for a commit, most slots first, when the pool passes its threshold (R286). -/
def siltThreshold (s : State) : State :=
  if s.epochs.silt.length < (8 * siltN s + 9) / 10 then s
  else
    let held (j : Nat) : Nat := (s.epochs.silt.filter fun p => p.2.slot = j && p.2.kind = 1).length
    let jobs := (List.range 256).filter fun j => held j ≠ 0 && !(getSlot s j).asked && (getSlot s j).state ≠ 2
    let jobs := (sortBy (fun j => held j) jobs).reverse
    each s jobs fun s j =>
      let sl := getSlot s j
      let s := modSlot s j fun x => { x with asked := true }
      let s := modEpochs s fun e => { e with fills := e.fills + 1 }
      emit s (.epoch (coordOf s sl) sl.job 1 0 (sl.committed + 1))

/-- What the silt engine does before the first write of an epoch to a preserved frame of a protected job
(R280, R281, R286), or of a tracking interval to a frame of a tracked partition (R285). -/
def siltBefore (s : State) (f : Nat) (srcdev : Nat) : State :=
  let o := getOwn s f
  let rec0 (kind slot epoch seq : Nat) : Silt :=
    { frame := f, kind := kind, ctx := BitVec.ofNat 12 o.owner, slot := slot, epoch := epoch, seq := seq,
      srcdev := srcdev, timer := sparTimer s, part := o.part }
  let j := match getCtx s o.owner with | some c => c.slot | none => 0
  let sl := getSlot s j
  let i := lowestFree s.epochs.silt 0
  let keeps := o.presv && o.state = 2 && (getCtx s o.owner).isSome && sl.protect ≠ 0 && !sl.copied.contains f
  let s :=
    if keeps then
      if i < siltN s then
        let s := siltPut s i (rec0 1 j (sl.committed + 1) (sl.seq + 1))
        let s := event s 4 (unitId 4 10 0) 0x301 o.owner j (f * 65536) true
        siltThreshold (modSlot s j fun x => { x with copied := x.copied ++ [f], seq := x.seq + 1 })
      else
        modEpochs (modSlot (alarm s 3) j fun x => { x with
          copied := x.copied ++ [f]
          state := if x.state = 1 then 5 else x.state
          overflowed := true }) fun e =>
          { e with overflows := e.overflows + 1 }
    else s
  let tracked := (tget s.disp.tracks o.part {}).on && (o.state = 1 || o.state = 2)
  let has := s.epochs.silt.any fun p => p.2.frame = f && (p.2.kind = 1 || p.2.kind = 2)
  if tracked && !has then
    let i := lowestFree s.epochs.silt 0
    if i < siltN s then siltPut s i (rec0 2 j (sl.committed + 1) sl.seq)
    else modDisp s fun d => { d with tracks := tadj d.tracks o.part fun t => { t with overflow := true } }
  else s

/-! ## Watches and reservations -/

/-- Signal the handles of a line that are not pending (R322). -/
def signalWatches (s : State) (ln : Nat) : State :=
  let hs := s.disp.watches.filter fun p => p.2.line = ln && !p.2.pending
  each s hs fun s p =>
    let s := modDisp s fun d => { d with watches := tadj d.watches p.1 fun w => { w with pending := true } }
    emit s (.watched [p.1] (match p.2.consumer with | .cc n => some n | _ => none))

/-- Clear the reservations a write by thread `key` ends: all on the line, and the thread's own (R139). -/
def clearResv (s : State) (key ln : Nat) : State :=
  let s := modHomes s fun h => { h with resvs := h.resvs.filter fun r => r.who ≠ key && r.line ≠ ln }
  { s with ccs := tmap s.ccs fun n c => if c.resv = some ln || agentCC n * 4096 = key then { c with resv := none } else c }

/-- Clear one thread's reservation. -/
def dropResv (s : State) (key : Nat) : State := modHomes s fun h => { h with resvs := h.resvs.filter fun r => r.who ≠ key }

/-- Reserve a line in its home's table of 2,048, displacing the oldest where it is full (R138). -/
def setResv (s : State) (key ln : Nat) : State :=
  let slice := homeOf s (ln * 128)
  modHomes s fun h =>
    let rs := h.resvs.filter fun r => r.who ≠ key
    let here := rs.filter fun r => homeOf s (r.line * 128) = slice
    let rs := if here.length < 2048 then rs else match here.head? with
      | some o => rs.filter fun r => r ≠ o
      | none => rs
    { h with resvs := rs ++ [{ who := key, line := ln }] }

def hasResv (s : State) (key ln : Nat) : Bool := s.homes.resvs.any fun r => r.who = key && r.line = ln

/-- A reservation of another thread defers conflicting requests to a line (R141). The lanes of one group,
whose keys differ in the low five bits alone, do not defer each other (R58). -/
def resvDefers (s : State) (key ln : Nat) : Bool :=
  (s.homes.resvs.any fun r => r.line = ln && r.window && r.who / 32 ≠ key / 32) ||
  (s.ccs.any fun p => p.2.resv = some ln && p.2.window && agentCC p.1 * 4096 ≠ key)

/-- A write of a thread to a line waits: a reservation defers it, or the line is locked (R141, R244). -/
def lineDeferred (s : State) (key ln : Nat) : Bool := (getLine s ln).lock.isSome || resvDefers s key ln

/-! ## One read, one write -/

/-- Write bytes at their home, after its check passed: the silt copy first, then the line's transition, the
bytes, and everything a performed write ends or signals (R119, R139, R157, R280, R322). -/
def homeWrite (s : State) (b : By) (pa : Nat) (bs : List Byte) : State :=
  let ln := pa / 128
  if (getOwn s (ln / 512)).lost then s else
  let s := siltBefore s (pa / 65536) (match b.dev with | some d => d | none => s.fabric.device)
  let s := naWrite s b ln (bs.length = 128)
  let s := putBytes s pa bs
  signalWatches (clearResv s b.key ln) ln

/-- Write bytes of a control core into its own copy of the line (R124). -/
def ccWrite (s : State) (b : By) (c pa : Nat) (bs : List Byte) : State :=
  let ln := pa / 128
  if (getOwn s (ln / 512)).lost then s else
  let s := siltBefore s (pa / 65536) s.fabric.device
  let s := ccOwn s b c ln
  let s := putBytes s pa bs
  signalWatches (clearResv s b.key ln) ln

/-- Context a request carries, or 0. -/
def By.ctxId (b : By) : Nat :=
  match b.who with
  | .ctx c _ => c.toNat
  | _ => 0

/-- A line is delivered poisoned: its slice traces and logs it (table "Event identifiers"). -/
def poisonEvent (s : State) (b : By) (ln : Nat) : State :=
  let slice := homeOf s (ln * 128)
  alarm (event s (sliceDie slice) (unitId (sliceDie slice) 3 slice) 0x303 b.ctxId 0 (ln / 512 * 65536) false) 6

/-- Read `n` bytes of one line at their home: the state, the bytes, and whether they are poisoned. -/
def homeRead (s : State) (b : By) (pa n : Nat) : State × List Byte × Bool :=
  let poison := linePoisoned s (pa / 128)
  let s := naRead s b (pa / 128)
  let s := if poison then poisonEvent s b (pa / 128) else s
  (s, memBytes s pa n, poison)

/-- Write a long string of bytes line by line. -/
def writeSpan (s : State) (b : By) (pa : Nat) (bs : List Byte) : Nat → State
  | 0 => s
  | k + 1 =>
    if bs.isEmpty then s
    else
      let n := 128 - pa % 128
      writeSpan (homeWrite s b pa (bs.take n)) b (pa + n) (bs.drop n) k

/-- Write any number of bytes at their homes, in ascending lines. -/
def homeWriteAll (s : State) (b : By) (pa : Nat) (bs : List Byte) : State := writeSpan s b pa bs (bs.length + 1)

/-- Whether every frame of a byte range passes a check. -/
def rangePass (s : State) (who : Who) (write : Bool) (pa n : Nat) : Bool :=
  (List.range ((pa + n - 1) / 65536 + 1 - pa / 65536)).all fun i => paPass s who write ((pa / 65536 + i) * 65536)

end Sys2Proof.Machine
end

