-- ==== Sys2Proof/Machine/Remote.lean ====
section
/-! DEFINITION. Requests that leave the device: routing (R258 to R262), the trackers of requests sourced
(R265), and the packets and PCI Express requests sent (R208). -/

namespace Sys2Proof.Machine

/-- The entry of a destination in the bank that a generation's low bits name (R260, R262). -/
def routeEntry (s : State) (rgen dst : Nat) : Option W32 :=
  if s.fabric.routeGen % 16 = rgen then some (tget (if s.fabric.current = 0 then s.fabric.bank0 else s.fabric.bank1) dst 0)
  else if s.fabric.loaded && s.fabric.otherGen % 16 = rgen then
    some (tget (if s.fabric.current = 0 then s.fabric.bank1 else s.fabric.bank0) dst 0)
  else none

/-- The hash of a source (R260). -/
def srcHash (src : Nat) : Nat := Nat.xor src (src / 128)

/-- Port and virtual lane for a pair, where the entry is valid and the port carries traffic (R260). -/
def routePort (s : State) (e : W32) (src : Nat) : Option (Nat × Nat) :=
  let v := e.toNat
  let a := srcHash src % (bits v 30 29 + 1)
  let port := bits v (5 * a + 4) (5 * a)
  if bit v 31 && decide (port < 18) && decide ((getPort s port).state = 5) then some (port, b2n (bit v (24 + a))) else none

/-- Generation stamped on a new packet to a destination (R262). -/
def stampGen (s : State) (dst : Nat) : Nat :=
  (if s.fabric.draining.contains dst then s.fabric.otherGen else s.fabric.routeGen) % 16

/-- The port and virtual lane a new packet leaves by: 32 is the loopback (R259); none where no route serves it. -/
def outPort (s : State) (dst : Nat) : Option (Nat × Nat) :=
  if s.fabric.device = 0xFFFF || dst = 0xFFFF then none
  else if dst = s.fabric.device then some (32, 0)
  else
    match routeEntry s (stampGen s dst) dst with
    | none => none
    | some e => routePort s e s.fabric.device

/-- A destination can be reached: assigned, path not failed, a route (R258, R265). -/
def reachable (s : State) (dst : Nat) : Bool := !s.fabric.failed.contains dst && (outPort s dst).isSome

/-- The header of a packet this device sources. -/
def newHdr (s : State) (dst tag job addr sagent thread gmask boff bsize aop : Nat) (rel : Bool) (opx : Nat) : SPkt :=
  { dst := BitVec.ofNat 16 dst
    src := BitVec.ofNat 16 s.fabric.device
    hops := BitVec.ofNat 5 (if dst = s.fabric.device then s.fabric.hops else s.fabric.hops - 1)
    tag := BitVec.ofNat 21 tag
    job := BitVec.ofNat 16 job
    addr := BitVec.ofNat 48 addr
    sagent := BitVec.ofNat 9 sagent
    thread := BitVec.ofNat 12 thread
    gmask := BitVec.ofNat 16 gmask
    boff := BitVec.ofNat 4 boff
    bsize := BitVec.ofNat 3 bsize
    poison := false
    aop := BitVec.ofNat 5 aop
    status := 0
    rel := rel
    rgen := BitVec.ofNat 4 (stampGen s dst)
    opx := BitVec.ofNat 64 opx }

/-- Class of a packet's opcode (tables "Shroud opcodes" and "Shroud classes"): request, response, collective, control. -/
def pktClass (op : Nat) : Nat := if op < 0x20 then 0 else if op < 0x30 then 1 else if op < 0x38 then 2 else 3

/-- The 32 bytes of a packet header (table "Shroud packet header"). -/
def hdrBytes (op : Nat) (p : SPkt) (len : Nat) : List Byte :=
  natLe 8 (flds [(48, p.dst.toNat), (32, p.src.toNat), (26, op), (21, p.hops.toNat), (0, p.tag.toNat)]) ++
  natLe 8 (flds [(48, p.job.toNat), (0, p.addr.toNat)]) ++
  natLe 8 (flds [(55, p.sagent.toNat), (43, p.thread.toNat), (27, p.gmask.toNat), (23, p.boff.toNat), (20, p.bsize.toNat),
    (19, b2n p.poison), (14, p.aop.toNat), (10, p.status.toNat), (5, len), (4, b2n p.rel), (0, p.rgen.toNat)]) ++
  natLe 8 p.opx.toNat

/-- Slots a packet takes. -/
def slotCount (q : QPkt) : Nat := 2 + (q.data.length + 15) / 16

/-- A packet leaves a port, in a flit of its own: it spends its credits and enters the replay buffer (R235, R256). -/
def portSend (s : State) (n : Nat) (q : QPkt) : State :=
  let s := modPort s n fun p => { p with
    credits := setNth p.credits q.vc (nth p.credits q.vc 0 - slotCount q)
    replay := p.replay ++ [(p.txSeq, hdrBytes q.op q.p (q.data.length / 16) ++ q.data)]
    txSeq := (p.txSeq + 1) % 4096
    flits := p.flits + 1 }
  emit s (.packet n q.op q.p q.data)

/-- A port can send a packet: it is up, holds the credits, and its replay buffer has room. -/
def portCan (s : State) (n : Nat) (q : QPkt) : Bool :=
  let p := getPort s n
  p.state = 5 && decide (slotCount q ≤ nth p.credits q.vc 0) && decide (p.replay.length < 1024)

/-- Send what a port's queue can, each virtual channel in its order. -/
def portDrain (s : State) (n : Nat) (blocked : List Nat) : List QPkt → State × List QPkt
  | [] => (s, [])
  | q :: r =>
    if blocked.contains q.vc || !portCan s n q then
      let (s, rest) := portDrain s n (q.vc :: blocked) r
      (s, q :: rest)
    else portDrain (portSend s n q) n blocked r

def portFlush (s : State) (n : Nat) : State :=
  let (s, rest) := portDrain s n [] (getPort s n).queue
  modPort s n fun p => { p with queue := rest }

/-- Put a packet on a port and virtual lane; the loopback delivers it inside the Spar die (R259). -/
def sendOn (s : State) (port vl op : Nat) (p : SPkt) (data : List Byte) : State :=
  if port = 32 then emit s (.packet 32 op p data)
  else
    portFlush (modPort s port fun x => { x with
      queue := x.queue ++ [{ vc := 2 * pktClass op + vl, op := op, p := p, data := data }] }) port

/-- Send a packet by its route; nothing where none serves it. -/
def sendPkt (s : State) (op : Nat) (p : SPkt) (data : List Byte) : State :=
  match outPort s p.dst.toNat with
  | some (port, vl) => sendOn s port vl op p data
  | none => s

/-- Size code of an access of `n` bytes below a granule; 4 is whole granules (table "Request header, word 1"). -/
def bsizeOf (n : Nat) : Nat := if n = 1 then 0 else if n = 2 then 1 else if n = 4 then 2 else if n = 8 then 3 else 4

/-- The job number recorded for a context (R263, R317). -/
def ctxJob (s : State) (ctx : Nat) : Nat := match getCtx s ctx with | some c => (getSlot s c.slot).job | none => 0

/-- Fabric opcode of a request kind (table "Shroud opcodes"). -/
def outOp : OutKind → Nat
  | .load => 0x01
  | .tile => 0x01
  | .tileW => 0x02
  | .copy => 0x01
  | .copyW => 0x02
  | .replica => 0x01
  | .store => 0x02
  | .amo => 0x03
  | .res => 0x04
  | .scond => 0x05
  | .red => 0x06

/-- A request sent off the device: tracked under a number of its own, and sent (R208, R265). -/
structure OutSpec where
  tgt : Nat
  dev : Nat
  addr : Nat
  va : Nat
  kind : OutKind
  who : Issuer
  ctx : BitVec 12
  agent : Nat
  thread : Nat := 0
  size : Nat
  lanes : List OutLane := []
  entry : Nat := 0
  aop : Nat := 0
  items : List (Nat × Nat × Nat) := []
  rel : Bool := false
  opx : Nat := 0
  data : List Byte := []

/-- The data slots of an access: below a whole granule, the bytes stand at their offset in the one slot. -/
def slotsOf (off : Nat) (bs : List Byte) : List Byte :=
  let d := List.replicate (off % 16) 0 ++ bs
  d ++ List.replicate ((16 - d.length % 16) % 16) 0

/-- Whether the tracker has room for `n` more Shroud requests (R265). -/
def trackerRoom (s : State) (n : Nat) : Bool :=
  decide ((s.fabric.out.filter fun r => r.tgt = 3 && !r.failed).length + n ≤ 16384)

/-- A request of a context meets a failed path: its job's slot records the device, since a rollback may have to wait
until the path is cleared (R293). -/
def pathMark (s : State) (ctx dev : Nat) : State :=
  match getCtx s ctx with
  | none => s
  | some c => modSlot s c.slot fun x => if x.far.contains dev then x else { x with far := x.far ++ [dev] }

/-- Track and send a request; one to a path that fails at once is tracked as failed (R258, R265). -/
def sendOut (s : State) (q : OutSpec) : State × Nat :=
  let id := s.fabric.nextId
  let ok := q.tgt ≠ 3 || reachable s q.dev
  let r : OutReq :=
    { id := id, tgt := q.tgt, dev := q.dev, addr := q.addr, va := q.va, kind := q.kind, who := q.who, ctx := q.ctx,
      entry := q.entry, lanes := q.lanes, size := q.size, aop := q.aop, items := q.items, failed := !ok }
  let s := modFabric s fun f => { f with out := f.out ++ [r], nextId := (id + 1) % 2 ^ 21 }
  if !ok then (pathMark s q.ctx.toNat q.dev, id)
  else if q.tgt = 3 then
    let gmask := (2 ^ ((q.addr % 16 + q.size + 15) / 16) - 1) * 2 ^ (q.addr / 16 % 16)
    let h := newHdr s q.dev id (ctxJob s q.ctx.toNat) (q.addr / 256 * 256) q.agent q.thread gmask (q.addr % 16)
      (bsizeOf q.size) q.aop q.rel q.opx
    let placed := match q.kind with | .amo => slotsOf 0 q.data | _ => slotsOf q.addr q.data
    (sendPkt s (outOp q.kind) h placed, id)
  else
    let wr := match q.kind with | .store | .red | .tileW | .copyW => true | _ => false
    (emit s (.pcie (q.tgt - 1) id wr q.addr q.data), id)

def findOut (s : State) (id : Nat) : Option OutReq := (s.fabric.out.filter fun r => r.id = id).head?
def dropOut (s : State) (id : Nat) : State :=
  let s := modFabric s fun f => { f with out := f.out.filter fun r => r.id ≠ id }
  modFabric s fun f => { f with draining := f.draining.filter fun d => f.out.any fun r => r.tgt = 3 && r.dev = d && !r.failed }
def modOut (s : State) (id : Nat) (g : OutReq → OutReq) : State :=
  modFabric s fun f => { f with out := f.out.map fun r => if r.id = id then g r else r }

/-- Outstanding stores of a thread group's slot, or of a control core. -/
def outStores (s : State) (x : Issuer) : List OutReq :=
  s.fabric.out.filter fun r => r.who = x && !r.orphan && (match r.kind with | .store => true | _ => false)

end Sys2Proof.Machine
end

