-- ==== Sys2Proof/Machine/Translate.lean ====
section
/-! DEFINITION. Translation: canonical addresses, the walk, entry formats, permissions, and the caches that
hold translations (R200 to R212, R223, R225). -/

namespace Sys2Proof.Machine

/-- Result of a translation. -/
inductive XRes where
  | ok (l : Leaf)
  /-- reason and level (R214, R217) -/
  | fault (reason level : Nat)
  /-- an entry was delivered poisoned: the physical address of its line -/
  | poison (pa : Nat)
deriving DecidableEq, Repr

/-- Bits [63:57] all equal bit 56 (R200). -/
def canonical (va : Nat) : Bool := va / 2 ^ 56 = 0 || va / 2 ^ 56 = 255

/-- Lowest VA bit a level indexes, and its index of an address (table "Page-table levels"). -/
def levelShift (level : Nat) : Nat :=
  match level with
  | 0 => 16
  | n => 12 + 9 * n
def levelIndex (level va : Nat) : Nat := (va / 2 ^ levelShift level) % (if level = 0 then 32 else 512)

/-- Reasons whose class is program fault (R214). -/
def reasonProgram (r : Nat) : Bool := r = 1 || r = 3 || r = 4 || r = 5

/-- A leaf entry's fields, its page's output address included (R204). -/
def leafOf (e level : Nat) : Leaf :=
  { hi := BitVec.ofNat 16 (e / 2 ^ 48)
    oa := bits e 47 16 * 65536
    tgt := bits e 15 14
    u := bit e 5
    x := bit e 4
    w := bit e 3
    r := bit e 2
    size := levelShift level }

/-- A format error of an entry with V = 1 at a level (R203 to R206). -/
def entryBad (e level : Nat) : Bool :=
  if bit e 1 then
    level ≥ 3 || bits e 7 6 ≠ 0 || (bit e 3 && !bit e 2) || (bits e 15 14 = 0 && bits e 63 48 ≠ 0) ||
    (level = 1 && bits e 20 16 ≠ 0) || (level = 2 && bits e 29 16 ≠ 0)
  else level = 0 || bits e 63 48 ≠ 0 || bits e 7 2 ≠ 0 || (level ≠ 1 && bits e 11 8 ≠ 0)

/-- Whether a leaf permits an access kind (R207). -/
def permits (l : Leaf) (acc : Acc) (user : Bool) : Bool :=
  (match acc with
   | .read => l.r
   | .write => l.w
   | .atomic => l.r && l.w
   | .fetch => l.x) && (!user || l.u)

/-- A format error of a root (R201). -/
def rootBad (root : Nat) : Bool := bits root 63 48 ≠ 0 || bits root 11 0 ≠ 0

/-- A walker of a pool reads one entry at its home (R162, R202); an uncovered address is a rejected
structure (R183). -/
def readEntry (s : State) (pool pa : Nat) : State × Nat × Bool :=
  let (s, bs, poison) := homeRead s { who := .sys, agent := 264 + pool } pa 8
  (s, leNat bs, poison)

/-- Key of a walk-cache entry: context, level of the entry, address bits above it. -/
def walkKey (ctx level va : Nat) : Nat := (ctx * 8 + level) * 2 ^ 48 + va / 2 ^ levelShift level

/-- The walk from table `t` at `level` (R202): also the table entries it read, as walk-cache keys. -/
def walkFrom (s : State) (pool ctx va : Nat) (acc : Acc) (user : Bool) (t level : Nat) (seen : List (Nat × Nat)) :
    Nat → State × XRes × List (Nat × Nat)
  | 0 => (s, .fault 4 level, [])
  | n + 1 =>
    let pa := t + 8 * levelIndex level va
    if !covered s pa then (s, .fault 4 level, [])
    else
      let (s, e, poison) := readEntry s pool pa
      if poison then (s, .poison (pa / 128 * 128), [])
      else if !bit e 0 then (s, .fault (if bit e 12 then 1 else 0) level, [])
      else if entryBad e level then (s, .fault 4 level, [])
      else if bit e 1 then
        let l := leafOf e level
        if permits l acc user then (s, .ok l, seen) else (s, .fault 2 level, [])
      else
        let next := bits e 47 8 * 256
        walkFrom s pool ctx va acc user next (level - 1) ((walkKey ctx level va, next) :: seen) n

/-- Put a value into a cache of `cap` entries; a full one gives up an entry the specification does not name
(assumption 8). -/
def cachePut {α : Type} (t : Tab α) (cap k : Nat) (v : α) : Tab α :=
  match tfind t k with
  | some _ => tput t k v
  | none => tput (if t.length < cap then t else dropNth t (Config.freeNat k % max 1 t.length)) k v

/-- The lowest level whose table a pool's walk cache names for an address, and the table. -/
def walkStart (walks : Tab Nat) (ctx va root : Nat) : Nat × Nat :=
  match tfind walks (walkKey ctx 1 va), tfind walks (walkKey ctx 2 va), tfind walks (walkKey ctx 3 va),
      tfind walks (walkKey ctx 4 va) with
  | some t, _, _, _ => (t, 0)
  | none, some t, _, _ => (t, 1)
  | none, none, some t, _ => (t, 2)
  | none, none, none, some t => (t, 3)
  | none, none, none, none => (bits root 47 12 * 4096, 4)

/-- A walk in a pool, its table entries cached when it ends well (R202, R212, R213). -/
def walk (s : State) (pool ctx root va : Nat) (acc : Acc) (user : Bool) : State × XRes :=
  if !canonical va then (s, .fault 3 7)
  else if rootBad root then (s, .fault 4 7)
  else
    let (t, level) := walkStart (getDie s pool).walks ctx va root
    let (s, r, seen) := walkFrom s pool ctx va acc user t level [] (level + 1)
    match r with
    | .ok l => (modDie s pool fun d => { d with walks := seen.foldl (fun w p => cachePut w 1024 p.1 p.2) d.walks }, .ok l)
    | r => (s, r)

/-- Key of a leaf in a translation cache: context and 64 KiB page number. -/
def pageKey (ctx va : Nat) : Nat := ctx * 2 ^ 48 + (va % 2 ^ 57) / 65536

/-- A cached leaf answers an access, or faults for want of permission. -/
def useLeaf (l : Leaf) (acc : Acc) (user : Bool) : XRes :=
  if permits l acc user then .ok l else .fault 2 (if l.size = 16 then 0 else if l.size = 21 then 1 else 2)

/-- Live held translation of a page (R210, R212, R223). -/
def heldOf (s : State) (ctx va : Nat) : Option Leaf :=
  ((s.xlat.held.filter fun h => h.ctx.toNat = ctx && h.page = (va % 2 ^ 57) / 65536 && !h.dying).head?).map Held.leaf

/-- A context's root and partition. -/
def ctxRoot (s : State) (ctx : Nat) : Nat := match getCtx s ctx with | some c => c.root.toNat | none => 0
def ctxPart (s : State) (ctx : Nat) : Nat := match getCtx s ctx with | some c => c.part | none => 255

/-- Translation for a throughput core: micro cache, die cache, held store, walk (R212). -/
def translateTC (s : State) (k ctx va : Nat) (acc : Acc) : State × XRes :=
  if !canonical va then (s, .fault 3 7)
  else
    let key := pageKey ctx va
    let die := k / 24
    match tfind (getCore s k).micro key with
    | some l => (s, useLeaf l acc true)
    | none =>
      let fillMicro (s : State) (l : Leaf) : State := modCore s k fun c => { c with micro := cachePut c.micro 64 key l }
      match tfind (getDie s die).xlat key with
      | some l => (fillMicro s l, useLeaf l acc true)
      | none =>
        match heldOf s ctx va with
        | some l => (fillMicro s l, useLeaf l acc true)
        | none =>
          match walk s die ctx (ctxRoot s ctx) va acc true with
          | (s, .ok l) => (fillMicro (modDie s die fun d => { d with xlat := cachePut d.xlat 16384 key l }) l, .ok l)
          | (s, r) => (s, r)

/-- Translation for a control core below monitor level: its TLB, then a walk in the Spar pool (R212, R213). -/
def translateCC (s : State) (n ctx root va : Nat) (acc : Acc) (user : Bool) : State × XRes :=
  if !canonical va then (s, .fault 3 7)
  else
    let key := pageKey ctx va
    match tfind (getCC s n).tlb key with
    | some l => (s, useLeaf l acc user)
    | none =>
      match walk s 4 ctx root va acc user with
      | (s, .ok l) => (modCC s n fun c => { c with tlb := cachePut c.tlb 4160 key l }, .ok l)
      | (s, r) => (s, r)

/-- Queue-time translation in a walker pool: die cache, held store, walk; user access needed (R207, R209, R213). -/
def translateQ (s : State) (pool ctx va : Nat) (acc : Acc) : State × XRes :=
  if !canonical va then (s, .fault 3 7)
  else
    let key := pageKey ctx va
    match tfind (getDie s pool).xlat key with
    | some l => (s, useLeaf l acc true)
    | none =>
      match heldOf s ctx va with
      | some l => (s, useLeaf l acc true)
      | none =>
        match walk s pool ctx (ctxRoot s ctx) va acc true with
        | (s, .ok l) => (modDie s pool fun d => { d with xlat := cachePut d.xlat 16384 key l }, .ok l)
        | (s, r) => (s, r)

/-- Output address of an access through a leaf: page base with the page offset. -/
def outAddr (l : Leaf) (va : Nat) : Nat := l.oa / 2 ^ l.size * 2 ^ l.size + va % 2 ^ l.size

/-- Whether a cached entry of key `key` with a leaf is named by an XINV (R223). -/
def xinvHits (gb ga key size : Nat) : Bool :=
  key / 2 ^ 48 = gb % 4096 &&
    (bit gb 12 || (key % 2 ^ 48) / 2 ^ (size - 16) = (ga % 2 ^ 57) / 65536 / 2 ^ (size - 16))

/-- Remove from a leaf cache what an XINV names. -/
def xinvTab (t : Tab Leaf) (gb ga : Nat) : Tab Leaf := tfilter t fun key l => !xinvHits gb ga key l.size

/-- Remove a context's walk-cache entries (R223). -/
def xinvWalks (t : Tab Nat) (gb : Nat) : Tab Nat := tfilter t fun key _ => key / 2 ^ 51 ≠ gb % 4096

/-- Hold a page for queued work: one holder more (R210). -/
def holdPage (s : State) (ctx : BitVec 12) (page : Nat) (leaf : Leaf) : State :=
  modXlat s fun x =>
    if x.held.any (fun h => h.ctx = ctx && h.page = page && !h.dying) then
      { x with held := x.held.map fun h => if h.ctx = ctx && h.page = page && !h.dying then { h with count := h.count + 1 } else h }
    else { x with held := x.held ++ [{ ctx := ctx, page := page, leaf := leaf }] }

/-- Release one holder of the first entry a test names; an entry with no holder is freed (R210, R223). -/
def releaseFirst (p : Held → Bool) : List Held → List Held
  | [] => []
  | h :: r => if p h then (if h.count ≤ 1 then r else { h with count := h.count - 1 } :: r) else h :: releaseFirst p r

/-- Release one holder of each page of a list. -/
def releasePages (s : State) (ctx : BitVec 12) (pages : List Nat) : State :=
  modXlat s fun x => { x with held := pages.foldl (fun hs p => releaseFirst (fun h => h.ctx = ctx && h.page = p) hs) x.held }

/-- TRANSLATION_WALK (R202, R213): a walker of a pool walks for a context at user level; a walk that ends well is cached, and
its result goes to the requester. -/
def execTranslationWalk (pool : Fin 5) (ctx : BitVec 12) (va : W64) (acc : Acc) (s : State) : Result :=
  .next <|
    if !running s || (getCtx s ctx.toNat).isNone then s
    else
      match walk s pool ctx.toNat (ctxRoot s ctx.toNat) va.toNat acc true with
      | (s, .ok l) =>
        emit (modDie s pool fun d => { d with xlat := cachePut d.xlat 16384 (pageKey ctx.toNat va.toNat) l })
          (.walked pool ctx.toNat va.toNat (some l) 0 0)
      | (s, .fault reason level) => emit s (.walked pool ctx.toNat va.toNat none reason level)
      | (s, .poison _) => emit s (.walked pool ctx.toNat va.toNat none 0 9)

end Sys2Proof.Machine
end

