-- ==== Sys2Proof/Machine/Trap.lean ====
section
/-! DEFINITION. Taking a trap on each kind of core, returning from one, and the ends a thread group comes
to: exits, barriers, halts (R28, R41 to R44, R47 to R54, R70, R215, R431). -/

namespace Sys2Proof.Machine

/-! ## Causes (tables "Trap causes" and R43) -/

def cIllegal : Nat := 0x01
def cPrivilege : Nat := 0x02
def cExtAbsent : Nat := 0x03
def cRegRange : Nat := 0x04
def cMisaligned : Nat := 0x05
def cTranslation : Nat := 0x06
def cOwnership : Nat := 0x07
def cTileFormat : Nat := 0x08
def cMatrixShape : Nat := 0x09
def cBarrierDiv : Nat := 0x0A
def cSyscall : Nat := 0x0B
def cBreakpoint : Nat := 0x0C
def cStep : Nat := 0x0D
def cDeviceStore : Nat := 0x0E
def cFabricPath : Nat := 0x0F
def cPoison : Nat := 0x10
def cMonitorCall : Nat := 0x11
def cInterrupt : Nat := 0x20

/-- Place of a cause in the order of R43. -/
def causeRank (c : Nat) : Nat :=
  match c with
  | 0x01 => 1
  | 0x03 => 2
  | 0x02 => 3
  | 0x04 => 4
  | 0x08 => 5
  | 0x09 => 6
  | 0x05 => 7
  | 0x06 => 8
  | 0x07 => 9
  | 0x10 => 10
  | 0x0F => 11
  | 0x0E => 12
  | 0x0A => 13
  | _ => 14

/-- Hardware-fault causes (table "Trap causes"). -/
def hardwareCause (c : Nat) : Bool := c = 0x0E || c = 0x0F || c = 0x10

/-- Causes that a supervisor may handle and resume (table "Trap causes"). -/
def handledCause (c : Nat) : Bool := c = 0x06 || c = 0x0B || c = 0x0C || c = 0x0D || c = 0x11

/-! ## Traps of control cores (R28) -/

def levelNat : Level → Nat
  | .user => 0
  | .supervisor => 1
  | .monitor => 2

def levelOf (n : Nat) : Level := if n = 0 then .user else if n = 1 then .supervisor else .monitor

/-- A status register after trap entry: PIE takes IE, IE clears, PPRIV takes the level (R28, table
"TSTAT and MSTAT"). -/
def trapStat (st : W64) (l : Level) : W64 :=
  BitVec.ofNat 64 (st.toNat / 16 * 16 + (if bit st.toNat 2 then 8 else 0) + levelNat l)

/-- The level a cause is taken at (R28). -/
def trapLevel (c : CCore) (cause : Nat) : Level :=
  if c.level = .monitor then .monitor else if c.mdeleg.getLsbD cause then .supervisor else .monitor

/-- A control core takes a trap: status, cause, PC and value saved at the level taken, the level entered, the
PC at the vector, the reservation cleared (R28, R139). -/
def takeTrap (c : CCore) (cause : Nat) (val pc : W64) : CCore :=
  let c := { c with resv := none, armed := false }
  match trapLevel c cause with
  | .monitor =>
    { c with
      mstat := trapStat c.mstat c.level
      mcause := BitVec.ofNat 64 cause
      mpc := pc
      mval := val
      level := .monitor
      pc := c.mvec }
  | _ =>
    { c with
      tstat := trapStat c.tstat c.level
      tcause := BitVec.ofNat 64 cause
      tpc := pc
      tval := val
      level := .supervisor
      pc := c.tvec }

/-- A status register after a return: IE takes PIE; STEP moves to the armed step, so that no step follows
unless software sets it again (R28, R43; assumption 9). -/
def returnStat (st : W64) : W64 :=
  BitVec.ofNat 64 (st.toNat / 32 * 32 + (if bit st.toNat 3 then 12 else 0) + st.toNat % 4)

/-- Return from a supervisor trap (SRET), or a monitor trap (MRET): level and enable restored, resume at the
saved PC, the reservation cleared (R28, R139). -/
def returnFrom (c : CCore) (monitor : Bool) : CCore :=
  let st := if monitor then c.mstat else c.tstat
  let c := { c with resv := none, level := levelOf (st.toNat % 4), armed := st.getLsbD 4 }
  if monitor then { c with mstat := returnStat st, pc := c.mpc } else { c with tstat := returnStat st, pc := c.tpc }

/-- Interrupts are enabled at the level that takes cause 0x20 (R42). -/
def irqEnabled (c : CCore) : Bool :=
  match trapLevel c cInterrupt with
  | .monitor => c.mstat.getLsbD 2
  | _ => c.tstat.getLsbD 2

/-! ## Ends of a thread group -/

/-- Which cohort of a core a group belongs to. -/
def inCohort (g : Group) (c : Cohort) : Bool := c.id = g.cid

def cohortOf (c : Core) (g : Group) : Option Cohort := (c.cohorts.filter (inCohort g)).head?

/-- Stores of a core's port that belong to a slot: threads 32 × slot to 32 × slot + 31. -/
def slotStores (c : Core) (slot : Nat) : List PStore := c.port.filter fun p => p.thread / 32 = slot

/-- Perform a store at its home (R127). -/
def performStore (s : State) (agent : Nat) (p : PStore) : State :=
  homeWrite s { who := if p.sys then .sys else .ctx p.ctx p.part, agent := agent, thread := p.thread } p.pa p.bytes

/-- Perform the stores of a memory port that a test names, oldest first, and keep the others; a store to a
line that a reservation defers stays (R127, R141). -/
def drainPort (s : State) (k : Nat) (mine : PStore → Bool) : State :=
  let ps := (getCore s k).port
  let now (p : PStore) : Bool := mine p && !lineDeferred s (agentTC k * 4096 + p.thread) (p.pa / 128)
  let s := modCore s k fun c => { c with port := ps.filter fun p => !now p }
  each s (ps.filter now) fun s p => performStore s (agentTC k) p

/-- Perform one store of a control core (R124). -/
def performCC (s : State) (n : Nat) (p : PStore) : State :=
  ccWrite s { who := if p.sys then .sys else .ctx p.ctx p.part, agent := agentCC n } n p.pa p.bytes

/-- Perform the stores of a control core's buffer in program order, up to one that a reservation defers
(R124, R141). -/
def drainSb (s : State) (n : Nat) : List PStore → State
  | [] => modCC s n fun c => { c with sb := [] }
  | p :: r =>
    if lineDeferred s (agentCC n * 4096) (p.pa / 128) then modCC s n fun c => { c with sb := p :: r }
    else drainSb (performCC s n p) n r

def drainCC (s : State) (n : Nat) : State := drainSb s n (getCC s n).sb

/-- The lanes of a slot lose their reservations (R139). -/
def dropSlotResv (s : State) (k slot : Nat) : State :=
  modHomes s fun h => { h with resvs := h.resvs.filter fun r => r.who / 32 ≠ agentTC k * 128 + slot }

/-- Release a cohort's barrier: each arrived running member goes on past it (R52). -/
def releaseMember (g : Group) : Group :=
  match g.stack with
  | [e] => { g with stack := [{ e with pc := e.pc + 4, park := .run }], arrived := none }
  | _ => g

/-- Whether a group has arrived at a CBAR of its cohort's generation. -/
def hasArrived (g : Group) (gen : Nat) : Bool :=
  (match g.stack with
   | [e] => e.park = .cbar
   | _ => false) && g.arrived = some gen

/-- Release the cohort where every live member has arrived (R52); a halted member leaves when it resumes, and a
saved member holds the others back. -/
def cohortSettle (s : State) (k : Nat) (co : Cohort) : State :=
  let c := getCore s k
  let gs := co.slots.filterMap fun i => (tfind c.groups i).map fun g => (i, g)
  if co.away = 0 && !gs.isEmpty && gs.all (fun p => hasArrived p.2 co.gen) then
    let s := modCore s k fun c => { c with
      cohorts := c.cohorts.map fun x => if x.id = co.id then { x with gen := co.gen + 1 } else x }
    each s gs fun s p =>
      if p.2.gstate = .running && !p.2.halting then setGroup s k p.1 (releaseMember p.2) else s
  else s

/-- Free a slot whose group has ended, and report the cohort when its last group has (R47, R240). -/
def freeGroup (s : State) (k slot : Nat) (g : Group) : State :=
  let s := dropSlotResv (drainPort s k fun p => p.thread / 32 = slot) k slot
  let s := delGroup s k slot
  match cohortOf (getCore s k) g with
  | none => s
  | some co =>
    let left := co.slots.filter fun i => i ≠ slot
    if left.isEmpty && co.away = 0 then
      let co := { co with slots := [], ended := true }
      let s := modCore s k fun c => { c with cohorts := c.cohorts.map fun x => if inCohort g x then co else x }
      emit s (.workDone 1 (k / 24) (k % 24) co.number)
    else if left.isEmpty then modCore s k fun c => { c with cohorts := c.cohorts.filter fun x => !inCohort g x }
    else
      let co := { co with slots := left }
      let s := modCore s k fun c => { c with cohorts := c.cohorts.map fun x => if inCohort g x then co else x }
      cohortSettle s k co

/-- Halt a group on a trap, and it stops issuing: the record of a hardware fault leaves for the dispatcher at once, that of a
cause that halts for debugging once the group's image is complete (R44, R70, R431). -/
def trapGroup (s : State) (k slot cause : Nat) (val pc : W64) (lanes : W32) : State :=
  match getGroup s k slot with
  | none => s
  | some g =>
    let die := k / 24
    let d := getDie s die
    let r : TrapRec :=
      { ctx := g.ctx
        cause := BitVec.ofNat 8 cause
        die := BitVec.ofNat 3 die
        core := BitVec.ofNat 5 (k % 24)
        group := BitVec.ofNat 7 slot
        lane := BitVec.ofNat 5 ((lanesOf lanes).headD 0)
        pc := pc
        val := val
        seq := BitVec.ofNat 32 d.trapSeq
        lanemask := lanes }
    let s := setDie s die { d with trapSeq := d.trapSeq + 1 }
    let s := setGroup s k slot { g with
      halting := true
      cause := cause
      stepReq := false
      waitIds := []
      results := []
      trapRec := if hardwareCause cause then none else some r }
    if hardwareCause cause then emit (dropSlotResv s k slot) (.trap r) else dropSlotResv s k slot

/-- Halt a group as the waiter of a translation fault; the dispatcher is notified once its image is complete (R70,
R215). -/
def faultGroup (s : State) (k slot : Nat) (acc : Acc) (first : Nat) (va : Nat) (reason level : Nat) : State :=
  match getGroup s k slot with
  | none => s
  | some g =>
    let r : FaultRec :=
      { ctx := g.ctx
        part := BitVec.ofNat 6 (ctxPart s g.ctx.toNat)
        program := reasonProgram reason
        reason := BitVec.ofNat 4 reason
        access := match acc with | .read => 1 | .write => 2 | .atomic => 4 | .fetch => 8
        first := BitVec.ofNat 3 first
        va := BitVec.ofNat 64 (va / 65536 * 65536)
        level := BitVec.ofNat 3 level }
    let s := setGroup s k slot { g with
      halting := true
      waiting := true
      cause := cTranslation
      stepReq := false
      faultRec := some r }
    dropSlotResv s k slot

/-- The oldest failed store of a slot's lanes, or of a control core, and the lanes with one (R150). -/
def failedStores (s : State) (x : Issuer) : List OutReq :=
  (outStores s x).filter fun r => r.failed || r.denied

def storeLanes (rs : List OutReq) : W32 := laneMask (rs.flatMap fun r => r.lanes.map OutLane.lane)

/-- Forget the failed stores of an issuer once its abort is raised: the abort is raised once (R150). -/
def clearFailed (s : State) (x : Issuer) : State :=
  modFabric s fun f => { f with out := f.out.filter fun r => !(r.who = x && (r.failed || r.denied)) }

/-- The issuer of a slot. -/
def slotIssuer (k slot : Nat) : Issuer := .tc (Fin.ofNat 4 (k / 24)) (Fin.ofNat 24 (k % 24)) (Fin.ofNat 128 slot)

/-- Raise a cause at the instruction an issuer waits at. -/
def trapWaiting (s : State) (x : Issuer) (cause va : Nat) (lanes : W32) : State :=
  match x with
  | .tc d c slot =>
    let k := coreKey d c
    match getGroup s k slot with
    | none => s
    | some g =>
      match topRun g.stack with
      | some e => trapGroup s k slot cause (BitVec.ofNat 64 va) e.pc lanes
      | none => s
  | .cc n =>
    modCC s n fun c => takeTrap { c with waitIds := [], results := [] } cause (BitVec.ofNat 64 va) c.pc

/-- What an issuer waits for. -/
def waitsOf (s : State) (x : Issuer) : List Nat :=
  match x with
  | .tc d c slot => match getGroup s (coreKey d c) slot with | some g => g.waitIds | none => []
  | .cc n => (getCC s n).waitIds

/-- A kind of request whose instruction waits for its value. -/
def kindReads : OutKind → Bool
  | .load => true
  | .amo => true
  | .res => true
  | .scond => true
  | _ => false

/-- Raise a cause at the instruction that waits for a request, once for all its lanes that went the same way. -/
def readTrap (s : State) (r : OutReq) (cause va : Nat) : State :=
  let same := s.fabric.out.filter fun q => q.who = r.who && q.tgt = r.tgt && q.dev = r.dev && kindReads q.kind &&
    (q.id = r.id || cause = cFabricPath)
  let waits := (waitsOf s r.who).contains r.id
  let s := dropOut s r.id
  if waits then trapWaiting s r.who cause va (laneMask (same.flatMap fun q => q.lanes.map OutLane.lane)) else s

/-- A request of a TMOVE or MDRAIN is answered, with data or with the cause that ends the instruction. -/
def engineAnswer (s : State) (r : OutReq) (data : List Byte) (bad : Option Nat) : State :=
  let left (ids : List Nat) : List Nat := ids.filter fun i => i ≠ r.id
  let worse (old : Option (Nat × Nat)) : Option (Nat × Nat) :=
    match old, bad with
    | none, some c => some (c, r.va)
    | b, _ => b
  let keeps : Bool := bad.isNone && (match r.kind with | .tile => true | _ => false)
  let tm (t : TMoveRec) : TMoveRec :=
    if t.ids.contains r.id then
      { t with ids := left t.ids, got := if keeps then t.got ++ [(r.va, data)] else t.got, bad := worse t.bad }
    else t
  let mi (m : MInstr) : MInstr := if m.ids.contains r.id then { m with ids := left m.ids, bad := worse m.bad } else m
  match r.who with
  | .tc d c slot =>
    let s := modGroup s (coreKey d c) slot fun g => { g with tmoves := g.tmoves.map tm }
    modCore s (coreKey d c) fun c => { c with array := { c.array with queue := c.array.queue.map mi } }
  | .cc n => modCC s n fun c => { c with tmoves := c.tmoves.map tm }

/-- The address a store that left the device went to: the fabric address, or the host's (R150, R208). -/
def storeAddr (r : OutReq) : Nat := if r.tgt = 3 then r.dev * 2 ^ 48 + r.addr else r.addr

/-- What failed stores raise at the instruction that waits for them (R43, R150): OWNERSHIP for refused ones, else
DEVICE_STORE_ABORT, with the address of the oldest and the lanes of all that raise it. -/
def storeCause (bad : List OutReq) : Option (Nat × Nat × W32) :=
  match bad.filter OutReq.denied, bad with
  | r :: t, _ => some (cOwnership, storeAddr r, storeLanes (r :: t))
  | [], r :: t => some (cDeviceStore, storeAddr r, storeLanes (r :: t))
  | [], [] => none

/-- An outstanding request fails: a store is marked for the instruction that waits for it (R150), a load or
atomic raises FABRIC_PATH at its instruction (R151), an engine's request ends its instruction, a copy's is marked for
the dispatcher. -/
def failReq (s : State) (r : OutReq) : State :=
  let s := if r.tgt = 3 && !r.orphan then pathMark s r.ctx.toNat r.dev else s
  match r.kind with
  | .load | .amo | .res | .scond => readTrap s r cFabricPath r.va
  | .tile | .tileW | .red => engineAnswer (dropOut s r.id) r [] (some cFabricPath)
  | _ => modOut s r.id fun q => { q with failed := true }

/-- Declare the path to a device failed: recorded, reported to the manager, and every outstanding request on
it fails (R265). -/
def failPath (s : State) (dst : Nat) : State :=
  let s := modFabric s fun f => { f with
    failed := if f.failed.contains dst then f.failed else f.failed ++ [dst]
    failures := f.failures + 1 }
  let s := alarm (event s 4 (unitId 4 14 0) 0x602 0 0 dst false) 5
  let s := emit s (.portev s.fabric.manager 4 0 dst)
  each s (s.fabric.out.filter fun r => r.tgt = 3 && r.dev = dst && !r.failed && !r.denied) failReq

/-- Declare the path of a request that found no route as it was sent (R258, R260, R265). -/
def declareUnsent (s : State) (r : OutReq) : State :=
  if r.tgt ≠ 3 || s.fabric.failed.contains r.dev then s else failPath s r.dev

/-- The requests among those just sent that failed at once. -/
def unsent (s : State) (ids : List Nat) : List OutReq := s.fabric.out.filter fun r => ids.contains r.id && r.failed

/-- Writes of an engine that fail as they are sent end its instruction (R151, R265). -/
def failUnsent (s : State) (ids : List Nat) : State :=
  each s (unsent s ids) fun s r => engineAnswer (dropOut (declareUnsent s r) r.id) r [] (some cFabricPath)

/-- A group whose every lane has exited ends once its TMOVEs, matrix instructions and stores are done; a
failed store is raised at its exiting instruction (R47, R150). -/
def endCheck (s : State) (k slot : Nat) : State :=
  match getGroup s k slot with
  | none => s
  | some g =>
    if !g.stack.isEmpty || !g.tmoves.isEmpty || g.matrix ≠ 0 || g.halting || g.gstate ≠ .running then s
    else
      let x := slotIssuer k slot
      let rs := failedStores s x
      if (outStores s x).length ≠ rs.length then s
      else
        match storeCause rs with
        | some (cause, va, lanes) =>
          let s := setGroup s k slot { g with stack := [{ pc := g.exitPc, mask := g.exitMask, park := .run }] }
          trapGroup (clearFailed s x) k slot cause (BitVec.ofNat 64 va) g.exitPc lanes
        | none => freeGroup s k slot g

/-- What follows an issue: a completed GBAR goes on (R50), an arrival at a CBAR counts (R52), a group with
nothing runnable and several entries raises BARRIER_DIV (R51, R53), an empty one may end. -/
def settle (s : State) (k slot : Nat) : State :=
  match getGroup s k slot with
  | none => s
  | some g =>
    match g.stack with
    | [] => endCheck s k slot
    | [e] =>
      match e.park with
      | .run => s
      | .gbar => setGroup s k slot { g with stack := [{ e with pc := e.pc + 4, park := .run }] }
      | .cbar =>
        match cohortOf (getCore s k) g with
        | none => setGroup s k slot (releaseMember g)
        | some co =>
          match g.arrived with
          | none => cohortSettle (setGroup s k slot { g with arrived := some co.gen }) k co
          | some n => if n < co.gen then setGroup s k slot (releaseMember g) else s
    | e :: r =>
      if (e :: r).all (fun x => x.park ≠ .run) then
        trapGroup s k slot cBarrierDiv (BitVec.ofNat 64 (tget g.parkWords e.pc.toNat 0).toNat) e.pc (liveMask g.stack)
      else s

end Sys2Proof.Machine
end

