-- ==== Sys2Proof/Machine/Issue.lean ====
section
/-! DEFINITION. Issuing one instruction: who may issue, the decode checks in the order of R43, and what the
next PC, a park, a stall, a trap or a fault does to the issuer (R29, R39, R40, R43, R46 to R49). -/

namespace Sys2Proof.Machine

/-- What an instruction executes with. -/
structure Iss where
  x : Issuer
  th : Threads
  /-- the running mask; lane 0 for a control core -/
  mask : W32
  pc : W64
  level : Level
  ctx : BitVec 12
  part : Nat
  root : Nat
  word : W32
deriving DecidableEq, Repr

/-- The partition a control core belongs to (R307). -/
def partOfCC (s : State) (n : Nat) : Nat :=
  match s.disp.parts.find? fun p => p.2.state ≠ 0 && bit p.2.ccores n with
  | some p => p.1
  | none => 255

/-- A group can issue: the device runs, nothing holds it back (R45, R70, R288). -/
def groupReady (s : State) (g : Group) : Bool :=
  running s && g.gstate = .running && !g.halting && !g.waiting && !g.atCut && g.waitIds.isEmpty

/-- A control core can execute. -/
def ccReady (s : State) (c : CCore) : Bool :=
  halyard s && !s.homes.down && !s.homes.dead && c.released && !c.retired && !c.inEpoch && c.waitIds.isEmpty

/-- The issuer's view, where it can issue. -/
def issOf (s : State) (x : Issuer) (word : W32) : Option Iss :=
  match x with
  | .tc d c slot =>
    match getGroup s (coreKey d c) slot with
    | none => none
    | some g =>
      match groupReady s g, topRun g.stack with
      | true, some e =>
        some { x := x, th := g.th, mask := e.mask, pc := e.pc, level := .user, ctx := g.ctx,
               part := ctxPart s g.ctx.toNat, root := ctxRoot s g.ctx.toNat, word := word }
      | _, _ => none
  | .cc n =>
    let c := getCC s n
    if ccReady s c then
      some { x := x, th := c.th, mask := 1, pc := c.pc, level := c.level, ctx := c.ctx, part := partOfCC s n,
             root := c.xroot.toNat, word := word }
    else none

/-- What an instruction's execution comes to. -/
inductive Eff where
  /-- done; the next instruction follows -/
  | go (s : State)
  /-- done; each lane's next PC -/
  | jump (s : State) (target : Nat → W64)
  /-- the lanes that arrive at a barrier park there; the others go on -/
  | park (s : State) (arrive : W32) (pk : Park)
  /-- held at the instruction: nothing happens -/
  | stall (s : State)
  /-- raises a cause -/
  | trap (s : State) (cause val : Nat) (lanes : W32)
  /-- meets a translation fault -/
  | fault (s : State) (acc : Acc) (first va reason level : Nat)

/-- Set the registers of an issuer. -/
def setTh (s : State) (x : Issuer) (th : Threads) : State :=
  match x with
  | .tc d c slot => modGroup s (coreKey d c) slot fun g => { g with th := th }
  | .cc n => modCC s n fun c => { c with th := th }

/-- The lanes that execute: running, with a true guard (R29, R46). -/
def active (c : Iss) (guard : BitVec 4) : List Nat := (lanesOf c.mask).filter fun l => guardOf c.th guard l

/-- A group's stepped instruction is done: it halts with a STEP record (R71). -/
def stepDone (s : State) (k slot : Nat) (pc : W64) (mask : W32) : State :=
  match getGroup s k slot with
  | some g => if g.stepReq then trapGroup s k slot cStep 0 pc mask else s
  | none => s

/-- Move a group past an instruction (R47, R48). -/
def groupNext (s : State) (k slot : Nat) (c : Iss) (target : Nat → W64) (arrive : W32) (pk : Park) : State :=
  match getGroup s k slot with
  | none => s
  | some g =>
    let e : SEntry := { pc := c.pc, mask := c.mask, park := .run }
    let out := (lanesOf (c.mask &&& ~~~arrive)).filter fun l => target l = 0
    let g := { g with
      stack := stackIssue g.stack e target arrive pk
      parkWords := if arrive = 0 then g.parkWords else tput g.parkWords c.pc.toNat c.word
      exitPc := if out.isEmpty then g.exitPc else c.pc
      exitMask := if out.isEmpty then g.exitMask else laneMask out }
    stepDone (settle (setGroup s k slot g) k slot) k slot c.pc c.mask

/-- Move a control core past an instruction; an armed step traps after it (table "TSTAT and MSTAT"). -/
def ccNext (s : State) (n : Nat) (pc : W64) : State :=
  modCC s n fun c => if c.armed then takeTrap c cStep 0 pc else { c with pc := pc }

/-- Count an issued instruction of a core (0x9200 + 24 d + k:04); a stalled one has not issued. -/
def counted (k : Nat) (e : Eff) : Eff :=
  let n (s : State) : State := modCore s k fun c => { c with issued := c.issued + 1 }
  match e with
  | .go s => .go (n s)
  | .jump s t => .jump (n s) t
  | .park s a p => .park (n s) a p
  | .stall s => .stall s
  | .trap s c v l => .trap (n s) c v l
  | .fault s a f va r l => .fault (n s) a f va r l

/-- Carry out what an instruction came to; `len` is its length in bytes. -/
def finish (c : Iss) (len : Nat) (e : Eff) : State :=
  let next := c.pc + BitVec.ofNat 64 len
  match c.x with
  | .tc d k slot =>
    let key := coreKey d k
    match counted key e with
    | .go s => groupNext s key slot c (fun _ => next) 0 .run
    | .jump s t => groupNext s key slot c t 0 .run
    | .park s arrive pk => groupNext s key slot c (fun _ => next) arrive pk
    | .stall s => s
    | .trap s cause val lanes =>
      let s := trapGroup s key slot cause (BitVec.ofNat 64 val) c.pc lanes
      if cause = cSyscall ∨ cause = cBreakpoint then
        modGroup s key slot fun g => { g with
          stack := stackIssue g.stack { pc := c.pc, mask := c.mask, park := .run } (fun _ => next) 0 .run }
      else s
    | .fault s acc first va reason level => faultGroup s key slot acc first va reason level
  | .cc n =>
    match e with
    | .go s => ccNext s n next
    | .jump s t => ccNext s n (t 0)
    | .park s _ _ => ccNext s n next
    | .stall s => s
    | .trap s cause val _ => modCC s n fun cc => takeTrap cc cause (BitVec.ofNat 64 val) c.pc
    | .fault s _ _ va _ _ => modCC s n fun cc => takeTrap cc cTranslation (BitVec.ofNat 64 va) c.pc

/-! ## Decode checks -/

/-- General registers an instruction names (R24). -/
def regsOf : Instr → List (BitVec 6)
  | .add _ f | .sub _ f | .and _ f | .or _ f | .xor _ f | .sll _ f | .srl _ f | .sra _ f | .mul _ f | .mulh _ f
  | .mulhu _ f | .div _ f | .divu _ f | .rem _ f | .remu _ f | .min _ f | .max _ f | .minu _ f | .maxu _ f
  | .clz _ f | .popc _ f | .shfl _ f | .fadd _ f | .fsub _ f | .fmul _ f | .fma _ f | .fdiv _ f | .fsqrt _ f
  | .fmin _ f | .fmax _ f | .fcvtI _ f | .fcvtF _ f | .xinv _ f | .epoch _ f | .watch _ f => [f.gd, f.ga, f.gb]
  | .stcond _ f _ => [f.gd, f.ga, f.gb]
  | .addi _ f | .andi _ f | .ori _ f | .xori _ f | .jr _ f | .srd _ f | .swr _ f | .gctlHalt _ f | .gctlResume _ f
  | .gctlSingleStep _ f => [f.gd, f.ga]
  | .slli _ f | .srli _ f | .srai _ f => [f.gd, f.ga]
  | .movl _ f | .movh _ f | .addl _ f | .orl _ f => [f.gd, f.ga]
  | .cmp _ f | .fcmp _ f => [f.ga, f.gb]
  | .cmpi _ f => [f.ga]
  | .ld _ f | .st _ f | .ldv _ f | .ldres _ f => [f.gd, f.ga]
  | .acq _ f | .rel _ f => [f.gd, f.ga]
  | .amoAdd _ f | .amoAnd _ f | .amoOr _ f | .amoXor _ f | .amoMin _ f | .amoMax _ f | .amoSwap _ f | .amoCas _ f
  | .amoMinu _ f | .amoMaxu _ f | .amoFadd _ f => [f.gd, f.ga, f.gb]
  | .ballot _ f | .tdgetl _ f | .tdgeth _ f => [f.gd]
  | .tdset _ f => [f.ga, f.gb]
  | .unwatch _ f => [f.gb]
  | _ => []

/-- Instructions of the matrix extension. -/
def isMatrix : Instr → Bool
  | .mload _ _ | .mstream _ _ | .mswap _ _ | .mdrain _ _ | .mwait _ _ => true
  | _ => false

/-- Instructions of the group extension (R39). -/
def isGroupExt : Instr → Bool
  | .shfl _ _ | .ballot _ _ | .gbar _ _ | .cbar _ _ => true
  | _ => false

/-- The lowest level that may execute an instruction (R39, R40). -/
def levelNeeded : Instr → Nat
  | .sret _ _ | .waiti _ _ | .xinv _ _ | .watch _ _ | .unwatch _ _ => 1
  | .mret _ _ => 2
  | .srd _ f | .swr _ f | .gctlHalt _ f | .gctlResume _ f | .gctlSingleStep _ f => f.imm.toNat / 256
  | _ => 0

/-- A return to a level the register does not name (table "TSTAT and MSTAT"). -/
def returnBad (s : State) (c : Iss) (i : Instr) : Bool :=
  match c.x, i with
  | .cc n, .sret _ _ => (getCC s n).tstat.toNat % 4 = 3
  | .cc n, .mret _ _ => (getCC s n).mstat.toNat % 4 = 3
  | _, _ => false

/-- The first decode cause an instruction meets, in the order of R43. -/
def decodeCause (s : State) (c : Iss) (i : Instr) : Option Nat :=
  let ext := match c.x with
    | .cc _ => isMatrix i || isGroupExt i
    | .tc d k _ => isMatrix i && (getCore s (coreKey d k)).array.owner != some c.ctx
  let range := match c.x with
    | .cc _ => false
    | .tc d k slot =>
      match getGroup s (coreKey d k) slot with
      | some g => (regsOf i).any fun r => decide (g.alloc ≤ r.toNat)
      | none => false
  if !zisLegal i || returnBad s c i then some cIllegal
  else if ext then some cExtAbsent
  else if levelNat c.level < levelNeeded i then some cPrivilege
  else if range then some cRegRange
  else none

/-- Instructions of the long form, which occupy two words (R33). -/
def isLong : Instr → Bool
  | .movl _ _ | .movh _ _ | .addl _ _ | .orl _ _ => true
  | _ => false

/-- What the PC alone decides about an instruction fetch: a word at a non-canonical address (R200), or on a throughput core
in the local-store window (R32), cannot be fetched. The address and the reason; monitor level fetches untranslated. -/
def fetchBad (c : Iss) (i : Instr) : Option (Nat × Nat) :=
  let one (va : Nat) : Option (Nat × Nat) :=
    match c.x with
    | .tc _ _ _ => if !canonical va then some (va, 3) else if 0xFFFFFFFFFFA00000 ≤ va then some (va, 5) else none
    | .cc _ => if !canonical va && c.level ≠ .monitor then some (va, 3) else none
  match one c.pc.toNat with
  | some p => some p
  | none => if isLong i then one (c.pc + 4).toNat else none

/-- The translation fault of a fetch (R32, R215): a group halts as its waiter, a control core traps. -/
def fetchFault (s : State) (c : Iss) (p : Nat × Nat) : State :=
  match c.x with
  | .tc d k slot => faultGroup s (coreKey d k) slot .fetch 3 p.1 p.2 7
  | .cc n => modCC s n fun cc => takeTrap cc cTranslation (BitVec.ofNat 64 p.1) c.pc

/-- The first word of an instruction. -/
def wordOf (i : Instr) : W32 := match zisEncode i with | some (w, _) => w | none => 0

/-- Issue one instruction of `len` bytes: nothing where its issuer cannot issue; a word that cannot be fetched faults; a
decode cause traps whatever the guard says; otherwise the body runs (R29). -/
def issue (i : Instr) (x : Issuer) (len : Nat) (body : State → Iss → Eff) (s : State) : Result :=
  match issOf s x (wordOf i) with
  | none => .next s
  | some c =>
    match fetchBad c i with
    | some p => .next (fetchFault s c p)
    | none =>
      match decodeCause s c i with
      | some cause => .next (finish c len (.trap s cause c.word.toNat c.mask))
      | none => .next (finish c len (body s c))

/-- An instruction that changes only registers, lane by lane. -/
def issueRegs (i : Instr) (x : Issuer) (len : Nat) (guard : BitVec 4) (f : Threads → Nat → Threads) (s : State) : Result :=
  issue i x len (fun s c => .go (setTh s x (eachLane c.th (active c guard) f))) s

/-- An instruction of format R over general registers. -/
def issueR (i : Instr) (x : Issuer) (f : RF) (op : W64 → W64 → W64) (s : State) : Result :=
  issueRegs i x 4 f.guard (fun t l => wrG t l f.gd.toNat (op (rdG t l f.ga.toNat) (rdG t l f.gb.toNat))) s

end Sys2Proof.Machine
end

