-- ==== Sys2Proof/Machine/Access.lean ====
section
/-! DEFINITION. Loads, stores, acquires, releases, reservations, atomics and barriers (R30 to R32, R55 to R58,
R119 to R144, R150, R151). -/

namespace Sys2Proof.Machine

/-! ## Where an access goes -/

/-- Where one lane's access goes, or why it does not. -/
inductive LRes where
  /-- the local store -/
  | ls (off : Nat)
  /-- local HBM -/
  | loc (pa : Nat)
  /-- off the device -/
  | out (tgt dev addr : Nat)
  | bad (cause val : Nat)
  /-- translation fault: reason and level -/
  | flt (reason level : Nat)
deriving DecidableEq, Repr

/-- First address of the local-store window (R32). -/
def lsWindow : Nat := 0xFFFFFFFFFFA00000

def isTc : Issuer → Bool
  | .tc _ _ _ => true
  | .cc _ => false

/-- Core key of an issuer; control cores use `ccOf`. -/
def tcKey : Issuer → Nat
  | .tc d c _ => coreKey d c
  | .cc _ => 0
def slotOf : Issuer → Nat
  | .tc _ _ s => s.val
  | .cc _ => 0
def ccOf : Issuer → Nat
  | .tc _ _ _ => 0
  | .cc n => n.val

/-- Under whose name a lane's requests go (R191): monitor level carries the system mark. -/
def byLane (c : Iss) (lane : Nat) : By :=
  match c.x with
  | .tc d k slot => { who := .ctx c.ctx c.part, agent := agentTC (coreKey d k), thread := 32 * slot.val + lane }
  | .cc n => { who := if c.level = .monitor then .sys else .ctx c.ctx c.part, agent := agentCC n }

/-- Translate an address for an issuer: none at monitor level (R202). -/
def translateFor (s : State) (c : Iss) (va : Nat) (acc : Acc) : State × XRes :=
  match c.x with
  | .tc d k _ => translateTC s (coreKey d k) c.ctx.toNat va acc
  | .cc n => translateCC s n c.ctx.toNat c.root va acc (c.level = .user)

/-- An access kind that writes, for the ownership check. -/
def accWrites : Acc → Bool
  | .write => true
  | .atomic => true
  | _ => false

/-- Resolve an address: alignment, window, translation, ownership, in the order of R43. -/
def resolveOne (s : State) (c : Iss) (lane va size : Nat) (acc : Acc) (noLs : Bool) : State × LRes :=
  if va % size ≠ 0 then (s, .bad cMisaligned va)
  else if isTc c.x && lsWindow ≤ va then (s, if noLs then .flt 5 7 else .ls (va - lsWindow))
  else if !isTc c.x && c.level = .monitor then
    (s, if paPass s .sys (accWrites acc) va then .loc va else .bad cOwnership va)
  else
    match translateFor s c va acc with
    | (s, .fault reason level) => (s, .flt reason level)
    | (s, .poison pa) => (s, .bad cPoison pa)
    | (s, .ok l) =>
      let pa := outAddr l va
      if l.tgt = 0 then
        (s, if paPass s (byLane c lane).who (accWrites acc) pa then .loc pa else .bad cOwnership va)
      else (s, .out l.tgt l.hi.toNat (if l.tgt = 3 then pa else l.hi.toNat * 2 ^ 48 + pa))

/-- One lane's access: lane, address, where it goes. -/
structure LA where
  lane : Nat
  va : Nat
  res : LRes
deriving DecidableEq, Repr

def resolveAll (s : State) (c : Iss) (size : Nat) (acc : Acc) (noLs : Bool) (va : Nat → Nat) : List Nat → State × List LA
  | [] => (s, [])
  | l :: r =>
    let (s, q) := resolveOne s c l (va l) size acc noLs
    let (s, rest) := resolveAll s c size acc noLs va r
    (s, ⟨l, va l, q⟩ :: rest)

/-- The cause a resolution met, 0 for none. -/
def laCause (a : LA) : Nat :=
  match a.res with
  | .bad c _ => c
  | .flt _ _ => cTranslation
  | _ => 0

/-- The least-ranked cause of a list (R43), 0 for none. -/
def firstCause : List Nat → Nat
  | [] => 0
  | c :: r => let d := firstCause r; if c = 0 then d else if d = 0 then c else if causeRank c ≤ causeRank d then c else d

/-- What a set of resolutions comes to where some lane met a cause: the first cause in R43's order, with every
lane that met it; for a translation fault, the lowest lane's (R43, R216, R431). -/
def laFail (s : State) (acc : Acc) (first : Nat) (as : List LA) : Option Eff :=
  let c := firstCause (as.map laCause)
  if c = 0 then none
  else
    let met := as.filter fun a => laCause a = c
    match met with
    | [] => none
    | a :: _ =>
      match a.res with
      | .flt reason level => some (.fault s acc first a.va reason level)
      | .bad _ v => some (.trap s c v (laneMask (met.map LA.lane)))
      | _ => none

/-! ## Reading -/

/-- Overlay a pending store on the bytes at `pa`. -/
def overlay1 (pa : Nat) (bs : List Byte) (p : PStore) : List Byte :=
  bs.zipIdx.map fun b => let a := pa + b.2; if p.pa ≤ a ∧ a < p.pa + p.bytes.length then p.bytes.getD (a - p.pa) 0 else b.1

/-- Overlay pending stores, oldest first (R123, R127). -/
def overlay (pa : Nat) (bs : List Byte) (ps : List PStore) : List Byte := ps.foldl (overlay1 pa) bs

/-- A throughput core reads at the home (R130), its own port's stores seen (R120, R127). -/
def tcReadHome (s : State) (k : Nat) (b : By) (pa n : Nat) : State × List Byte × Bool :=
  let (s, bs, poison) := homeRead s b pa n
  (s, overlay pa bs (getCore s k).port, poison)

/-- A plain load of a throughput core: the constant cache, filled from the home where it misses (R128). -/
def tcReadPlain (s : State) (k : Nat) (b : By) (pa n : Nat) : State × List Byte × Bool :=
  let ln := pa / 128
  match tfind (getCore s k).ccache ln with
  | some line => (s, (line.drop (pa % 128)).take n, false)
  | none =>
    let (s, line, poison) := tcReadHome s k b (ln * 128) 128
    let s := if poison then s else modCore s k fun c => { c with ccache := tput c.ccache ln line }
    (s, (line.drop (pa % 128)).take n, poison)

/-- A control core's load: its coherent cache, with its own buffered stores forwarded (R123). -/
def ccReadBytes (s : State) (n : Nat) (b : By) (pa len : Nat) : State × List Byte × Bool :=
  let poison := linePoisoned s (pa / 128)
  let s := ccRead s b n (pa / 128)
  let s := if poison then poisonEvent s b (pa / 128) else s
  (s, overlay pa (memBytes s pa len) (getCC s n).sb, poison)

/-- Read local memory for a lane: plain or at the point of coherence. -/
def readLoc (s : State) (c : Iss) (lane pa n : Nat) (plain : Bool) : State × List Byte × Bool :=
  match c.x with
  | .tc d k _ =>
    if plain then tcReadPlain s (coreKey d k) (byLane c lane) pa n else tcReadHome s (coreKey d k) (byLane c lane) pa n
  | .cc m => ccReadBytes s m (byLane c lane) pa n

/-- The registers a loaded value goes to: register and value; Q takes two (R30). -/
def loadRegs (gd : Nat) (sz : BitVec 3) (bs : List Byte) : List (Nat × W64) :=
  let v := leNat bs
  match sz.toNat with
  | 0 => [(gd, BitVec.ofInt 64 (sext 8 v))]
  | 1 => [(gd, BitVec.ofInt 64 (sext 16 v))]
  | 2 => [(gd, BitVec.ofInt 64 (sext 32 v))]
  | 4 => [(gd, BitVec.ofNat 64 v), (gd + 1, BitVec.ofNat 64 (v / 2 ^ 64))]
  | _ => [(gd, BitVec.ofNat 64 v)]

def szSigned (sz : BitVec 3) : Bool := sz.toNat < 3

/-- Read every lane's local data: state, results by lane and register, and the lanes that met poison with
their lines. -/
def readLanes (s : State) (c : Iss) (gd : Nat) (sz : BitVec 3) (plain : Bool) :
    List LA → State × List (Nat × Nat × W64) × List (Nat × Nat)
  | [] => (s, [], [])
  | a :: r =>
    let n := szBytes sz
    let (s, bs, poison) := match a.res with
      | .ls off => (s, mreadN (getCore s (tcKey c.x)).ls off n, false)
      | .loc pa => readLoc s c a.lane pa n plain
      | _ => (s, [], false)
    let here := match a.res with
      | .ls _ => (loadRegs gd sz bs).map fun p => (a.lane, p.1, p.2)
      | .loc _ => (loadRegs gd sz bs).map fun p => (a.lane, p.1, p.2)
      | _ => []
    let bad := if poison then [(a.lane, a.va / 128 * 128)] else []
    let (s, vs, ps) := readLanes s c gd sz plain r
    (s, here ++ vs, bad ++ ps)

/-- Write results into registers. -/
def putResults (t : Threads) : List (Nat × Nat × W64) → Threads
  | [] => t
  | (l, r, v) :: rest => putResults (wrG t l r v) rest

/-- Set what an issuer waits for. -/
def setWait (s : State) (x : Issuer) (ids : List Nat) (rs : List (Nat × Nat × W64)) : State :=
  match x with
  | .tc d k slot => modGroup s (coreKey d k) slot fun g => { g with waitIds := ids, results := rs }
  | .cc n => modCC s n fun c => { c with waitIds := ids, results := rs }

/-- The distinct off-device addresses of a list, each with its lanes: one access for each (R55, R56). -/
def outGroups (as : List LA) : List (LRes × List LA) :=
  let keys := as.foldl (fun ks a => match a.res with
    | .out _ _ _ => if ks.contains a.res then ks else ks ++ [a.res]
    | _ => ks) []
  keys.map fun k => (k, as.filter fun a => a.res = k)

/-- Each off-device access on its own: reservations and CAS go lane by lane (R58). -/
def singles (as : List LA) : List (LRes × List LA) :=
  (as.filter fun a => match a.res with | .out _ _ _ => true | _ => false).map fun a => (a.res, [a])

/-- What an off-device access asks, for `sendAll`. -/
structure Ask where
  kind : OutKind
  size : Nat
  gd : Nat
  signed : Bool := false
  aop : Nat := 0
  data : List LA → List Byte := fun _ => []
  items : List LA → List (Nat × Nat × Nat) := fun _ => []

/-- Send one off-device request for each address of a list: the requests sent, and the accesses whose path
fails at once (R151, R258, R265). -/
def sendAll (s : State) (c : Iss) (q : Ask) : List (LRes × List LA) → State × List Nat × List LA
  | [] => (s, [], [])
  | (r, as) :: rest =>
    match r with
    | .out tgt dev addr =>
      let b := byLane c ((as.map LA.lane).headD 0)
      if tgt = 3 && !reachable s dev then
        let s := if s.fabric.failed.contains dev then s else failPath s dev
        let (s, ids, fs) := sendAll (pathMark s c.ctx.toNat dev) c q rest
        (s, ids, as ++ fs)
      else
        let (s, id) := sendOut s {
          tgt := tgt
          dev := dev
          addr := addr
          va := (as.map LA.va).headD 0
          kind := q.kind
          who := c.x
          ctx := c.ctx
          agent := b.agent
          thread := b.thread
          size := q.size
          lanes := as.map fun a => ⟨a.lane, q.gd, q.size, q.signed⟩
          aop := q.aop
          items := q.items as
          data := q.data as }
        let (s, ids, fs) := sendAll s c q rest
        (s, id :: ids, fs)
    | _ => sendAll s c q rest

/-- The tracker is too full for the Shroud requests of an instruction, which waits (R265). -/
def trackerFull (s : State) (as : List LA) : Bool :=
  let n := (as.filter fun a => match a.res with | .out 3 _ _ => true | _ => false).length
  n ≠ 0 && !trackerRoom s n

/-- Finish a reading instruction whose local lanes gave `rs`: go on, or wait for what left the device; a path
that fails at once is FABRIC_PATH at the instruction (R151, R265). -/
def readFinish (c : Iss) (rs : List (Nat × Nat × W64)) (sent : State × List Nat × List LA) : Eff :=
  match sent with
  | (s, _, f :: fs) => .trap s cFabricPath f.va (laneMask ((f :: fs).map LA.lane))
  | (s, [], []) => .go (setTh s c.x (putResults c.th rs))
  | (s, id :: ids, []) => .stall (setWait s c.x (id :: ids) rs)

/-! ## Loads -/

/-- A load's effect after resolution: poison is consumed (R178), then the results. -/
def loadBody (s : State) (c : Iss) (gd : Nat) (sz : BitVec 3) (plain : Bool) (as : List LA) (after : State → State) : Eff :=
  match laFail s .read 0 as with
  | some e => e
  | none =>
    if trackerFull s as then .stall s else
    let (s, rs, ps) := readLanes s c gd sz plain as
    match ps with
    | (_, v) :: _ => .trap s cPoison v (laneMask (ps.map Prod.fst))
    | [] =>
      let s := after s
      readFinish c rs (sendAll s c { kind := .load, size := szBytes sz, gd := gd, signed := szSigned sz } (outGroups as))

/-- Address of format S: base plus the signed, scaled immediate (R30). -/
def addrS (t : Threads) (ga : BitVec 6) (sz : BitVec 3) (imm : BitVec 7) (l : Nat) : Nat :=
  (rdG t l ga.toNat + BitVec.ofInt 64 (imm.toInt * szBytes sz)).toNat

/-- Perform everything a core's port holds before an access ordered at the home (R120). -/
def drainOwn (s : State) (c : Iss) : State :=
  match c.x with
  | .tc d k _ => drainPort s (coreKey d k) fun _ => true
  | .cc n => drainCC s n

def execLd (x : Issuer) (f : SF) (s : State) : Result :=
  issue (.ld x f) x 4 (fun s c =>
    let (s, as) := resolveAll s c (szBytes f.sz) .read false (addrS c.th f.ga f.sz f.imm) (active c f.guard)
    loadBody s c f.gd.toNat f.sz true as id) s

/-- LD.V: served at the home, bypassing the constant cache (R130). -/
def execLdv (x : Issuer) (f : SF) (s : State) : Result :=
  issue (.ldv x f) x 4 (fun s c =>
    let (s, as) := resolveAll s c (szBytes f.sz) .read false (addrS c.th f.ga f.sz f.imm) (active c f.guard)
    loadBody (drainOwn s c) c f.gd.toNat f.sz false as id) s

/-- The constant cache is invalidated by an acquire at die scope or wider (R128). -/
def acquire (x : Issuer) (scope : Nat) (s : State) : State :=
  match x with
  | .tc d k _ => if 2 ≤ scope then modCore s (coreKey d k) fun c => { c with ccache := [] } else s
  | .cc _ => s

def execAcq (x : Issuer) (f : ScF) (s : State) : Result :=
  issue (.acq x f) x 4 (fun s c =>
    let act := active c f.guard
    let (s, as) := resolveAll s c (szBytes f.sz) .read false (addrS c.th f.ga f.sz f.imm) act
    loadBody (drainOwn s c) c f.gd.toNat f.sz false as (if act.isEmpty then id else acquire x f.scope.toNat)) s

/-! ## Stores -/

/-- The bytes a store of size sz writes from gd, and gd + 1 for Q (R30). -/
def storeBytes (t : Threads) (l gd : Nat) (sz : BitVec 3) : List Byte :=
  if sz.toNat = 4 then natLe 8 (rdG t l gd).toNat ++ natLe 8 (rdG t l (gd + 1)).toNat
  else natLe (szBytes sz) (rdG t l gd).toNat

/-- A lane's own reservation ends, wherever it is held: at a store, an AMO, a STCOND or another LDRES of its (R139). -/
def endOwnResv (s : State) (c : Iss) (l : Nat) : State :=
  let s := dropResv s (byLane c l).key
  match c.x with
  | .tc _ _ _ => s
  | .cc n => modCC s n fun q => { q with resv := none }

/-- A store of one lane is accepted: the local store, the memory port or store buffer, or sent off (R127,
R128, R139). -/
def storeLane (s : State) (c : Iss) (rel : Bool) (bs : List Byte) (a : LA) : State :=
  let s := endOwnResv s c a.lane
  match a.res with
  | .ls off => modCore s (tcKey c.x) fun k => { k with ls := mwriteN k.ls off bs }
  | .loc pa =>
    let b := byLane c a.lane
    let p : PStore := { thread := b.thread, ctx := c.ctx, part := c.part, sys := b.who = .sys, pa := pa, bytes := bs }
    match c.x with
    | .tc d k _ => modCore s (coreKey d k) fun q => { q with port := q.port ++ [p], ccache := tdel q.ccache (pa / 128) }
    | .cc n => modCC s n fun q => { q with sb := q.sb ++ [p] }
  | .out tgt dev addr =>
    let b := byLane c a.lane
    let s := if tgt = 3 && !reachable s dev && !s.fabric.failed.contains dev then failPath s dev else s
    (sendOut s {
      tgt := tgt, dev := dev, addr := addr, va := a.va, kind := .store, who := c.x, ctx := c.ctx, agent := b.agent,
      thread := b.thread, size := bs.length, lanes := [⟨a.lane, 0, bs.length, false⟩], rel := rel, data := bs }).1
  | _ => s

/-- Stores in lane order: of several lanes on one address only the highest writes (R55). -/
def storeAll (s : State) (c : Iss) (rel : Bool) (bytes : Nat → List Byte) : List LA → State
  | [] => s
  | a :: r =>
    if r.any fun b => b.res = a.res then storeAll (endOwnResv s c a.lane) c rel bytes r
    else storeAll (storeLane s c rel (bytes a.lane) a) c rel bytes r

def execSt (x : Issuer) (f : SF) (s : State) : Result :=
  issue (.st x f) x 4 (fun s c =>
    let (s, as) := resolveAll s c (szBytes f.sz) .write false (addrS c.th f.ga f.sz f.imm) (active c f.guard)
    match laFail s .write 0 as with
    | some e => e
    | none => if trackerFull s as then .stall s else .go (storeAll s c false (fun l => storeBytes c.th l f.gd.toNat f.sz) as)) s

/-! ## Waiting for stores (R133, R135, R150) -/

/-- Stores of the executing lanes that left the device and are not yet settled, or have failed. -/
def waitingStores (s : State) (c : Iss) (act : List Nat) : List OutReq :=
  (outStores s c.x).filter fun r => !isTc c.x || r.lanes.any fun l => act.contains l.lane

/-- The wait of an instruction for stores that left the device, all but those `except` names: hold while one
is outstanding; then a refused one raises OWNERSHIP and a failed one DEVICE_STORE_ABORT, once (R150). -/
def storeWait (s : State) (c : Iss) (act : List Nat) (except : OutReq → Bool) : Option Eff :=
  let rs := (waitingStores s c act).filter fun r => !except r
  let bad := rs.filter fun r => r.failed || r.denied
  if rs.length ≠ bad.length then some (.stall s)
  else
    (storeCause bad).map fun t => .trap (clearFailed s c.x) t.1 t.2.1 t.2.2

/-- Local stores still held back by a deferral after a drain. -/
def storesLeft (s : State) (x : Issuer) : Bool :=
  match x with
  | .tc d k slot => !(slotStores (getCore s (coreKey d k)) slot).isEmpty
  | .cc n => !(getCC s n).sb.isEmpty

/-- What a release does before its own access: at die scope or wider the core's stores are performed, and
stores to other devices are waited for (R135). -/
def releaseWait (s : State) (c : Iss) (act : List Nat) (scope : Nat) (except : OutReq → Bool) : State × Option Eff :=
  let s := if 2 ≤ scope || !isTc c.x then drainOwn s c else s
  if (2 ≤ scope || !isTc c.x) && storesLeft s c.x then (s, some (.stall s))
  else (s, storeWait s c act fun r => except r || (r.tgt ≠ 3 && scope < 3))

def execRel (x : Issuer) (f : ScF) (s : State) : Result :=
  issue (.rel x f) x 4 (fun s c =>
    let act := active c f.guard
    let (s, as) := resolveAll s c (szBytes f.sz) .write false (addrS c.th f.ga f.sz f.imm) act
    match laFail s .write 0 as with
    | some e => e
    | none =>
      let dev := match as.head? with
        | some a => (match a.res with | .out 3 d _ => some d | _ => none)
        | none => none
      if trackerFull s as then .stall s else
      let except (r : OutReq) : Bool := f.scope = 4 && r.tgt = 3 && some r.dev = dev && !r.failed && !r.denied
      match releaseWait s c act f.scope.toNat except with
      | (_, some e) => e
      | (s, none) =>
        .go (storeAll s c (f.scope = 4) (fun l => storeBytes c.th l f.gd.toNat f.sz) as)) s

def execBarl (x : Issuer) (f : RF) (s : State) : Result := issue (.barl x f) x 4 (fun s _ => .go s) s

/-- BARS: every earlier store performed at its home, local or remote (R133). -/
def barStores (s : State) (c : Iss) (act : List Nat) : State × Option Eff :=
  if act.isEmpty then (s, none)
  else
    let s := match c.x with
      | .tc d k slot => drainPort s (coreKey d k) fun p => p.thread / 32 = slot.val && act.contains (p.thread % 32)
      | .cc n => drainCC s n
    let left := match c.x with
      | .tc d k slot => (slotStores (getCore s (coreKey d k)) slot).any fun p => act.contains (p.thread % 32)
      | .cc n => !(getCC s n).sb.isEmpty
    if left then (s, some (.stall s)) else (s, storeWait s c act fun _ => false)

def execBars (x : Issuer) (f : RF) (s : State) : Result :=
  issue (.bars x f) x 4 (fun s c =>
    match barStores s c (active c f.guard) with
    | (_, some e) => e
    | (s, none) => .go s) s

/-- Die of a core key; control core `n` is core 128 + n. -/
def dieOfKey (k : Nat) : Nat := if k < 128 then k / 24 else 4

/-- A die that has cleared its caches and holds no waiting engine reports (R224, R240). -/
def xinvReport (s : State) (d : Nat) (r : XinvRec) : State :=
  if r.seen.contains d && r.dies.contains d && !(r.waits.any fun w => dieOfKey w.1 = d) then emit s (.workDone 2 d 0 r.ga) else s

/-- A TMOVE or MDRAIN of a core is over: the XINVs that waited for it go on (R224). -/
def engineGone (s : State) (k id : Nat) : State :=
  each s s.ccs fun s p =>
    each s (p.2.xinv.zipIdx) fun s q =>
      if q.1.waits.contains (k, id) then
        let r := { q.1 with waits := q.1.waits.filter fun w => w ≠ (k, id) }
        xinvReport (modCC s p.1 fun c => { c with xinv := setNth c.xinv q.2 r }) (dieOfKey k) r
      else s

/-- BARF waits besides for the XINVs the core has issued (R224). -/
def execBarf (x : Issuer) (f : RF) (s : State) : Result :=
  issue (.barf x f) x 4 (fun s c =>
    let act := active c f.guard
    match barStores s c act with
    | (_, some e) => e
    | (s, none) =>
      match c.x with
      | .cc n => if !act.isEmpty && !(getCC s n).xinv.isEmpty then .stall s else .go s
      | _ => .go s) s

/-- ISYNC: the core's instruction cache is discarded (R129). -/
def execIsync (x : Issuer) (f : RF) (s : State) : Result :=
  issue (.isync x f) x 4 (fun s c =>
    if (active c f.guard).isEmpty then .go s
    else
      match x with
      | .tc d k _ => .go (modCore s (coreKey d k) fun q => { q with icache := [] })
      | .cc n => .go (modCC s n fun q => { q with icache := [] })) s

/-! ## Reservations -/

/-- LDRES: a load at the home that reserves the line (R138), deferred by another thread's window (R141). -/
def execLdres (x : Issuer) (f : SF) (s : State) : Result :=
  issue (.ldres x f) x 4 (fun s c =>
    let act := active c f.guard
    let (s, as) := resolveAll s c (szBytes f.sz) .read true (addrS c.th f.ga f.sz f.imm) act
    let s := drainOwn s c
    if trackerFull s as || as.any fun a => match a.res with | .loc pa => lineDeferred s (byLane c a.lane).key (pa / 128) | _ => false
    then .stall s
    else
      match laFail s .read 0 as with
      | some e => e
      | none =>
        let (s, rs, ps) := readLanes s c f.gd.toNat f.sz false as
        match ps with
        | (_, v) :: _ => .trap s cPoison v (laneMask (ps.map Prod.fst))
        | [] =>
          let s := each s as fun s a =>
            match a.res, c.x with
            | .loc pa, .tc _ _ _ => setResv s (byLane c a.lane).key (pa / 128)
            | .loc pa, .cc n =>
              modCC (ccOwn s (byLane c a.lane) n (pa / 128)) n fun q => { q with resv := some (pa / 128), window := true }
            | _, _ => endOwnResv s c a.lane
          readFinish c rs
            (sendAll s c { kind := .res, size := szBytes f.sz, gd := f.gd.toNat, signed := true } (singles as))) s

/-- The lanes of a STCOND in lane order: each stores where its reservation holds, and its reservation is
cleared either way (R58, R140). -/
def condLanes (s : State) (c : Iss) (bytes : Nat → List Byte) : List LA → State × List (Nat × W64)
  | [] => (s, [])
  | a :: r =>
    let b := byLane c a.lane
    match a.res with
    | .loc pa =>
      let ln := pa / 128
      let holds := match c.x with
        | .tc _ _ _ => hasResv s b.key ln
        | .cc n => (getCC s n).resv = some ln
      let s := match c.x with
        | .tc _ _ _ => dropResv s b.key
        | .cc n => modCC s n fun q => { q with resv := none }
      let s :=
        if holds then
          match c.x with
          | .tc d k _ =>
            modCore (homeWrite s b pa (bytes a.lane)) (coreKey d k) fun q => { q with ccache := tdel q.ccache ln }
          | .cc n => ccWrite s b n pa (bytes a.lane)
        else s
      let (s, vs) := condLanes s c bytes r
      (s, (a.lane, if holds then 0 else 1) :: vs)
    | _ => condLanes (endOwnResv s c a.lane) c bytes r

/-- STCOND (R140): a store of gb to [ga] under the reservation; gd takes 0 or 1. -/
def execStcond (x : Issuer) (f : RF) (dbl : Bool) (s : State) : Result :=
  issue (.stcond x f dbl) x 4 (fun s c =>
    let act := active c f.guard
    let n := if dbl then 8 else 4
    let (s, as) := resolveAll s c n .write true (fun l => (rdG c.th l f.ga.toNat).toNat) act
    match laFail s .write 0 as with
    | some e => e
    | none =>
      if trackerFull s as then .stall s else
      let s := drainOwn s c
      let (s, vs) := condLanes s c (fun l => natLe n (rdG c.th l f.gb.toNat).toNat) as
      let rs := vs.map fun v => (v.1, f.gd.toNat, v.2)
      let data (as : List LA) : List Byte := natLe n (rdG c.th ((as.map LA.lane).headD 0) f.gb.toNat).toNat
      readFinish c rs (sendAll s c { kind := .scond, size := n, gd := f.gd.toNat, data := data } (singles as))) s

/-! ## Atomics -/

/-- Atomic operations (table "Major opcode map"). -/
inductive AmoOp where
  | add | and | or | xor | min | max | swap | cas | minu | maxu | fadd
deriving DecidableEq, Repr

/-- The AOP field of a request: [4] the major, [3:0] the op field (table "Request header, word 1"). -/
def aopCode (op : AmoOp) (dbl : Bool) : Nat :=
  match op with
  | .add => 8 * b2n dbl
  | .and => 8 * b2n dbl + 1
  | .or => 8 * b2n dbl + 2
  | .xor => 8 * b2n dbl + 3
  | .min => 8 * b2n dbl + 4
  | .max => 8 * b2n dbl + 5
  | .swap => 8 * b2n dbl + 6
  | .cas => 8 * b2n dbl + 7
  | .minu => 16 + b2n dbl
  | .maxu => 18 + b2n dbl
  | .fadd => 20

/-- The operation and size of an AOP field; none for a reserved value. -/
def aopOf (n : Nat) : Option (AmoOp × Bool) :=
  if n < 16 then
    some ((match n % 8 with
      | 0 => .add
      | 1 => .and
      | 2 => .or
      | 3 => .xor
      | 4 => .min
      | 5 => .max
      | 6 => .swap
      | _ => .cas), n ≥ 8)
  else
    match n with
    | 16 => some (.minu, false)
    | 17 => some (.minu, true)
    | 18 => some (.maxu, false)
    | 19 => some (.maxu, true)
    | 20 => some (.fadd, false)
    | _ => none

/-- Apply an operation to `w`-bit values: old value, operand, and the compare value of CAS (R143). -/
def amoApply (op : AmoOp) (w v b cmp : Nat) : Nat :=
  let m := 2 ^ w
  match op with
  | .add => (v + b) % m
  | .and => Nat.land v b
  | .or => Nat.lor v b
  | .xor => Nat.xor v b
  | .min => if sext w v ≤ sext w b then v else b
  | .max => if sext w v ≤ sext w b then b else v
  | .swap => b
  | .cas => if v = cmp then b else v
  | .minu => Nat.min v b
  | .maxu => Nat.max v b
  | .fadd => (homeFadd (BitVec.ofNat 32 v) (BitVec.ofNat 32 b)).toNat

/-- The combined atomic of the lanes on one address (R56, R57): the value memory takes and each lane's
return, from the old value `v` and (lane, operand, compare) in lane order. FADD.W sums the operands first. -/
def amoFold (op : AmoOp) (w v : Nat) : Option Nat → List (Nat × Nat × Nat) → Nat × List (Nat × Nat)
  | acc, [] => (match acc with | none => v | some a => (match op with | .fadd => amoApply op w v a 0 | _ => a), [])
  | acc, (l, b, cmp) :: r =>
    let cur := match acc with
      | none => v
      | some a => (match op with | .fadd => amoApply op w v a 0 | _ => a)
    let acc' := match op, acc with
      | .fadd, none => b
      | .fadd, some a => amoApply op w a b 0
      | _, _ => amoApply op w cur b cmp
    let (m, rs) := amoFold op w v (some acc') r
    (m, (l, cur) :: rs)

/-! ## The non-reproducible flag (R305) -/

/-- Set a context's flag. -/
def setNr (s : State) (ctx : BitVec 12) : State := modCtx s ctx.toNat fun c => { c with nrflag := true }

/-- Record a source of an order-dependent operation on a line; a second source for the context sets its flag
in the strict and portable classes; a full table gives up its oldest record and sets that context's flag. -/
def noteSource (s : State) (b : By) (ln : Nat) : State :=
  match b.who with
  | .ctx ctx _ =>
    let strict := match getCtx s ctx.toNat with | some c => (getSlot s c.slot).cls < 2 | none => false
    if !strict then s
    else
      let r : SrcRec := { line := ln, ctx := ctx, dev := (match b.dev with | some d => d | none => s.fabric.device), agent := b.agent }
      let s := if s.homes.srcs.any (fun q => q.line = ln && q.ctx = ctx && (q.dev ≠ r.dev || q.agent ≠ r.agent)) then setNr s ctx else s
      if s.homes.srcs.contains r then s
      else
        let slice := homeOf s (ln * 128)
        let here := s.homes.srcs.filter fun q => homeOf s (q.line * 128) = slice
        let s := if here.length < 8192 then s else
          match here.head? with
          | some o => setNr (modHomes s fun h => { h with srcs := h.srcs.filter fun q => q ≠ o }) o.ctx
          | none => s
        modHomes s fun h => { h with srcs := h.srcs ++ [r] }
  | _ => s

/-- Lanes on one local address, in lane order. -/
def locGroups (as : List LA) : List (Nat × List LA) :=
  let keys := as.foldl (fun ks a => match a.res with
    | .loc pa => if ks.contains pa then ks else ks ++ [pa]
    | _ => ks) []
  keys.map fun pa => (pa, as.filter fun a => a.res = .loc pa)

/-- A value the register takes for an atomic's old value: a word operand leaves the upper half open
(assumption 10). -/
def amoReg (dbl : Bool) (n v : Nat) : W64 :=
  if dbl then BitVec.ofNat 64 v else (Config.freeWord n).setWidth 32 ++ BitVec.ofNat 32 v

/-- Perform the atomics of the local addresses at their homes, in the order of their lowest lanes (R56). -/
def amoLocal (s : State) (c : Iss) (op : AmoOp) (dbl : Bool) (gd : Nat) (opnd cmp : Nat → Nat) :
    List (Nat × List LA) → State × List (Nat × Nat × W64)
  | [] => (s, [])
  | (pa, as) :: r =>
    let n := if dbl then 8 else 4
    let l0 := (as.map LA.lane).headD 0
    let b := byLane c l0
    let old := leNat (memBytes s pa n)
    let items := as.map fun a => (a.lane, opnd a.lane % 2 ^ (8 * n), cmp a.lane % 2 ^ (8 * n))
    let (new, rets) := amoFold op (8 * n) old none items
    let s := homeWrite s b pa (natLe n new)
    let s := if op = .fadd then noteSource s b (pa / 128) else s
    let s := match c.x with
      | .tc d k _ => modCore s (coreKey d k) fun q => { q with ccache := tdel q.ccache (pa / 128) }
      | .cc _ => s
    let (s, i) := draw s
    let (s, rs) := amoLocal s c op dbl gd opnd cmp r
    (s, rets.map (fun p => (p.1, gd, amoReg dbl i p.2)) ++ rs)

/-- An AMO: as a release at its scope, the operation at the home, as an acquire at its scope (R133, R143). -/
def amoBody (f : AF) (op : AmoOp) (s : State) (c : Iss) : Eff :=
  let act := active c f.guard
  let n := if f.dbl then 8 else 4
  let (s, as) := resolveAll s c n .atomic true (fun l => (rdG c.th l f.ga.toNat).toNat) act
  match laFail s .atomic 0 as with
  | some e => e
  | none =>
    let sick := as.filter fun a => match a.res with | .loc pa => linePoisoned s (pa / 128) | _ => false
    match sick with
    | a :: _ => .trap s cPoison (a.va / 128 * 128) (laneMask (sick.map LA.lane))
    | [] =>
      match releaseWait (drainOwn s c) c act f.scope.toNat (fun _ => false) with
      | (_, some e) => e
      | (s, none) =>
        if trackerFull s as || as.any fun a => match a.res with | .loc pa => lineDeferred s (byLane c a.lane).key (pa / 128) | _ => false
        then .stall s
        else
          let opnd (l : Nat) : Nat := (rdG c.th l f.gb.toNat).toNat
          let cmp (l : Nat) : Nat := (rdG c.th l f.gd.toNat).toNat
          let (s, rs) := amoLocal s c op f.dbl f.gd.toNat opnd cmp (locGroups as)
          let s := each s as fun s a => endOwnResv s c a.lane
          let s := if act.isEmpty then s else acquire c.x f.scope.toNat s
          let data (as : List LA) : List Byte :=
            if op = .cas then (as.take 1).flatMap fun a => natLe 8 (cmp a.lane) ++ natLe 8 (opnd a.lane)
            else
              match as with
              | [] => []
              | a :: r => natLe 8 (r.foldl (fun acc b => amoApply op (8 * n) acc (opnd b.lane % 2 ^ (8 * n)) 0) (opnd a.lane % 2 ^ (8 * n)))
          let items (as : List LA) : List (Nat × Nat × Nat) :=
            as.map fun a => (a.lane, opnd a.lane % 2 ^ (8 * n), cmp a.lane % 2 ^ (8 * n))
          let ask : Ask :=
            { kind := .amo, size := n, gd := f.gd.toNat, aop := aopCode op f.dbl, data := data, items := items }
          readFinish c rs (sendAll s c ask (if op = .cas then singles as else outGroups as))

def execAmoAdd (x : Issuer) (f : AF) (s : State) : Result := issue (.amoAdd x f) x 4 (amoBody f .add) s
def execAmoAnd (x : Issuer) (f : AF) (s : State) : Result := issue (.amoAnd x f) x 4 (amoBody f .and) s
def execAmoOr (x : Issuer) (f : AF) (s : State) : Result := issue (.amoOr x f) x 4 (amoBody f .or) s
def execAmoXor (x : Issuer) (f : AF) (s : State) : Result := issue (.amoXor x f) x 4 (amoBody f .xor) s
def execAmoMin (x : Issuer) (f : AF) (s : State) : Result := issue (.amoMin x f) x 4 (amoBody f .min) s
def execAmoMax (x : Issuer) (f : AF) (s : State) : Result := issue (.amoMax x f) x 4 (amoBody f .max) s
def execAmoSwap (x : Issuer) (f : AF) (s : State) : Result := issue (.amoSwap x f) x 4 (amoBody f .swap) s
def execAmoCas (x : Issuer) (f : AF) (s : State) : Result := issue (.amoCas x f) x 4 (amoBody f .cas) s
def execAmoMinu (x : Issuer) (f : AF) (s : State) : Result := issue (.amoMinu x f) x 4 (amoBody f .minu) s
def execAmoMaxu (x : Issuer) (f : AF) (s : State) : Result := issue (.amoMaxu x f) x 4 (amoBody f .maxu) s
def execAmoFadd (x : Issuer) (f : AF) (s : State) : Result := issue (.amoFadd x f) x 4 (amoBody f .fadd) s

end Sys2Proof.Machine
end

