-- ==== Sys2Proof/Machine/Group.lean ====
section
/-! DEFINITION. Barriers of a group and a cohort, and the instructions that see other lanes (R50 to R54, R432). -/

namespace Sys2Proof.Machine

/-- GBAR: the lanes whose guard is true park at the group barrier (R48, R50). -/
def execGbar (x : Issuer) (f : RF) (s : State) : Result :=
  issue (.gbar x f) x 4 (fun s c => .park s (laneMask (active c f.guard)) .gbar) s

/-- CBAR: the lanes whose guard is true park at the cohort barrier (R48, R52). -/
def execCbar (x : Issuer) (f : RF) (s : State) : Result :=
  issue (.cbar x f) x 4 (fun s c => .park s (laneMask (active c f.guard)) .cbar) s

/-- SHFL: ga of the lane numbered gb[4:0], every lane read before any is written (R432). -/
def execShfl (x : Issuer) (f : RF) (s : State) : Result :=
  issue (.shfl x f) x 4 (fun s c =>
    .go (setTh s x (eachLane c.th (active c f.guard) fun t l =>
      wrG t l f.gd.toNat (rdG c.th ((rdG c.th l f.gb.toNat).toNat % 32) f.ga.toNat)))) s

/-- The lanes a BALLOT counts: running, guarded, and pa true (R432). -/
def ballotMask (c : Iss) (guard : BitVec 4) (pa : Nat) : W32 := laneMask ((active c guard).filter fun l => rdP c.th l pa)

def execBallot (x : Issuer) (f : RF) (s : State) : Result :=
  issue (.ballot x f) x 4 (fun s c =>
    .go (setTh s x (eachLane c.th (active c f.guard) fun t l =>
      wrG t l f.gd.toNat ((ballotMask c f.guard (f.gb.toNat % 8)).setWidth 64)))) s

end Sys2Proof.Machine
end

