-- ==== Sys2Proof/Machine/Formats.lean ====
section
/-! DEFINITION. Element formats, tile descriptors, the array's sum and the conversions (R26, R99 to R117). -/

namespace Sys2Proof.Machine

/-! ## Formats by code (R99) -/

/-- Element bits of a format code. -/
def fmtBits (f : Nat) : Nat :=
  match f with
  | 0 => 32
  | 1 => 16
  | 2 => 16
  | 3 => 8
  | 4 => 8
  | 5 => 6
  | 6 => 6
  | 7 => 4
  | 8 => 8
  | 9 => 4
  | 10 => 8
  | 11 => 8
  | 12 => 6
  | 13 => 6
  | 14 => 4
  | _ => 8

/-- Microscaled formats: one E8M0 scale for each 32 elements. -/
def fmtMx (f : Nat) : Bool := 10 ≤ f

/-- Format group: 0 F32, 1 H16, 2 FP8, 3 FP6, 4 FP4, 5 INT8, 6 INT4, 7 MX8, 8 MX6, 9 MX4 (R81). -/
def fmtGroup (f : Nat) : Nat :=
  match f with
  | 0 => 0
  | 1 => 1
  | 2 => 1
  | 3 => 2
  | 4 => 2
  | 5 => 3
  | 6 => 3
  | 7 => 4
  | 8 => 5
  | 9 => 6
  | 10 => 7
  | 11 => 7
  | 12 => 8
  | 13 => 8
  | 14 => 9
  | _ => 7

/-- The floating-point layout of a code, none for an integer format (R100). -/
def fmtFloat (f : Nat) : Option FFmt :=
  match f with
  | 0 => some fmtFP32
  | 1 => some fmtBF16
  | 2 => some fmtFP16
  | 3 => some fmtE4M3
  | 4 => some fmtE5M2
  | 5 => some fmtE3M2
  | 6 => some fmtE2M3
  | 7 => some fmtE2M1
  | 10 => some fmtE4M3
  | 11 => some fmtE5M2
  | 12 => some fmtE3M2
  | 13 => some fmtE2M3
  | 14 => some fmtE2M1
  | _ => none

/-- An integer as a decoded value, scaled by 2^e. -/
def intVal (v e : Int) : FVal := .fin (v < 0) v.natAbs e

/-- The value of an element's code, its block scale apart. -/
def elemVal (f code : Nat) : FVal :=
  match fmtFloat f with
  | some l => fdecode l code
  | none => intVal (sext (fmtBits f) code) (if f = 15 then -6 else 0)

/-- Round an exact magnitude to nearest even into a layout; none where it exceeds the largest finite value. -/
def roundTo (l : FFmt) (m : Nat) (e : Int) : Option Nat :=
  let (r, q, _) := roundMag 0 false m e false (l.mb + 1) (some (fqmin l))
  fencode l r q

/-- Round a signed exact value to the nearest integer, ties to even. -/
def roundInt (neg : Bool) (m : Nat) (e : Int) : Int :=
  let (r, q, _) := roundMag 0 false m e false 1000 (some 0)
  let v : Int := (r * 2 ^ q.toNat : Nat)
  if neg then -v else v

def clampInt (lo hi v : Int) : Int := if v < lo then lo else if hi < v then hi else v

/-- The NaN a format is given (table "MDRAIN conversion of FP32 elements"). -/
def nanOf (f : Nat) : Nat :=
  match f with
  | 0 => 0x7FC00000
  | 1 => 0x7FC0
  | 2 => 0x7E00
  | 4 => 0x7E
  | 3 => 0x7F
  | 5 => 0x1F
  | 6 => 0x1F
  | 7 => 0x7
  | _ => 0

/-- Convert one value to an unscaled format under an overflow policy: `sat` saturates (R112). -/
def convElem (f : Nat) (sat : Bool) (v : FVal) : Nat :=
  match fmtFloat f with
  | none =>
    let w := fmtBits f
    let lo : Int := -(2 ^ (w - 1) : Nat)
    let hi : Int := (2 ^ (w - 1) : Nat) - 1
    let z : Int := match v with
      | .nan _ => 0
      | .inf n => if n then lo else hi
      | .fin n m e => clampInt lo hi (roundInt n m e)
    (BitVec.ofInt w z).toNat
  | some l =>
    let sign (n : Bool) : Nat := if n then 2 ^ (l.eb + l.mb) else 0
    let infCode := (2 ^ l.eb - 1) * 2 ^ l.mb
    match v with
    | .nan _ => nanOf f
    | .inf n =>
      if l.special = 0 then sign n + infCode
      else if l.special = 1 then sign n + (if sat then fmax0 l else 2 ^ (l.eb + l.mb) - 1)
      else sign n + fmax0 l
    | .fin n m e =>
      match roundTo l m e with
      | some r => sign n + r
      | none =>
        if l.special = 2 || sat then sign n + fmax0 l
        else if l.special = 1 then sign n + (2 ^ (l.eb + l.mb) - 1)
        else sign n + infCode

/-- Whether a NaN converts to a format without NaN, which the drainer counts (R112). -/
def nanLost (f : Nat) (v : FVal) : Bool :=
  (match v with
   | .nan _ => true
   | _ => false) && (match fmtFloat f with
   | none => true
   | some l => l.special = 2)

/-- The exponent of the leading bit of a decoded finite value. -/
def leadExp (m : Nat) (e : Int) : Int := e + bitLen m - 1

/-- Largest exponent of an MX element format (R113). -/
def mxEmax (f : Nat) : Int :=
  match f with
  | 10 => 8
  | 11 => 15
  | 12 => 4
  | 13 => 2
  | 14 => 2
  | _ => 0

def isSpecial : FVal → Bool
  | .nan _ => true
  | .inf _ => true
  | .fin _ _ _ => false

/-- Shared exponent of a block of 32 values (R113). -/
def mxShared (f : Nat) (vs : List FVal) : Int :=
  let tops := vs.filterMap fun v => match v with
    | .fin _ m e => if m = 0 then none else some (leadExp m e)
    | _ => none
  match tops with
  | [] => -127
  | t :: r => clampInt (-127) 127 (r.foldl max t - mxEmax f)

/-- Convert a block to an MX format: its scale byte and element codes (R113). -/
def convBlock (f : Nat) (vs : List FVal) : Nat × List Nat :=
  if vs.any isSpecial then (0xFF, vs.map fun _ => 0)
  else
    let x := mxShared f vs
    ((x + 127).toNat, vs.map fun v => match v with
      | .fin n m e =>
        if f = 15 then (BitVec.ofInt 8 (clampInt (-128) 127 (roundInt n m (e - x + 6)))).toNat
        else convElem f true (.fin n m (e - x))
      | _ => 0)

/-! ## Tile descriptors (R26) -/

/-- A tile descriptor's fields. -/
structure TD where
  fmt : Nat
  chint : Nat
  rows : Nat
  cols : Nat
  stride : Nat
  space : Bool
  res : Nat
  base : Nat
deriving DecidableEq, Repr

def tdOf (t : W128) : TD :=
  let v := t.toNat
  { fmt := bits v 127 122
    chint := bits v 121 120
    rows := bits v 119 104
    cols := bits v 103 88
    stride := bits v 87 64
    space := bit v 63
    res := bits v 62 57
    base := bits v 56 0 }

/-- Row length in bytes, scales of an MX row included (R26, R103). -/
def rowLen (t : TD) : Nat := ceilDiv (t.cols * fmtBits t.fmt) 8 + (if fmtMx t.fmt then t.cols / 32 else 0)

/-- Bytes from BASE to the end of the footprint (R26). -/
def footLen (t : TD) : Nat := (t.rows - 1) * t.stride + rowLen t

/-- Virtual address of byte `off` of a tile in memory: BASE sign-extended from 57 bits. -/
def tileVa (t : TD) (off : Nat) : Nat :=
  ((if bit t.base 56 then t.base + (2 ^ 64 - 2 ^ 57) else t.base) + off) % 2 ^ 64

/-- A descriptor is usable: every field in its range (R26, R32, R99, R103). -/
def tdOk (onTc dest : Bool) (t : TD) : Bool :=
  t.fmt < 16 && t.chint < 2 && t.rows ≠ 0 && t.cols ≠ 0 && t.stride % 16 = 0 && t.res = 0 && t.base % 16 = 0 &&
  !(dest && t.rows > 1 && t.stride < rowLen t) && !(fmtMx t.fmt && t.cols % 32 ≠ 0) &&
  (if t.space then onTc && t.base + footLen t ≤ 6 * 2 ^ 20
   else !(onTc && (tileVa t (footLen t - 1) ≥ 0xFFFFFFFFFFA00000 || tileVa t 0 ≥ 0xFFFFFFFFFFA00000)))

/-- The bytes of a tile as (row, offset within the footprint) starts of each row. -/
def rowStarts (t : TD) : List Nat := (List.range t.rows).map fun r => r * t.stride

/-- Element `i` of a row's bytes (R101). -/
def elemAt (f : Nat) (row : List Byte) (i : Nat) : Nat :=
  let w := fmtBits f
  let lo := i * w / 8
  (leNat ((row.drop lo).take (w / 8 + 2)) / 2 ^ (i * w % 8)) % 2 ^ w

/-- Scale byte of slot `j` of an MX row (R103). -/
def scaleAt (t : TD) (row : List Byte) (j : Nat) : Nat := ((row.drop (t.cols * fmtBits t.fmt / 8 + j)).headD 0).toNat

/-- Pack element codes into a row's bytes, the bits beyond the last element zero (R101). -/
def packElems (w : Nat) (codes : List Nat) : List Byte :=
  natLe (ceilDiv (codes.length * w) 8) (codes.foldr (fun c acc => c + 2 ^ w * acc) 0)

/-! ## Reductions (R117) -/

/-- Formats a reduction allows. -/
def ropAllows (rop f : Nat) : Bool :=
  if rop = 1 then f = 0 || f = 1 || f = 2 || f = 8
  else f = 0 || f = 1 || f = 2 || f = 3 || f = 4 || f = 8

/-- Sum of two decoded values rounded to nearest even into a layout, overflow to infinity (R117). -/
def addInto (f : Nat) (l : FFmt) (a b : FVal) : Nat :=
  let sign (n : Bool) : Nat := if n then 2 ^ (l.eb + l.mb) else 0
  let inf := (2 ^ l.eb - 1) * 2 ^ l.mb
  match a, b with
  | .nan _, _ => nanOf f
  | _, .nan _ => nanOf f
  | .inf n1, .inf n2 => if n1 = n2 then sign n1 + inf else nanOf f
  | .inf n, _ => sign n + inf
  | _, .inf n => sign n + inf
  | .fin n1 m1 e1, .fin n2 m2 e2 =>
    let (v, e) := addExact n1 m1 e1 n2 m2 e2
    if v = 0 then sign (m1 = 0 && m2 = 0 && n1 && n2)
    else
      match roundTo l v.natAbs e with
      | some r => sign (v < 0) + r
      | none => sign (v < 0) + inf

/-- One element of a reduction: source and destination codes (R115, R117). -/
def reduceElem (rop f src dst : Nat) : Nat :=
  match fmtFloat f with
  | none =>
    let a := sext 8 src
    let b := sext 8 dst
    let z := if rop = 1 then clampInt (-128) 127 (a + b) else if rop = 2 then max a b else min a b
    (BitVec.ofInt 8 z).toNat
  | some l =>
    let a := fdecode l src
    let b := fdecode l dst
    if rop = 1 then addInto f l a b
    else
      match a, b with
      | .nan _, .nan _ => nanOf f
      | .nan _, _ => dst
      | _, .nan _ => src
      | x, y => if fless x y != (rop = 2) then src else dst

/-- Reduce two byte strings of whole elements. -/
def reduceBytes (rop f : Nat) (src dst : List Byte) : List Byte :=
  let w := fmtBits f / 8
  let n := src.length / w
  (List.range n).flatMap fun i =>
    natLe w (reduceElem rop f (leNat ((src.drop (i * w)).take w)) (leNat ((dst.drop (i * w)).take w)))

/-! ## The array's sum (R105 to R109) -/

/-- A term: the exact product of two decoded values. -/
def termMul (a b : FVal) : FVal :=
  match a, b with
  | .nan _, _ => .nan false
  | _, .nan _ => .nan false
  | .inf _, .fin _ 0 _ => .nan false
  | .fin _ 0 _, .inf _ => .nan false
  | .inf n1, .inf n2 => .inf (n1 != n2)
  | .inf n1, .fin n2 _ _ => .inf (n1 != n2)
  | .fin n1 _ _, .inf n2 => .inf (n1 != n2)
  | .fin n1 m1 e1, .fin n2 m2 e2 => .fin (n1 != n2) (m1 * m2) (e1 + e2)

/-- An E8M0 scale (R102). -/
def scaleVal (e : Nat) : FVal := if e = 0xFF then .nan false else .fin false 1 ((e : Int) - 127)

/-- The exact sum of finite terms as an integer at an exponent below them all; special values first, as R108
orders them: none for NaN, an infinity with its sign. -/
inductive SumRes where
  | nan
  | inf (neg : Bool)
  | fin (v : Int) (e : Int)
deriving DecidableEq, Repr

def termExp : FVal → Int
  | .fin _ _ e => e
  | _ => 0

def termAt (e0 : Int) : FVal → Int
  | .fin n m e => let v : Int := (m * 2 ^ (e - e0).toNat : Nat); if n then -v else v
  | _ => 0

def exactSum (ts : List FVal) : SumRes :=
  if ts.any (fun t => match t with | .nan _ => true | _ => false) then .nan
  else if ts.contains (.inf true) && ts.contains (.inf false) then .nan
  else if ts.contains (.inf true) then .inf true
  else if ts.contains (.inf false) then .inf false
  else
    let e0 := ts.foldl (fun e t => min e (termExp t)) 0
    .fin (ts.foldl (fun a t => a + termAt e0 t) 0) e0

/-- Round a signed exact value, with the sticky quantity of R107 above it, to FP32; an exact zero is +0
(R106 to R109). -/
def roundSum (v : Int) (e : Int) (sticky : Bool) : Nat :=
  let v' : Int := if sticky then v * (2 ^ 400 : Nat) + 1 else v
  let e' := if sticky then e - 400 else e
  if v' = 0 then 0
  else
    let r := (round32 0 (v' < 0) v'.natAbs e' false).1
    if r = 2 ^ 31 then (if v < 0 then 2 ^ 31 else 0) else r

/-- The terms truncated toward zero 60 places below the leading bit of the largest: the integer sum, its
exponent, and the sticky bit (R107). -/
def truncTerms (ts : List FVal) : Int × Int × Bool :=
  let tops := ts.filterMap fun t => match t with
    | .fin _ m e => if m = 0 then none else some (leadExp m e)
    | _ => none
  match tops with
  | [] => (0, 0, false)
  | t0 :: r =>
    let q := r.foldl max t0 - 60
    ts.foldl (fun acc t => match t with
      | .fin n m e =>
        if q ≤ e then
          let v : Int := (m * 2 ^ (e - q).toNat : Nat)
          (acc.1 + (if n then -v else v), q, acc.2.2)
        else
          let k := m / 2 ^ (q - e).toNat
          (acc.1 + (if n then -(k : Int) else (k : Int)), q, acc.2.2 || m % 2 ^ (q - e).toNat ≠ 0)
      | _ => acc) (0, q, false)

/-- One output of one row: terms and the accumulator's value, exact (R106) or through R107's truncation. -/
def arrayOut (exact : Bool) (ts : List FVal) (a : FVal) : Nat :=
  match exactSum (ts ++ [a]) with
  | .nan => qnan32
  | .inf n => (if n then 2 ^ 31 else 0) + 0x7F800000
  | .fin v e =>
    if exact then roundSum v e false
    else
      let (t, q, sticky) := truncTerms ts
      match a with
      | .fin n m ea =>
        let (w, e) := addExact (t < 0) t.natAbs q n m ea
        roundSum w e sticky
      | _ => qnan32

/-- The two halves of an FP32 value under shape 5: the high BF16 part, and the rest rounded to BF16 (R110). The
low part of an infinity is open (assumption 11). -/
def tripleHi (v : Nat) : FVal := fdecode fmtFP32 (v / 65536 * 65536)
def tripleLo (v : Nat) : FVal :=
  match fdecode fmtFP32 v, tripleHi v with
  | .fin n1 m1 e1, .fin n2 m2 e2 =>
    let (d, e) := addExact n1 m1 e1 (!n2) m2 e2
    if d = 0 then .fin false 0 0
    else
      match roundTo fmtBF16 d.natAbs e with
      | some r => (match fdecode fmtBF16 r with | .fin _ m e => .fin (d < 0) m e | x => x)
      | none => .inf (d < 0)
  | .nan _, _ => .nan false
  | _, _ => if Config.freeBool 0 then .nan false else .fin false 0 0

end Sys2Proof.Machine
end

