-- ==== Sys2Proof/Machine/Reduce.lean ====
section
/-! DEFINITION. Reductions at the home and in the network: untagged and tagged packets, rounds, trees and
the spill area (R172 to R176). -/

namespace Sys2Proof.Machine

/-- The granules a mask names of a 128-byte line. -/
def granules (gmask : Nat) : List Nat := bitsSet 8 gmask

/-- 16 bytes of a line. -/
def granule (d : List Byte) (g : Nat) : List Byte := (d.drop (16 * g)).take 16

/-- A reduction's value: the granules it updates, and a line of data. -/
abbrev RedVal := Nat × List Byte

/-- Combine two values: granules of both are reduced, granules of one pass (R173, R174). -/
def redCombine (rop fmt : Nat) (a b : RedVal) : RedVal :=
  (Nat.lor a.1 b.1, (List.range 8).flatMap fun g =>
    match bit a.1 g, bit b.1 g with
    | true, true => reduceBytes rop fmt (granule b.2 g) (granule a.2 g)
    | false, true => granule b.2 g
    | _, _ => granule a.2 g)

/-- Whether a reduction's order can change its result: floating-point adds and INT8 saturating adds (R173). -/
def orderCounts (rop : Nat) : Bool := rop = 1

/-- Apply one value to its line at the home (R172): into a poisoned line it is not applied (R178). -/
def redApply (s : State) (b : By) (ln rop fmt : Nat) (v : RedVal) : State :=
  if linePoisoned s ln then s
  else
    each s (granules v.1) fun s g =>
      let pa := ln * 128 + 16 * g
      homeWrite s b pa (reduceBytes rop fmt (granule v.2 g) (memBytes s pa 16))

/-- An untagged reduction: applied in arrival order; order-dependent sources are recorded (R173, R305). -/
def redUntagged (s : State) (b : By) (ln rop fmt : Nat) (v : RedVal) : State :=
  let s := redApply s b ln rop fmt v
  if orderCounts rop then noteSource s b ln else s

/-! ## Trees (R174) -/

/-- Pair neighbours: one level of the balanced binary tree. -/
def pairUp (rop fmt : Nat) : List RedVal → List RedVal
  | [] => []
  | [a] => [a]
  | a :: b :: r => redCombine rop fmt a b :: pairUp rop fmt r

/-- The balanced binary tree over values in leaf order (portable class). -/
def balanced (rop fmt : Nat) : Nat → List RedVal → Option RedVal
  | 0, l => l.head?
  | _ + 1, [] => none
  | _ + 1, [a] => some a
  | n + 1, l => balanced rop fmt n (pairUp rop fmt l)

/-- A leaf's or router's value with the rest of its route from the home side. -/
structure Arriving where
  path : List (Nat × Nat)
  node : Nat
  val : RedVal

/-- Ports of a list of routes' first hops, ascending, each once. -/
def portsOf (as : List Arriving) : List Nat :=
  sortBy id ((as.filterMap fun a => a.path.head?.map Prod.snd).foldl (fun ks p => if ks.contains p then ks else ks ++ [p]) [])

/-- The router tree: at each router a value it already summed, else its input ports in ascending order, left to
right (strict class). -/
def routed (rop fmt : Nat) : Nat → List Arriving → Option RedVal
  | 0, as => (as.map Arriving.val).head?
  | n + 1, as =>
    match as with
    | [] => none
    | [a] => some a.val
    | as =>
      let ended := as.filter fun a => a.path.isEmpty
      match ended with
      | a :: _ => some a.val
      | [] =>
        (portsOf as).foldl (fun acc p =>
          let sub := (as.filter fun a => a.path.head?.map Prod.snd = some p).map fun a => { a with path := a.path.drop 1 }
          match acc, routed rop fmt n sub with
          | none, v => v
          | some x, some y => some (redCombine rop fmt x y)
          | some x, none => some x) none

/-- The route of a node to a home: a leaf's whole route, or a router's up to itself. -/
def nodePath (leaves : List Nat) (node slice : Nat) : List (Nat × Nat) :=
  if node < 128 then Config.routerPath node slice
  else
    match (leaves.map fun l => Config.routerPath l slice).find? fun p => p.any fun h => h.1 = node - 128 with
    | some p => p.takeWhile fun h => h.1 ≠ node - 128
    | none => []

/-- Whether a node's value covers a leaf: the leaf itself, or a router on its route. -/
def coversLeaf (node leaf slice : Nat) : Bool :=
  if node < 128 then node = leaf else (Config.routerPath leaf slice).any fun h => h.1 = node - 128

/-- The root sum of a round from the values that arrived, in the class's tree (R174). -/
def rootSum (s : State) (t : RedTag) (r : RedRound) : Option RedVal :=
  let slice := homeOf s (r.line * 128)
  if t.cls = 1 then balanced r.rop r.fmt 8 ((sortBy Prod.fst r.vals).map Prod.snd)
  else
    routed r.rop r.fmt 32 (r.vals.map fun v => { path := nodePath t.leaves v.1 slice, node := v.1, val := v.2 })

/-- Whether a line still has a reduction pending, for its RP mark (R176). -/
def redPending (s : State) (ln : Nat) : Bool := s.homes.rounds.any fun r => r.line = ln

/-- Set or clear a line's RP mark after a change of its rounds (R176). -/
def markRp (s : State) (ln : Nat) : State :=
  if redPending s ln then modLine s ln fun l => if l.st = .I then l else { l with rp := true }
  else modLine s ln fun l => if l.st = .I then l else { l with rp := false }

/-- Key of a line under a tag. -/
def tagKey (tag ln : Nat) : Nat := tag * 2 ^ 41 + ln

/-- Apply a round's root sum with one further operation and count the round (R174). -/
def applyRound (s : State) (t : RedTag) (r : RedRound) : State :=
  let s := modHomes s fun h => { h with
    rounds := h.rounds.filter fun x => x ≠ r
    applied := tmod h.applied (tagKey r.tag r.line) 0 fun n => n + 1 }
  let b : By := { who := .ctx r.ctx (ctxPart s r.ctx.toNat), agent := agentDispatcher }
  let s := match rootSum s t r with
    | some v => redApply s b r.line r.rop r.fmt v
    | none => s
  markRp s r.line

/-- Every leaf of the tag is covered by a round's values. -/
def roundFull (s : State) (t : RedTag) (r : RedRound) : Bool :=
  let slice := homeOf s (r.line * 128)
  t.leaves.all fun l => r.vals.any fun v => coversLeaf v.1 l slice

/-- Position of the first element equal to `x`. -/
def indexOf (x : Nat) (l : List Nat) : Nat := l.findIdx fun y => y = x

/-- A full reduction store of 2,048 line-sized entries writes a value to the tag's spill area (R175). -/
def spillValue (s : State) (t : RedTag) (ln node : Nat) (d : List Byte) : State :=
  let slice := homeOf s (ln * 128)
  let used := (s.homes.rounds.filter fun r => homeOf s (r.line * 128) = slice).foldl (fun n r => n + r.vals.length) (0 : Nat)
  if used < 2048 then s
  else
    let leaf := (t.leaves.filter fun l => coversLeaf node l slice).headD 0
    let va := t.spill + 128 * (indexOf leaf t.leaves * t.lines.length + indexOf ln t.lines)
    match heldOf s t.ctx.toNat va with
    | some l => homeWrite s { who := .sys, agent := 256 } (outAddr l va) d
    | none => s

/-- A tagged packet at its home (R174, R175). -/
def redTagged (s : State) (b : By) (h : RedHdr) (data : List Byte) : State :=
  let ln := h.line.toNat
  let tag := h.tag.toNat
  match tfind s.homes.tags tag with
  | none => s
  | some t =>
    let v : RedVal := (h.gmask.toNat, data)
    if t.cls ≥ 2 then redApply s b ln h.rop.toNat h.fmt.toNat v
    else
      let s := present s b ln
      let s := spillValue s t ln h.node.toNat data
      let key (r : RedRound) : Bool := r.line = ln && r.tag = tag && r.round = h.round.toNat
      let s := modHomes s fun x =>
        if x.rounds.any key then
          { x with rounds := x.rounds.map fun r => if key r then { r with vals := r.vals ++ [(h.node.toNat, v)] } else r }
        else
          { x with rounds := x.rounds ++ [{ line := ln, tag := tag, round := h.round.toNat, rop := h.rop.toNat,
                                            fmt := h.fmt.toNat, ctx := h.ctx, vals := [(h.node.toNat, v)] }] }
      match (s.homes.rounds.filter key).head? with
      | some r => if roundFull s t r then applyRound s t r else markRp s ln
      | none => s

/-- A reduction reaches its home (R173, R174). -/
def homeReduce (s : State) (b : By) (h : RedHdr) (data : List Byte) : State :=
  if h.tag = 0 then redUntagged s b h.line.toNat h.rop.toNat h.fmt.toNat (h.gmask.toNat, data) else redTagged s b h data

/-- When a launch ends, its tag's incomplete rounds are completed over the leaves that arrived, oldest round
first (R175). -/
def completeTag (s : State) (tag : Nat) : State :=
  match tfind s.homes.tags tag with
  | none => s
  | some t => each s (sortBy RedRound.round (s.homes.rounds.filter fun r => r.tag = tag)) fun s r => applyRound s t r

/-- Packets waiting in a router's combining store for a line and tag. -/
def routerRound (s : State) (router ln tag : Nat) : List RedRound :=
  (tget s.homes.routers router []).filter fun r => r.line = ln && r.tag = tag

def hdrOf (r : RedRound) (node : Nat) (gmask : Nat) : RedHdr :=
  { line := BitVec.ofNat 41 r.line
    tag := BitVec.ofNat 12 r.tag
    rop := BitVec.ofNat 3 r.rop
    fmt := BitVec.ofNat 6 r.fmt
    round := BitVec.ofNat 16 r.round
    node := BitVec.ofNat 8 node
    ctx := r.ctx
    gmask := BitVec.ofNat 8 gmask }

/-- Drop a round from a router's store. -/
def dropRouter (s : State) (router : Nat) (r : RedRound) : State :=
  modHomes s fun h => { h with routers := tadj h.routers router fun l => l.filter fun x => x ≠ r }

/-- Forward a router's held packets unchanged (R174). -/
def routerFlush (s : State) (router : Nat) (r : RedRound) : State :=
  emits (dropRouter s router r) (r.vals.map fun v => .red (hdrOf r v.1 v.2.1) v.2.2)

/-- A packet at a router: a strict-class tagged packet waits until every child of the node is present, and is
then combined; every other packet goes on unchanged (R173, R174). -/
def atRouter (s : State) (router : Nat) (h : RedHdr) (data : List Byte) : State :=
  let tag := h.tag.toNat
  let ln := h.line.toNat
  match tfind s.homes.tags tag, (h.tag = 0 : Bool) with
  | some t, false =>
    if t.cls ≠ 0 then emit s (.red h data)
    else
      let key (r : RedRound) : Bool := r.line = ln && r.tag = tag && r.round = h.round.toNat
      let v := (h.node.toNat, h.gmask.toNat, data)
      let held := tget s.homes.routers router []
      let held :=
        if held.any key then held.map fun r => if key r then { r with vals := r.vals ++ [v] } else r
        else held ++ [{ line := ln, tag := tag, round := h.round.toNat, rop := h.rop.toNat, fmt := h.fmt.toNat,
                        ctx := h.ctx, vals := [v] }]
      let s := modHomes s fun x => { x with routers := tput x.routers router held }
      match (held.filter key).head? with
      | none => s
      | some r =>
        let slice := homeOf s (ln * 128)
        let under := t.leaves.filter fun l => (Config.routerPath l slice).any fun p => p.1 = router
        if under.all fun l => r.vals.any fun v => coversLeaf v.1 l slice then
          let sub := r.vals.map fun v =>
            { path := (nodePath t.leaves v.1 slice).dropWhile (fun p => p.1 ≠ router), node := v.1, val := v.2 : Arriving }
          match routed r.rop r.fmt 32 sub with
          | some w => emit (dropRouter s router r) (.red (hdrOf r (128 + router) w.1) w.2)
          | none => s
        else s
  | _, _ => emit s (.red h data)

/-- REDUCTION_PACKET (R173): a packet reaches a router, or its home, which checks its context (R192). -/
def execReductionPacket (router : Option (BitVec 7)) (h : RedHdr) (src : W16) (agent : BitVec 9) (data : List Byte)
    (s : State) : Result :=
  .next <|
    if !domainUp s then s
    else
      match router with
      | some r => atRouter s r.toNat h data
      | none =>
        let dev := if src.toNat = s.fabric.device then none else some src.toNat
        let who : Who := .ctx h.ctx (ctxPart s h.ctx.toNat)
        if paPass s who true (h.line.toNat * 128) then homeReduce s { who := who, agent := agent.toNat, dev := dev } h data
        else s

/-- COMBINE_WAIT_EXPIRY (R174): 64 cycles after the first child a router forwards its packets unchanged. -/
def execCombineWaitExpiry (router : BitVec 7) (line : BitVec 41) (tag : BitVec 12) (s : State) : Result :=
  .next (each s (routerRound s router.toNat line.toNat tag.toNat) fun s r => routerFlush s router.toNat r)

end Sys2Proof.Machine
end

