-- ==== Sys2Proof/Machine/Tile.lean ====
section
/-! DEFINITION. Tile descriptors and TMOVE (R26, R37, R59, R60, R145 to R147, R209, R210, R222). -/

namespace Sys2Proof.Machine

/-! ## Descriptor registers -/

/-- The lane that issues for the group: the lowest running lane whose guard is true (R59). -/
def issuing (c : Iss) (guard : BitVec 4) : Option Nat := (active c guard).head?

def execTdset (x : Issuer) (f : RF) (s : State) : Result :=
  issue (.tdset x f) x 4 (fun s c =>
    match issuing c f.guard with
    | none => .go s
    | some l => .go (setTh s x (wrT c.th f.gd.toNat (rdG c.th l f.gb.toNat ++ rdG c.th l f.ga.toNat)))) s

def execTdgetl (x : Issuer) (f : RF) (s : State) : Result :=
  issueRegs (.tdgetl x f) x 4 f.guard (fun t l => wrG t l f.gd.toNat ((rdT t f.ga.toNat).setWidth 64)) s

def execTdgeth (x : Issuer) (f : RF) (s : State) : Result :=
  issueRegs (.tdgeth x f) x 4 f.guard (fun t l => wrG t l f.gd.toNat ((rdT t f.ga.toNat).extractLsb' 64 64)) s

/-! ## Footprints in memory -/

/-- The pages a tile in memory touches, as VA / 65536, ascending. -/
def footPages (t : TD) : List Nat :=
  if t.space then []
  else
    let a := tileVa t 0 / 65536
    let b := tileVa t (footLen t - 1) / 65536
    (List.range (b + 1 - a)).map fun i => a + i

/-- What translating a footprint comes to. -/
inductive FootRes where
  | ok (pages : List (Nat × Leaf))
  /-- the lowest faulting page: VA, reason, level -/
  | fault (va reason level : Nat)
  | poison (pa : Nat)
  /-- the lowest refused address -/
  | own (va : Nat)
deriving DecidableEq, Repr

/-- Translate each page of a list, stopping at the first that does not pass (R216). -/
def footWalk (s : State) (tr : State → Nat → State × XRes) : List Nat → State × FootRes
  | [] => (s, .ok [])
  | p :: r =>
    match tr s (p * 65536) with
    | (s, .fault reason level) => (s, .fault (p * 65536) reason level)
    | (s, .poison pa) => (s, .poison pa)
    | (s, .ok l) =>
      match footWalk s tr r with
      | (s, .ok ps) => (s, .ok ((p, l) :: ps))
      | (s, e) => (s, e)

/-- The lowest refused address of translated pages (R192, R431). -/
def footOwn (s : State) (who : Who) (write : Bool) (lo : Nat) (ps : List (Nat × Leaf)) : Option Nat :=
  ((ps.filter fun p => p.2.tgt = 0 && !paPass s who write (outAddr p.2 (p.1 * 65536))).head?).map fun p => max lo (p.1 * 65536)

/-- Translation of a page for an issuer, physical at monitor level (R202). -/
def pageFor (c : Iss) (acc : Acc) (s : State) (va : Nat) : State × XRes :=
  if !isTc c.x && c.level = .monitor then (s, .ok { oa := va, u := true, x := true, w := true, r := true })
  else translateFor s c va acc

/-- Translate and check a tile's footprint at queue time (R209). -/
def footOf (s : State) (c : Iss) (acc : Acc) (t : TD) : State × FootRes :=
  match footWalk s (pageFor c acc) (footPages t) with
  | (s, .ok ps) =>
    match footOwn s (byLane c 0).who (accWrites acc) (tileVa t 0) ps with
    | some va => (s, .own va)
    | none => (s, .ok ps)
  | r => r

/-- Where a virtual address goes under held pages. -/
def heldAddr (ps : List (Nat × Leaf)) (va : Nat) : Option (Leaf × Nat) :=
  (ps.find? fun p => p.1 = va / 65536).map fun p => (p.2, outAddr p.2 va)

/-- Cut `[va, va + n)` at multiples of `cut`. -/
def cutSpan (cut : Nat) : Nat → Nat → Nat → List (Nat × Nat)
  | 0, _, _ => []
  | fuel + 1, va, n =>
    if n = 0 then []
    else
      let k := min n (cut - va % cut)
      (va, k) :: cutSpan cut fuel (va + k) (n - k)

/-- The pieces of a tile in memory: offset in the row-major bytes, VA, length; cut at 256-byte accesses. -/
def tilePieces (t : TD) (cut : Nat) : List (Nat × Nat) :=
  (rowStarts t).flatMap fun off => cutSpan cut (rowLen t + 1) (tileVa t off) (rowLen t)

/-! ## TMOVE at issue -/

def tmovesOf (s : State) (x : Issuer) : List TMoveRec :=
  match x with
  | .tc d c slot => match getGroup s (coreKey d c) slot with | some g => g.tmoves | none => []
  | .cc n => (getCC s n).tmoves

def setTmoves (s : State) (x : Issuer) (ts : List TMoveRec) : State :=
  match x with
  | .tc d c slot => modGroup s (coreKey d c) slot fun g => { g with tmoves := ts }
  | .cc n => modCC s n fun c => { c with tmoves := ts }

def holdAll (s : State) (ctx : BitVec 12) (ps : List (Nat × Leaf)) : State := each s ps fun s p => holdPage s ctx p.1 p.2

/-- Send reads for the off-device pieces of a source. -/
def sendPieces (s : State) (c : Iss) (lane : Nat) (ps : List (Nat × Leaf)) : List (Nat × Nat) → State × List Nat × Option Nat
  | [] => (s, [], none)
  | (va, n) :: r =>
    match heldAddr ps va with
    | some (l, pa) =>
      if l.tgt = 0 then sendPieces s c lane ps r
      else if l.tgt = 3 && !reachable s l.hi.toNat then
        let s := if s.fabric.failed.contains l.hi.toNat then s else failPath s l.hi.toNat
        (pathMark s c.ctx.toNat l.hi.toNat, [], some va)
      else
        let b := byLane c lane
        let (s, id) := sendOut s {
          tgt := l.tgt
          dev := l.hi.toNat
          addr := if l.tgt = 3 then pa else l.hi.toNat * 2 ^ 48 + pa
          va := va
          kind := .tile
          who := c.x
          ctx := c.ctx
          agent := b.agent
          thread := b.thread
          size := n }
        let (s, ids, bad) := sendPieces s c lane ps r
        (s, id :: ids, bad)
    | none => sendPieces s c lane ps r

/-- TMOVE's checks before any byte moves (R26, R37, R117). -/
def tmoveOk (onTc : Bool) (rop : Nat) (src dst : TD) : Bool :=
  tdOk onTc false src && tdOk onTc true dst && src.fmt = dst.fmt && src.rows = dst.rows && src.cols = dst.cols &&
  (rop = 0 || (!dst.space && ropAllows rop dst.fmt))

/-- The first of two footprints' outcomes that R43 and R216 name. -/
def footFirst (s : State) (lane acc2 : Acc) (first : Nat) (lanes : W32) (a b : FootRes) : Option Eff :=
  match a, b with
  | .fault va r l, .fault va2 r2 l2 => if va ≤ va2 then some (.fault s lane first va r l) else some (.fault s acc2 first va2 r2 l2)
  | .fault va r l, _ => some (.fault s lane first va r l)
  | _, .fault va r l => some (.fault s acc2 first va r l)
  | .own va, .own va2 => some (.trap s cOwnership (min va va2) lanes)
  | .own va, _ => some (.trap s cOwnership va lanes)
  | _, .own va => some (.trap s cOwnership va lanes)
  | .poison pa, _ => some (.trap s cPoison pa lanes)
  | _, .poison pa => some (.trap s cPoison pa lanes)
  | _, _ => none

def footLeaves : FootRes → List (Nat × Leaf)
  | .ok ps => ps
  | _ => []

/-- The next number of a core's TMOVEs. -/
def tmNumber (s : State) (x : Issuer) : State × Nat :=
  match x with
  | .tc d c _ => (modCore s (coreKey d c) fun k => { k with tmNext := k.tmNext + 1 }, (getCore s (coreKey d c)).tmNext)
  | .cc n => (modCC s n fun c => { c with tmNext := c.tmNext + 1 }, (getCC s n).tmNext)

/-- TMOVE at issue (R37, R209): the footprints translate and check, the record enters the group's list. -/
def execTmove (x : Issuer) (f : TF) (s : State) : Result :=
  issue (.tmove x f) x 4 (fun s c =>
    match issuing c f.guard with
    | none => .go s
    | some l =>
      let lanes := laneMask [l]
      let src := tdOf (rdT c.th f.ts.toNat)
      let dst := tdOf (rdT c.th f.td.toNat)
      if !tmoveOk (isTc x) f.rop.toNat src dst then .trap s cTileFormat c.word.toNat lanes
      else if (tmovesOf s x).length ≥ 32 then .stall s
      else
        let wacc := if f.rop = 0 then Acc.write else Acc.atomic
        let (s, a) := footOf s c .read src
        let (s, b) := footOf s c wacc dst
        match footFirst s .read wacc 1 lanes a b with
        | some e => e
        | none =>
          let sp := footLeaves a
          let dp := footLeaves b
          let s := holdAll (holdAll s c.ctx sp) c.ctx dp
          let (s, ids, bad) := sendPieces s c l sp (if src.space then [] else tilePieces src 256)
          match bad with
          | some va => .trap s cFabricPath va lanes
          | none =>
            let (s, n) := tmNumber s x
            let r : TMoveRec :=
              { id := n, td := rdT c.th f.td.toNat, ts := rdT c.th f.ts.toNat, rop := f.rop.toNat, lane := l, src := sp, dst := dp,
                ids := ids }
            .go (setTmoves s x (tmovesOf s x ++ [r]))) s

/-- TWAIT: hold until at most n of the group's TMOVEs are outstanding (R60). -/
def execTwait (x : Issuer) (f : TF) (s : State) : Result :=
  issue (.twait x f) x 4 (fun s c =>
    if (issuing c f.guard).isSome && f.n.toNat < (tmovesOf s x).length then .stall s else .go s) s

/-! ## TMOVE's reads and writes -/

/-- Bytes of a returned piece that holds an address range. -/
def gotBytes (got : List (Nat × List Byte)) (va n : Nat) : List Byte :=
  match got.find? fun g => g.1 ≤ va && va + n ≤ g.1 + g.2.length with
  | some g => (g.2.drop (va - g.1)).take n
  | none => List.replicate n 0

/-- Read pieces of a source in memory: state, bytes in order, and the first poisoned line. -/
def readPieces (s : State) (b : By) (ps : List (Nat × Leaf)) (got : List (Nat × List Byte)) (own : List PStore) :
    List (Nat × Nat) → State × List Byte × Option Nat
  | [] => (s, [], none)
  | (va, n) :: r =>
    match heldAddr ps va with
    | some (l, pa) =>
      if l.tgt = 0 then
        let (s, bs, poison) := homeRead s b pa n
        let (s, rest, bad) := readPieces s b ps got own r
        (s, overlay pa bs own ++ rest, if poison then some (va / 128 * 128) else bad)
      else
        let (s, rest, bad) := readPieces s b ps got own r
        (s, gotBytes got va n ++ rest, bad)
    | none =>
      let (s, rest, bad) := readPieces s b ps got own r
      (s, List.replicate n 0 ++ rest, bad)

/-- The bytes of a source tile, rows end to end. -/
def readTile (s : State) (x : Issuer) (b : By) (t : TD) (ps : List (Nat × Leaf)) (got : List (Nat × List Byte)) :
    State × List Byte × Option Nat :=
  if t.space then
    let ls := (getCore s (tcKey x)).ls
    (s, (rowStarts t).flatMap fun off => mreadN ls (t.base + off) (rowLen t), none)
  else
    let own := match x with
      | .tc d c _ => (getCore s (coreKey d c)).port
      | .cc n => (getCC s n).sb
    readPieces s { b with stream := t.chint = 1 } ps got own (tilePieces t 128)

/-- Write pieces of a destination in memory under a copy: local ones at their homes, the others sent. -/
def writePieces (s : State) (x : Issuer) (ctx : BitVec 12) (b : By) (ps : List (Nat × Leaf)) :
    List (Nat × Nat) → List Byte → State × List Nat
  | [], _ => (s, [])
  | (va, n) :: r, bs =>
    match heldAddr ps va with
    | some (l, pa) =>
      if l.tgt = 0 then writePieces (homeWrite s b pa (bs.take n)) x ctx b ps r (bs.drop n)
      else
        let (s, id) := sendOut s {
          tgt := l.tgt
          dev := l.hi.toNat
          addr := if l.tgt = 3 then pa else l.hi.toNat * 2 ^ 48 + pa
          va := va
          kind := .tileW
          who := x
          ctx := ctx
          agent := b.agent
          thread := b.thread
          size := n
          data := bs.take n }
        let (s, ids) := writePieces s x ctx b ps r (bs.drop n)
        (s, id :: ids)
    | none => writePieces s x ctx b ps r (bs.drop n)

/-- A source element's place in its line's reduction value: the neutral element of an add fills the rest of a
granule that a row ends in. -/
def neutral (fmt : Nat) : List Byte :=
  match fmt with
  | 0 => [0, 0, 0, 0x80]
  | 1 => [0, 0x80]
  | 2 => [0, 0x80]
  | _ => [0]

def padTo16 (fmt : Nat) (bs : List Byte) : List Byte :=
  let need := (16 - bs.length % 16) % 16
  bs ++ ((List.replicate need (neutral fmt)).flatten).take need

/-- Merge a piece of a row into its line's reduction value. -/
def redMerge (fmt : Nat) (t : Tab RedVal) (pa : Nat) (bs : List Byte) : Tab RedVal :=
  let bs := padTo16 fmt bs
  let g0 := pa % 128 / 16
  tmod t (pa / 128) (0, List.replicate 128 0) fun v =>
    (Nat.lor v.1 ((2 ^ (bs.length / 16) - 1) * 2 ^ g0), v.2.take (16 * g0) ++ bs ++ v.2.drop (16 * g0 + bs.length))

/-- Perform the reductions of a destination in memory: untagged element by element at the homes, tagged adds as
packets of this leaf's next round (R147, R172 to R174). Off-device pieces go as RED. -/
def reducePieces (s : State) (x : Issuer) (ctx : BitVec 12) (b : By) (tag rop fmt : Nat) (ps : List (Nat × Leaf)) :
    List (Nat × Nat) → List Byte → Tab RedVal → State × List Nat × Tab RedVal
  | [], _, acc => (s, [], acc)
  | (va, n) :: r, bs, acc =>
    match heldAddr ps va with
    | some (l, pa) =>
      if l.tgt = 0 then
        if tag ≠ 0 && rop = 1 then reducePieces s x ctx b tag rop fmt ps r (bs.drop n) (redMerge fmt acc pa (bs.take n))
        else
          let s :=
            if linePoisoned s (pa / 128) then s
            else homeWrite s b pa (reduceBytes rop fmt (bs.take n) (memBytes s pa n))
          let s := if orderCounts rop then noteSource s b (pa / 128) else s
          reducePieces s x ctx b tag rop fmt ps r (bs.drop n) acc
      else
        let (s, id) := sendOut s {
          tgt := l.tgt
          dev := l.hi.toNat
          addr := if l.tgt = 3 then pa else l.hi.toNat * 2 ^ 48 + pa
          va := va
          kind := .red
          who := x
          ctx := ctx
          agent := b.agent
          thread := b.thread
          size := n
          opx := flds [(8, rop), (2, fmt)]
          data := bs.take n }
        let (s, ids, acc) := reducePieces s x ctx b tag rop fmt ps r (bs.drop n) acc
        (s, id :: ids, acc)
    | none => reducePieces s x ctx b tag rop fmt ps r (bs.drop n) acc

/-- Send a leaf's tagged values to their homes, each as its next round on the line (R172, R174). -/
def sendTagged (s : State) (x : Issuer) (ctx : BitVec 12) (b : By) (tag rop fmt : Nat) : List (Nat × RedVal) → State
  | [] => s
  | (ln, v) :: r =>
    let k := tcKey x
    let key := tagKey tag ln
    let n := tget (getCore s k).rounds key 0
    let s := modCore s k fun c => { c with rounds := tput c.rounds key ((n + 1) % 65536) }
    let h : RedHdr :=
      { line := BitVec.ofNat 41 ln
        tag := BitVec.ofNat 12 tag
        rop := BitVec.ofNat 3 rop
        fmt := BitVec.ofNat 6 fmt
        round := BitVec.ofNat 16 n
        node := BitVec.ofNat 8 k
        ctx := ctx
        gmask := BitVec.ofNat 8 v.1 }
    sendTagged (homeReduce s b h v.2) x ctx b tag rop fmt r

/-- Write a tile's rows into the local store. -/
def writeLs (m : Memory) (t : TD) : List Nat → List Byte → Memory
  | [], _ => m
  | off :: r, bs => writeLs (mwriteN m (t.base + off) (bs.take (rowLen t))) t r (bs.drop (rowLen t))

/-- Lines of a footprint leave the core's constant cache once a tile write completes, so that later loads of
the core see it (R60; assumption 12). -/
def dropLines (s : State) (x : Issuer) (t : TD) (ps : List (Nat × Leaf)) : State :=
  match x with
  | .tc d c _ =>
    let lines := (tilePieces t 128).filterMap fun p => (heldAddr ps p.1).map fun q => q.2 / 128
    modCore s (coreKey d c) fun k => { k with ccache := tfilter k.ccache fun ln _ => !lines.contains ln }
  | .cc _ => s

/-- Identity of an issuer's engine for the homes. -/
def engineBy (s : State) (x : Issuer) (lane : Nat) : By × BitVec 12 × Nat :=
  match x with
  | .tc d c slot =>
    match getGroup s (coreKey d c) slot with
    | some g => ({ who := .ctx g.ctx (ctxPart s g.ctx.toNat), agent := agentTC (coreKey d c), thread := 32 * slot.val + lane },
        g.ctx, g.tag)
    | none => ({ who := .sys, agent := agentTC (coreKey d c) }, 0, 0)
  | .cc n =>
    let c := getCC s n
    ({ who := if c.level = .monitor then .sys else .ctx c.ctx (partOfCC s n), agent := agentCC n }, c.ctx, 0)

/-- The writes of a TMOVE from its source bytes: what it sent off the device. -/
def tmoveWrite (s : State) (x : Issuer) (r : TMoveRec) (bs : List Byte) : State × List Nat :=
  let dst := tdOf r.td
  let (b, ctx, tag) := engineBy s x r.lane
  let b := { b with stream := dst.chint = 1 }
  if dst.space then
    (modCore s (tcKey x) fun c => { c with ls := writeLs c.ls dst (rowStarts dst) bs }, [])
  else if r.rop = 0 then writePieces s x ctx b r.dst (tilePieces dst 128) bs
  else
    let (s, ids, acc) := reducePieces s x ctx b tag r.rop dst.fmt r.dst (tilePieces dst 128) bs []
    (sendTagged s x ctx b tag r.rop dst.fmt acc, ids)

/-- Raise a hardware cause of an engine's instruction at the issuer's present instruction. -/
def engineTrap (s : State) (x : Issuer) (cause va : Nat) (lane : Nat) : State :=
  match x with
  | .tc d c slot =>
    let k := coreKey d c
    match getGroup s k slot with
    | none => s
    | some g =>
      let pc := match topRun g.stack with
        | some e => e.pc
        | none => match g.stack with | e :: _ => e.pc | [] => g.exitPc
      trapGroup s k slot cause (BitVec.ofNat 64 va) pc (laneMask [lane])
  | .cc n => modCC s n fun c => takeTrap c cause (BitVec.ofNat 64 va) c.pc

/-- Drop a TMOVE's record and release its pages (R210); a group with nothing left may end (R47). -/
def tmoveDone (s : State) (x : Issuer) (k : Nat) (r : TMoveRec) : State :=
  let (_, ctx, _) := engineBy s x 0
  let s := setTmoves s x (dropNth (tmovesOf s x) k)
  let s := releasePages s ctx ((r.src ++ r.dst).map Prod.fst)
  match x with
  | .tc d c slot => endCheck (engineGone s (coreKey d c) r.id) (coreKey d c) slot
  | .cc n => engineGone s (128 + n) r.id

/-- A line of a tile in local memory is locked, or a reservation defers the engine's writes to it (R141, R244). -/
def tileDeferred (s : State) (b : By) (t : TD) (ps : List (Nat × Leaf)) : Bool :=
  !t.space && (tilePieces t 128).any fun p =>
    match heldAddr ps p.1 with
    | some (l, pa) => l.tgt = 0 && lineDeferred s b.key (pa / 128)
    | none => false

/-- TMOVE_COMPLETE (R145): the `k`-th outstanding TMOVE reads its source and writes its destination; with part
of it off the device, it completes when every response is in. A write that a line defers waits. -/
def execTmoveComplete (x : Issuer) (k : Nat) (s : State) : Result :=
  .next <|
    match (tmovesOf s x)[k]? with
    | none => s
    | some r =>
      if !running s then s
      else
        match r.bad with
        | some (cause, va) => engineTrap (tmoveDone s x k r) x cause va r.lane
        | none =>
          if !r.ids.isEmpty then s
          else if r.wrote then tmoveDone (dropLines s x (tdOf r.td) r.dst) x k r
          else
            let (b, _, _) := engineBy s x r.lane
            if tileDeferred s b (tdOf r.td) r.dst then s
            else
              let (s, bs, bad) := readTile s x b (tdOf r.ts) r.src r.got
              match bad with
              | some va => engineTrap (tmoveDone s x k r) x cPoison va r.lane
              | none =>
                let (s, ids) := tmoveWrite s x r bs
                if ids.isEmpty then tmoveDone (dropLines s x (tdOf r.td) r.dst) x k r
                else failUnsent (setTmoves s x (setNth (tmovesOf s x) k { r with wrote := true, ids := ids })) ids

end Sys2Proof.Machine
end

