-- ==== Sys2Proof/Machine/Matrix.lean ====
section
/-! DEFINITION. The matrix array: its queue, the checks at the queue, what each instruction does when it
starts and completes, current-hold and the ramp (R61, R74 to R97, R103 to R113, R377 to R379). An
instruction's reads and writes of the local store take place as it starts: the locks of R85 keep every other
access from seeing the difference. -/

namespace Sys2Proof.Machine

/-! ## Shapes, groups and tags -/

/-- K and N of a shape (table "Matrix shapes"). -/
def shapeK (sh : Nat) : Nat :=
  match sh with
  | 0 => 128
  | 1 => 256
  | 2 => 64
  | 3 => 256
  | 4 => 256
  | _ => 128
def shapeN (sh : Nat) : Nat :=
  match sh with
  | 1 => 256
  | 2 => 1024
  | _ => 512

/-- A format's group for the array: MXFP8 and MXINT8 do not mix (R81). -/
def matGroup (f : Nat) : Nat := if f = 15 then 10 else fmtGroup f

/-- Shapes a group allows (table "Format groups by shape"). -/
def groupAllows (g sh : Nat) : Bool :=
  match g with
  | 0 => sh = 5
  | 1 => sh < 3
  | 2 => sh < 4
  | 5 => sh < 4
  | 7 => sh < 4
  | 10 => sh < 4
  | _ => sh < 3 || sh = 4

/-- The tag part of a bank (R75). -/
structure BTag where
  shape : Nat
  grp : Nat
  triple : Nat
deriving DecidableEq, Repr

def tagOf (b : Bank) : BTag := { shape := b.shape, grp := b.grp, triple := b.triple }

/-- Tags, active mark and bindings: what the queue's checks look at (R90). -/
structure ASt where
  activeB : Bool
  a : BTag
  b : BTag
  sets : Tab W128

def aStOf (m : MArray) : ASt := { activeB := m.activeB, a := tagOf m.bankA, b := tagOf m.bankB, sets := m.sets }

/-- The state after one queued instruction has run. -/
def aStep (q : ASt) (m : MInstr) : ASt :=
  match m.kind with
  | .mload =>
    let t : BTag := { shape := m.shape, grp := matGroup (tdOf m.ta).fmt, triple := 0 }
    if m.shape = 5 then
      { q with activeB := false, a := { t with triple := 1 }, b := { t with triple := 2 } }
    else if q.activeB then { q with a := t } else { q with b := t }
  | .mswap => { q with activeB := !q.activeB }
  | .mstream => if m.zero then { q with sets := tput q.sets m.acc m.bound } else q
  | .mdrain => q

/-- The state the array will hold after every queued instruction (R90). -/
def aProject (m : MArray) : ASt := (m.queue.filter fun i => !i.started).foldl aStep (aStOf m)

/-! ## Checks at the queue (R77, R78, R81, R82, R91, R104) -/

/-- Dimensions of a weight tile. -/
def mloadDims (sh : Nat) (t : TD) : Bool :=
  match sh with
  | 3 => t.rows = 160 && t.cols ≤ 512
  | 5 => t.rows ≤ 128 && t.cols ≤ 512 && t.fmt = 0
  | _ => t.rows ≤ shapeK sh && t.cols ≤ shapeN sh

def mloadCause (sh : Nat) (t : TD) : Option Nat :=
  if !tdOk true false t || !t.space || !mloadDims sh t || (fmtMx t.fmt && t.rows % 32 ≠ 0) then some cTileFormat
  else if !groupAllows (matGroup t.fmt) sh then some cMatrixShape
  else none

/-- A bank's tag serves an input of a format under a shape (R75, R81). -/
def tagServes (q : ASt) (sh f : Nat) : Bool :=
  if sh = 5 then q.a.triple = 1 && q.b.triple = 2
  else
    let t := if q.activeB then q.b else q.a
    t.triple = 0 && t.shape = sh && (t.grp = matGroup f || t.grp = 15)

def mstreamCause (q : ASt) (sh : Nat) (zero : Bool) (acc : Nat) (t nb : TD) : Option Nat :=
  let bad := !tdOk true false t || !t.space || t.cols > shapeK sh || (sh = 5 && t.fmt ≠ 0)
  let badBind := zero && (!tdOk true true nb || !nb.space || nb.fmt ≠ 0 || nb.rows ≠ t.rows || nb.cols > shapeN sh)
  let badSet := !zero && (match tfind q.sets acc with
    | none => true
    | some b => t.rows > (tdOf b).rows || (tdOf b).cols > shapeN sh)
  if bad || badBind then some cTileFormat
  else if !groupAllows (matGroup t.fmt) sh || !tagServes q sh t.fmt || badSet then some cMatrixShape
  else none

def mdrainCause (q : ASt) (acc : Nat) (t : TD) : Option Nat :=
  if !tdOk true true t then some cTileFormat
  else
    match tfind q.sets acc with
    | none => some cMatrixShape
    | some b => if t.rows ≠ (tdOf b).rows || t.cols ≠ (tdOf b).cols then some cTileFormat else none

/-! ## Entering the queue -/

/-- Byte range of a tile in the local store. -/
def lsSpan (t : TD) : Nat × Nat := if t.space then (t.base, t.base + footLen t) else (0, 0)
def spansMeet (a b : Nat × Nat) : Bool := decide (a.1 < b.2) && decide (b.1 < a.2)

/-- Local-store footprints of an instruction: what it reads or writes. -/
def mSpans (m : MInstr) : List (Nat × Nat) :=
  match m.kind with
  | .mload => [lsSpan (tdOf m.ta)]
  | .mstream => [lsSpan (tdOf m.ta), lsSpan (tdOf m.bound)]
  | .mswap => []
  | .mdrain => [lsSpan (tdOf m.bound), lsSpan (tdOf m.ta)]

/-- TMOVEs outstanding on a core that write into some span. -/
def tmovesInto (c : Core) (spans : List (Nat × Nat)) : List Nat :=
  c.groups.flatMap fun g => (g.2.tmoves.filter fun r => spans.any fun sp => spansMeet sp (lsSpan (tdOf r.td))).map TMoveRec.id

/-- Put an instruction at the end of the queue (R61). -/
def enqueue (s : State) (k slot : Nat) (m : MInstr) : State :=
  let m := { m with before := tmovesInto (getCore s k) (mSpans m), id := (getCore s k).tmNext }
  let s := modCore s k fun c => { c with
    tmNext := c.tmNext + 1
    array := { c.array with queue := c.array.queue ++ [m] } }
  modGroup s k slot fun g => { g with matrix := g.matrix + 1 }

/-- The frame of a matrix instruction: one lane issues for the group (R59); a full queue stalls (R61). -/
def mIssue (i : Instr) (x : Issuer) (f : XF) (body : State → Iss → Nat → Eff) (s : State) : Result :=
  issue i x 4 (fun s c =>
    match issuing c f.guard with
    | none => .go s
    | some l => if (getCore s (tcKey x)).array.queue.length ≥ 16 then .stall s else body s c l) s

/-- The instruction as queued. -/
def mInstr (c : Iss) (f : XF) (kind : MKind) (bound : W128) (l : Nat) : MInstr :=
  { kind := kind, ta := rdT c.th f.ta.toNat, shape := f.shape.toNat, acc := f.acc.toNat, zero := f.zero = 1,
    bound := bound, slot := slotOf c.x, ctx := c.ctx, lane := l }

def execMload (x : Issuer) (f : XF) (s : State) : Result :=
  mIssue (.mload x f) x f (fun s c l =>
    match mloadCause f.shape.toNat (tdOf (rdT c.th f.ta.toNat)) with
    | some e => .trap s e c.word.toNat (laneMask [l])
    | none => .go (enqueue s (tcKey x) (slotOf x) (mInstr c f .mload 0 l))) s

def execMstream (x : Issuer) (f : XF) (s : State) : Result :=
  mIssue (.mstream x f) x f (fun s c l =>
    let q := aProject (getCore s (tcKey x)).array
    let nb := rdT c.th (12 + f.acc.toNat)
    let zero := f.zero = 1
    match mstreamCause q f.shape.toNat zero f.acc.toNat (tdOf (rdT c.th f.ta.toNat)) (tdOf nb) with
    | some e => .trap s e c.word.toNat (laneMask [l])
    | none =>
      let bound := if zero then nb else tget q.sets f.acc.toNat 0
      .go (enqueue s (tcKey x) (slotOf x) (mInstr c f .mstream bound l))) s

def execMswap (x : Issuer) (f : XF) (s : State) : Result :=
  mIssue (.mswap x f) x f (fun s c l => .go (enqueue s (tcKey x) (slotOf x) (mInstr c f .mswap 0 l))) s

def execMdrain (x : Issuer) (f : XF) (s : State) : Result :=
  mIssue (.mdrain x f) x f (fun s c l =>
    let q := aProject (getCore s (tcKey x)).array
    let t := tdOf (rdT c.th f.ta.toNat)
    match mdrainCause q f.acc.toNat t with
    | some e => .trap s e c.word.toNat (laneMask [l])
    | none =>
      let m := mInstr c f .mdrain (tget q.sets f.acc.toNat 0) l
      match footOf s c .write t with
      | (s, .fault va r level) => .fault s .write 2 va r level
      | (s, .own va) => .trap s cOwnership va (laneMask [l])
      | (s, .poison pa) => .trap s cPoison pa (laneMask [l])
      | (s, .ok ps) => .go (enqueue (holdAll s c.ctx ps) (tcKey x) (slotOf x) { m with pages := ps })) s

/-- MWAIT: hold until every matrix instruction of the group has completed (R60). -/
def execMwait (x : Issuer) (f : XF) (s : State) : Result :=
  issue (.mwait x f) x 4 (fun s c =>
    let busy := match getGroup s (tcKey x) (slotOf x) with
      | some g => g.matrix ≠ 0
      | none => false
    if (issuing c f.guard).isSome && busy then .stall s else .go s) s

/-! ## The weight set and the rows -/

/-- A row's bytes in the local store. -/
def lsRow (ls : Memory) (t : TD) (r : Nat) : List Byte := mreadN ls (t.base + r * t.stride) (rowLen t)

/-- Bank contents from a weight tile (R82, R104). -/
def bankOf (ls : Memory) (sh : Nat) (t : TD) : Bank :=
  let rows := (List.range t.rows).map fun r => (r, lsRow ls t r)
  let vals := if sh = 3 then rows.take 128 else rows
  let put (w : Tab Nat) (k n v : Nat) : Tab Nat := if v = 0 then w else tput w (1024 * k + n) v
  let cols := List.range t.cols
  let w := vals.foldl (fun w p => cols.foldl (fun w n => put w p.1 n (elemAt t.fmt p.2 n)) w) []
  let scale :=
    if fmtMx t.fmt then
      vals.foldl (fun w p => (List.range (t.cols / 32)).foldl (fun w j =>
        tput w (1024 * (p.1 / 32) + 32 * j + p.1 % 32) (scaleAt t p.2 j)) w) []
    else []
  let index :=
    if sh = 3 then
      (List.range 128).foldl (fun w v => cols.foldl (fun w n =>
        let byte := ((nth rows (128 + v / 4) (0, [])).2.getD n 0).toNat
        put w v n (byte / 4 ^ (v % 4) % 4)) w) []
    else []
  { shape := sh, grp := matGroup t.fmt, triple := 0, fmt := t.fmt, w := w, scale := scale, index := index }

/-- Load a weight set: into the shadow bank, or under shape 5 the high parts into A and the low parts into B,
with A active (R82, R83). -/
def loadBank (m : MArray) (ls : Memory) (sh : Nat) (t : TD) : MArray :=
  let b := bankOf ls sh t
  if sh = 5 then { m with activeB := false, bankA := { b with triple := 1 }, bankB := { b with triple := 2 } }
  else if m.activeB then { m with bankA := b } else { m with bankB := b }

/-- Input element `i` of a row: absent elements enter as zero (R82). -/
def inCode (t : TD) (row : List Byte) (i : Nat) : Nat := if i < t.cols then elemAt t.fmt row i else 0

/-- Input element and stored weight row of each product of output column `n` (R105). -/
def pairsOf (b : Bank) (sh n : Nat) : List (Nat × Nat) :=
  if sh = 3 then (List.range 128).map fun v => (4 * (v / 2) + tget b.index (1024 * v + n) 0, v)
  else (List.range (shapeK sh)).map fun k => (k, k)

/-- Product of an input element and a stored weight. -/
def cellTerm (b : Bank) (t : TD) (row : List Byte) (n : Nat) (p : Nat × Nat) : FVal :=
  termMul (elemVal t.fmt (inCode t row p.1)) (elemVal b.fmt (tget b.w (1024 * p.2 + n) 0))

/-- A block's exact sum multiplied by both of its scales (R102, R107). -/
def blockTerm (b : Bank) (t : TD) (row : List Byte) (n wb ib : Nat) (ts : List FVal) : FVal :=
  let sw := scaleVal (tget b.scale (1024 * wb + n) 0)
  let si := if 32 * ib < t.cols then scaleVal (scaleAt t row ib) else .fin false 1 0
  let sum : FVal := match exactSum ts with
    | .nan => .nan false
    | .inf neg => .inf neg
    | .fin v e => .fin (v < 0) v.natAbs e
  termMul (termMul sum sw) si

/-- The terms of one output (R105, R107, R110): products, or block sums of the MX groups; in the sparse shape a
term is the products of one input block (assumption 13). -/
def termsOf (m : MArray) (sh : Nat) (t : TD) (row : List Byte) (n : Nat) : List FVal :=
  let b := if m.activeB then m.bankB else m.bankA
  if sh = 5 then
    (List.range 128).flatMap fun k =>
      let x := inCode t row k
      let wa := tget m.bankA.w (1024 * k + n) 0
      let wb := tget m.bankB.w (1024 * k + n) 0
      [termMul (tripleHi x) (tripleHi wa), termMul (tripleLo x) (tripleHi wa), termMul (tripleHi x) (tripleLo wb)]
  else if fmtMx t.fmt then
    let per := if sh = 3 then 16 else 32
    let ps := pairsOf b sh n
    (List.range (ps.length / per)).map fun j =>
      let ts := ((ps.drop (per * j)).take per).map (cellTerm b t row n)
      blockTerm b t row n (if sh = 3 then j / 2 else j) j ts
  else (pairsOf b sh n).map (cellTerm b t row n)

/-- One row of results under the accumulator row it updates (R77, R78, R106, R107). -/
def streamRow (m : MArray) (sh : Nat) (zero : Bool) (t : TD) (row acc : List Byte) (cols : Nat) : List Byte :=
  let exact := 2 ≤ matGroup t.fmt && matGroup t.fmt ≤ 6
  (List.range cols).flatMap fun n =>
    let a := if zero then FVal.fin false 0 0 else fdecode fmtFP32 (leNat ((acc.drop (4 * n)).take 4))
    natLe 4 (arrayOut exact (termsOf m sh t row n) a)

/-- A row of a drained tile: elements converted, MX scales after them, and NaNs lost (R91, R112, R113). -/
def drainRow (f : Nat) (sat : Bool) (acc : List Byte) (cols : Nat) : List Byte × Nat :=
  let vs := (List.range cols).map fun n => fdecode fmtFP32 (leNat ((acc.drop (4 * n)).take 4))
  if fmtMx f then
    let blocks := (List.range (cols / 32)).map fun j => convBlock f ((vs.drop (32 * j)).take 32)
    (packElems (fmtBits f) (blocks.flatMap Prod.snd) ++ blocks.map fun b => BitVec.ofNat 8 b.1, 0)
  else (packElems (fmtBits f) (vs.map (convElem f sat)), (vs.filter (nanLost f)).length)

/-! ## The ceiling in force and current-hold (R377 to R379, R93) -/

def getRail (s : State) (r : Nat) : Rail := tget s.power.rails r {}

/-- Ceiling a die's own flags set (R377, R383). -/
def faultCeil (s : State) (d : Nat) : Nat := if (getDie s d).ageLimit || (getDie s d).avsFault then 12 else 16

/-- The ceiling in force of a core's array (R377). -/
def arrayCeil (s : State) (k : Nat) : Nat :=
  let d := k / 24
  [(getRail s d).ceil, (getRail s (4 + d)).ceil, s.power.ceil, (getDie s d).modeCeil, faultCeil s d, (getDie s d).thermal,
    (getCore s k).array.ramp].foldl min 16

/-- Density of gap cycle `g`, in tenths (R379). -/
def holdDensity (r g : Nat) : Nat := if g < 1250 then min r (10 - g / 125) else 0

/-- Hold rows run in the first `n` cycles of a gap. -/
def holdRows (r n : Nat) : Nat := ((List.range (min n 1250)).filter fun g => decide (g % 10 < holdDensity r g)).length

/-- The streamer starts a row: a gap of an unstated length ends, its hold rows counted, and a ramp begins where
the array was idle or tapering (R93 to R95, R378). -/
def rowsStart (s : State) (k rows : Nat) : State :=
  let m := (getCore s k).array
  let (s, i) := draw s
  let n := Config.freeNat i % 1250
  let r := if m.phase = .streaming then 10 * arrayCeil s k / 16 else m.taperR
  let (ramp, holds) := match m.phase with
    | .idle => (4, 0)
    | _ => if n = 0 then (m.ramp, 0) else (max 4 (16 * holdDensity r (n - 1) / 10), holdRows r n)
  modCore s k fun c => { c with array := { c.array with
    phase := .streaming
    ramp := ramp
    rows := c.array.rows + rows
    holds := c.array.holds + holds } }

/-! ## Starting (R87, R88) -/

def engineOf : MKind → Nat
  | .mload => 0
  | .mstream => 1
  | .mswap => 1
  | .mdrain => 2

/-- What an instruction writes in the local store. -/
def mWrites (m : MInstr) : List (Nat × Nat) :=
  match m.kind with
  | .mstream => [lsSpan (tdOf m.bound)]
  | .mdrain => [lsSpan (tdOf m.ta)]
  | _ => []

/-- Whether an older instruction writes what this one needs; streams into one set are ordered by R79. -/
def mNeeds (m o : MInstr) : Bool :=
  let mine := match m.kind, o.kind with
    | .mstream, .mstream => if m.acc = o.acc then [lsSpan (tdOf m.ta)] else mSpans m
    | _, _ => mSpans m
  (mWrites o).any fun w => mine.any fun sp => spansMeet w sp

/-- Operands present (R87). -/
def operandsPresent (c : Core) (older : List MInstr) (m : MInstr) : Bool :=
  let out := c.groups.flatMap fun g => g.2.tmoves.map TMoveRec.id
  !(m.before.any fun i => out.contains i) && !(older.any fun o => mNeeds m o)

/-- The waits of R88's pseudocode; a completed instruction has left the queue. -/
def startWaits (older : List MInstr) (m : MInstr) : Bool :=
  match m.kind with
  | .mload =>
    older.all fun o => o.kind != .mswap && (o.kind != .mstream || o.started || (m.shape ≠ 5 && o.shape ≠ 5))
  | .mswap => older.all fun o => o.kind != .mload && (o.kind != .mstream || o.started)
  | .mstream =>
    older.all fun o => o.kind != .mswap && !(o.kind == .mload && o.shape = 5) && (o.kind != .mdrain || o.acc ≠ m.acc || o.started)
  | .mdrain => older.all fun o => o.kind != .mstream || o.acc ≠ m.acc

def canStart (c : Core) (m : MInstr) (k : Nat) : Bool :=
  let older := c.array.queue.take k
  !m.started && (older.all fun o => engineOf o.kind ≠ engineOf m.kind || o.started) && operandsPresent c older m &&
    startWaits older m

/-- Write whole rows into a tile of the local store. -/
def writeRows (ls : Memory) (t : TD) (rows : List (List Byte)) : Memory :=
  (rows.zipIdx).foldl (fun ls p => mwriteN ls (t.base + p.2 * t.stride) p.1) ls

/-- The rows of a tile in the local store. -/
def readRows (ls : Memory) (t : TD) (n : Nat) : List (List Byte) := (List.range n).map fun r => lsRow ls t r

/-- Overflow policy of a context (R118): saturating unless it is set otherwise. -/
def ctxSat (s : State) (ctx : Nat) : Bool := match getCtx s ctx with | some c => c.ovf = 0 | none => true

/-- What a starting instruction does to the array and the local store; the instruction as it then stands. -/
def startEffect (s : State) (k : Nat) (m : MInstr) : State × MInstr :=
  let c := getCore s k
  let t := tdOf m.ta
  let b := tdOf m.bound
  match m.kind with
  | .mload => (modCore s k fun c => { c with array := loadBank c.array c.ls m.shape t }, m)
  | .mswap => (modCore s k fun c => { c with array := { c.array with activeB := !c.array.activeB } }, m)
  | .mstream =>
    let old := readRows c.ls b t.rows
    let new := (List.range t.rows).map fun r => streamRow c.array m.shape m.zero t (lsRow c.ls t r) (nth old r []) b.cols
    let s := modCore s k fun c => { c with
      ls := writeRows c.ls b new
      array := if m.zero then { c.array with sets := tput c.array.sets m.acc m.bound } else c.array }
    let s := rowsStart s k t.rows
    (event s (k / 24) (unitId (k / 24) 2 (k % 24)) 0x401 m.ctx.toNat m.shape t.rows true, { m with old := old })
  | .mdrain =>
    let rows := (readRows c.ls b b.rows).map fun r => drainRow t.fmt (ctxSat s m.ctx.toNat) r b.cols
    let out := rows.map Prod.fst
    let s := modCore s k fun c => { c with
      array := { c.array with nans := c.array.nans + rows.foldl (fun n r => n + r.2) (0 : Nat) } }
    if t.space then
      (modCore s k fun c => { c with ls := writeRows c.ls t out }, { m with old := readRows c.ls t t.rows, out := out })
    else (s, { m with out := out })

def setQueue (s : State) (k : Nat) (q : List MInstr) : State :=
  modCore s k fun c => { c with array := { c.array with queue := q } }

/-- MATRIX_START (R88): the `i`-th queued instruction starts where its engine, operands and order allow. -/
def execMatrixStart (d : Fin 4) (c : Fin 24) (i : Nat) (s : State) : Result :=
  .next <|
    let k := coreKey d c
    match (getCore s k).array.queue[i]? with
    | none => s
    | some m =>
      if !running s || !canStart (getCore s k) m i then s
      else
        let (s, m) := startEffect s k m
        setQueue s k (setNth (getCore s k).array.queue i { m with started := true })

/-! ## Completing -/

/-- An instruction leaves the queue (R88). -/
def matrixDone (s : State) (k i : Nat) (m : MInstr) : State :=
  let s := setQueue s k (dropNth (getCore s k).array.queue i)
  let s := engineGone (releasePages s m.ctx (m.pages.map Prod.fst)) k m.id
  let s := modGroup s k m.slot fun g => { g with matrix := g.matrix - 1 }
  let s := match m.kind with
    | .mdrain => event s (k / 24) (unitId (k / 24) 2 (k % 24)) 0x402 m.ctx.toNat m.acc 0 true
    | .mstream =>
      if (getCore s k).array.queue.any fun o => o.kind == .mstream && o.started then s
      else
        let r := 10 * arrayCeil s k / 16
        modCore s k fun c => { c with array := { c.array with phase := .taper, taperR := r } }
    | _ => s
  endCheck s k m.slot

/-- MATRIX_COMPLETE (R88, R91): a started instruction completes; an MDRAIN to memory makes its writes, and
with part of them off the device completes when every response is in. -/
def execMatrixComplete (d : Fin 4) (c : Fin 24) (i : Nat) (s : State) : Result :=
  .next <|
    let k := coreKey d c
    match (getCore s k).array.queue[i]? with
    | none => s
    | some m =>
      if !running s || !m.started || !m.ids.isEmpty then s
      else
        let x := slotIssuer k m.slot
        match m.bad with
        | some (cause, va) => engineTrap (matrixDone s k i m) x cause va m.lane
        | none =>
          let t := tdOf m.ta
          if m.kind != .mdrain || t.space || m.wrote then
            matrixDone (if m.kind == .mdrain && !t.space then dropLines s x t m.pages else s) k i m
          else
            let (b, ctx, _) := engineBy s x m.lane
            if tileDeferred s b t m.pages then s
            else
              let (s, ids) := writePieces s x ctx { b with stream := t.chint = 1 } m.pages (tilePieces t 128) m.out.flatten
              if ids.isEmpty then matrixDone (dropLines s x t m.pages) k i m
              else failUnsent (setQueue s k (setNth (getCore s k).array.queue i { m with wrote := true, ids := ids })) ids

/-- HOLD_TAPER_END (R93): the taper's 1,250 gap cycles are over; the array is idle. -/
def execHoldTaperEnd (d : Fin 4) (c : Fin 24) (s : State) : Result :=
  .next <|
    let k := coreKey d c
    if (getCore s k).array.phase = .taper then
      modCore s k fun c => { c with array := { c.array with
        phase := .idle
        ramp := 16
        holds := c.array.holds + holdRows c.array.taperR 1250 } }
    else s

/-- RAMP_STEP (R378): 32 cycles later the ramp ceiling rises by 1. -/
def execRampStep (d : Fin 4) (c : Fin 24) (s : State) : Result :=
  .next (modCore s (coreKey d c) fun c => { c with array := { c.array with ramp := min 16 (c.array.ramp + 1) } })

/-! ## Reset and teardown (R75, R97) -/

/-- Assign a core's array to a context: the state of R75. -/
def arrayReset (s : State) (k : Nat) (owner : Option (BitVec 12)) : State :=
  modCore s k fun c => { c with array := { c.array with
    owner := owner
    activeB := false
    bankA := {}
    bankB := {}
    sets := []
    queue := [] } }

/-- A row of a stopped write: each element, and each scale, old or new (R97). -/
def mixRow (t : TD) (i : Nat) (old new : List Byte) : List Byte :=
  let pick (j : Nat) : Bool := Config.freeBool (i + j)
  let codes := (List.range t.cols).map fun j => elemAt t.fmt (if pick j then old else new) j
  let scales := (List.range (if fmtMx t.fmt then t.cols / 32 else 0)).map fun j =>
    BitVec.ofNat 8 (scaleAt t (if pick (t.cols + j) then old else new) j)
  packElems (fmtBits t.fmt) codes ++ scales

/-- Mix the rows of a stopped instruction. -/
def mixRows (s : State) (t : TD) : List (List Byte) → List (List Byte) → State × List (List Byte)
  | o :: os, n :: ns =>
    let row := mixRow t s.freeCtr o n
    let (s, rest) := mixRows { s with freeCtr := s.freeCtr + 2 * t.cols } t os ns
    (s, row :: rest)
  | _, _ => (s, [])

/-- Bytes of a row of a tile in memory as they stand, through its held pages. -/
def heldRow (s : State) (t : TD) (ps : List (Nat × Leaf)) (r : Nat) : List Byte :=
  (cutSpan 128 (rowLen t + 1) (tileVa t (r * t.stride)) (rowLen t)).flatMap fun p =>
    match heldAddr ps p.1 with
    | some (l, pa) => if l.tgt = 0 then memBytes s pa p.2 else List.replicate p.2 0
    | none => List.replicate p.2 0

/-- Stop a started instruction part way (R97). -/
def stopInstr (s : State) (k : Nat) (m : MInstr) : State :=
  if !m.started then s
  else
    let t := match m.kind with | .mstream => tdOf m.bound | _ => tdOf m.ta
    match m.kind with
    | .mload => s
    | .mswap => s
    | _ =>
      if t.space then
        let (s, rows) := mixRows s t m.old (readRows (getCore s k).ls t m.old.length)
        modCore s k fun c => { c with ls := writeRows c.ls t rows }
      else if m.wrote then s
      else
        let (s, rows) := mixRows s t ((List.range t.rows).map fun r => heldRow s t m.pages r) m.out
        let b : By := { who := .ctx m.ctx (ctxPart s m.ctx.toNat), agent := agentTC k, thread := 32 * m.slot + m.lane }
        let locals := m.pages.filter fun p => p.2.tgt = 0
        (writePieces s (slotIssuer k m.slot) m.ctx b locals (tilePieces t 128) rows.flatten).1

/-- The owning context is torn down or its launches squashed: queued instructions are discarded and the array
tapers as for any gap (R97). -/
def arrayStop (s : State) (k : Nat) : State :=
  let m := (getCore s k).array
  let s := each s m.queue fun s i => engineGone (releasePages (stopInstr s k i) i.ctx (i.pages.map Prod.fst)) k i.id
  let r := 10 * arrayCeil s k / 16
  modCore s k fun c => { c with array := { c.array with
    queue := []
    phase := if c.array.phase = .streaming then .taper else c.array.phase
    taperR := if c.array.phase = .streaming then r else c.array.taperR } }

end Sys2Proof.Machine
end

