-- ==== Sys2Proof/Machine/System.lean ====
section
/-! DEFINITION. System registers, calls and returns, interrupts, XINV, EPOCH and watched lines (R27, R28, R40 to
R44, R129, R223, R224, R278, R287, R322). -/

namespace Sys2Proof.Machine

/-! ## System registers (R40) -/

/-- The partition of a context, 255 for none. -/
def partOfCtx (s : State) (ctx : Nat) : Nat := match getCtx s ctx with | some c => c.part | none => 255

/-- The group GSEL names, for a control core: of the named context, and at supervisor level of its own
partition (table "System registers"). -/
def selected (s : State) (n : Nat) : Option (Nat × Nat × Group) :=
  let c := getCC s n
  let g := c.gsel.toNat
  let ctx := bits g 43 32
  let k := 24 * bits g 10 8 + bits g 6 0
  if bits g 10 8 > 3 || bits g 6 0 > 23 then none
  else
    match getGroup s k (bits g 22 16) with
    | none => none
    | some q =>
      if q.ctx.toNat = ctx && (c.level = .monitor || partOfCtx s ctx = partOfCC s n) then some (k, bits g 22 16, q) else none

/-- GSTATE: 3 for no such group; 1 or 2 once the image is complete (R70). -/
def gstateOf (s : State) (n : Nat) : Nat :=
  match selected s n with
  | none => 3
  | some (_, _, g) => match g.gstate with
    | .running => 0
    | .halted => 1
    | .trapped => 2

/-- A register of every core. -/
def sysCommon (s : State) (c : Iss) (lane num : Nat) : W64 :=
  match num with
  | 0 => match c.x with | .tc _ _ _ => BitVec.ofNat 64 lane | .cc _ => 0
  | 1 => match c.x with | .tc _ _ slot => BitVec.ofNat 64 slot | .cc _ => 0
  | 2 => match c.x with
    | .tc d k _ => BitVec.ofNat 64 (256 * d.val + k.val)
    | .cc n => BitVec.ofNat 64 (1024 + n.val)
  | 3 => c.ctx.setWidth 64
  | 4 => match c.x with | .tc d _ _ => (getDie s d).timer | .cc _ => sparTimer s
  | 5 => match getCtx s c.ctx.toNat with | some q => if q.nrflag then 1 else 0 | none => 0
  | _ => (rdF c.th lane).setWidth 64

/-- A register of a control core; GCTL is write-only and reads zero (R3). -/
def sysOfCC (s : State) (n num : Nat) : W64 :=
  let c := getCC s n
  match num with
  | 0x100 => c.tstat
  | 0x101 => c.tcause
  | 0x102 => c.tpc
  | 0x103 => c.tval
  | 0x104 => c.tvec
  | 0x105 => c.tscratch
  | 0x106 => c.xroot
  | 0x107 => c.gsel
  | 0x109 => BitVec.ofNat 64 (gstateOf s n)
  | 0x200 => c.mstat
  | 0x201 => c.mcause
  | 0x202 => c.mpc
  | 0x203 => c.mval
  | 0x204 => c.mvec
  | 0x205 => c.mscratch
  | 0x206 => c.mdeleg
  | _ => 0

def sysRead (s : State) (c : Iss) (lane num : Nat) : W64 :=
  if num < 0x100 then sysCommon s c lane num
  else match c.x with
    | .cc n => sysOfCC s n num
    | .tc _ _ _ => 0

/-- Write a register of a control core; res0 bits and the read-only bits of MDELEG stay zero. -/
def sysWriteCC (c : CCore) (num : Nat) (v : W64) : CCore :=
  let low (k : Nat) : W64 := BitVec.ofNat 64 (v.toNat % 2 ^ k)
  match num with
  | 0x100 => { c with tstat := low 5 }
  | 0x101 => { c with tcause := low 8 }
  | 0x102 => { c with tpc := v }
  | 0x103 => { c with tval := v }
  | 0x104 => { c with tvec := BitVec.ofNat 64 (v.toNat / 4 * 4) }
  | 0x105 => { c with tscratch := v }
  | 0x106 => { c with xroot := v }
  | 0x107 => { c with gsel := v &&& 0x00000FFF007F077F#64 }
  | 0x200 => { c with mstat := low 5 }
  | 0x201 => { c with mcause := low 8 }
  | 0x202 => { c with mpc := v }
  | 0x203 => { c with mval := v }
  | 0x204 => { c with mvec := BitVec.ofNat 64 (v.toNat / 4 * 4) }
  | 0x205 => { c with mscratch := v }
  | 0x206 => { c with mdeleg := v &&& ~~~(0x000000000003C000#64) }
  | _ => c

def execSrd (x : Issuer) (f : IF) (s : State) : Result :=
  issue (.srd x f) x 4 (fun s c =>
    .go (setTh s x (eachLane c.th (active c f.guard) fun t l => wrG t l f.gd.toNat (sysRead s c l f.imm.toNat)))) s

/-! ## Calls and returns (R28, R44) -/

/-- TRAP and BRK: each lane whose guard is true meets the cause; its value is the code in the gb field (R431). -/
def callBody (f : RF) (cause : Iss → Nat) (s : State) (c : Iss) : Eff :=
  match active c f.guard with
  | [] => .go s
  | ls => .trap s (cause c) f.gb.toNat (laneMask ls)

def execTrap (x : Issuer) (f : RF) (s : State) : Result :=
  issue (.trap x f) x 4 (callBody f fun c => if c.level = .user then cSyscall else cMonitorCall) s

def execBrk (x : Issuer) (f : RF) (s : State) : Result :=
  issue (.brk x f) x 4 (callBody f fun _ => cBreakpoint) s

/-- Return from a trap on control core `n`; a step armed for the return itself traps after it (R28, R43). -/
def returnCC (s : State) (n : Nat) (monitor : Bool) : State :=
  modCC s n fun c =>
    let r := returnFrom c monitor
    if c.armed then takeTrap r cStep 0 r.pc else r

def returnBody (f : RF) (monitor : Bool) (s : State) (c : Iss) : Eff :=
  match c.x, active c f.guard with
  | .cc n, _ :: _ => .stall (returnCC s n monitor)
  | _, _ => .go s

def execSret (x : Issuer) (f : RF) (s : State) : Result := issue (.sret x f) x 4 (returnBody f false) s
def execMret (x : Issuer) (f : RF) (s : State) : Result := issue (.mret x f) x 4 (returnBody f true) s

/-- WAITI: stall until an interrupt is pending (R42). -/
def execWaiti (x : Issuer) (f : RF) (s : State) : Result :=
  issue (.waiti x f) x 4 (fun s c =>
    match c.x, active c f.guard with
    | .cc n, _ :: _ => if (getCC s n).irq.isEmpty then .stall s else .go s
    | _, _ => .go s) s

/-! ## Interrupts (R42) -/

/-- Add a source to a core's pending list; one already there covers it. Sources past the 512th are the events
their senders hold, which enter in the same order as entries free. -/
def raiseIrq (s : State) (n source : Nat) : State :=
  modCC s n fun c => if c.irq.contains source then c else { c with irq := c.irq ++ [source] }

/-- A watch handle's interrupt is taken: its pending mark clears (R322). -/
def clearWatch (s : State) (h : Nat) : State :=
  modDisp s fun d => { d with watches := tadj d.watches h fun w => { w with pending := false } }

/-- INTERRUPT_TAKEN (R42): the oldest pending source is taken while interrupts are enabled. -/
def execInterruptTaken (n : Fin 96) (s : State) : Result :=
  .next <|
    let c := getCC s n
    match c.irq with
    | [] => s
    | src :: rest =>
      if ccReady s c && irqEnabled c then
        let s := setCC s n (takeTrap { c with irq := rest } cInterrupt (BitVec.ofNat 64 src) c.pc)
        if 0x1000 ≤ src && src < 0x5000 then clearWatch s (src - 0x1000) else s
      else s

/-- INTERRUPT (R42, R240): a control core receives a source. -/
def execInterrupt (n : Fin 96) (source : BitVec 24) (s : State) : Result :=
  .next (if halyard s then raiseIrq s n source.toNat else s)

/-! ## XINV (R223, R224) -/

/-- Pages an engine's work holds that an XINV names. -/
def pagesHit (gb ga : Nat) (ctx : BitVec 12) (ps : List (Nat × Leaf)) : Bool :=
  ps.any fun p => xinvHits gb ga (pageKey ctx.toNat (p.1 * 65536)) p.2.size

/-- TMOVEs and MDRAINs that hold a matching entry, each as its core and number. -/
def xinvWaits (s : State) (gb ga : Nat) : List (Nat × Nat) :=
  let ofCore (k : Nat) (c : Core) : List (Nat × Nat) :=
    (c.groups.flatMap fun g =>
      (g.2.tmoves.filter fun r => pagesHit gb ga g.2.ctx (r.src ++ r.dst)).map fun r => (k, r.id)) ++
    (c.array.queue.filter fun m => pagesHit gb ga m.ctx m.pages).map fun m => (k, m.id)
  (s.cores.flatMap fun p => ofCore p.1 p.2) ++
    s.ccs.flatMap fun p => (p.2.tmoves.filter fun r => pagesHit gb ga p.2.ctx (r.src ++ r.dst)).map fun r => (128 + p.1, r.id)

/-- XINV: one invalidation to every die; the record stays until each has reported. -/
def execXinv (x : Issuer) (f : RF) (s : State) : Result :=
  issue (.xinv x f) x 4 (fun s c =>
    match c.x, active c f.guard with
    | .cc n, _ :: _ =>
      let gb := (rdG c.th 0 f.gb.toNat).toNat % 8192
      let ga := (rdG c.th 0 f.ga.toNat).toNat
      let r : XinvRec := { gb := gb, ga := ga, dies := [0, 1, 2, 3, 4], waits := xinvWaits s gb ga }
      let s := modCC s n fun q => { q with xinv := q.xinv ++ [r] }
      .go (emits s ([0, 1, 2, 3, 4].map fun d => .invalidation d n gb ga))
    | _, _ => .go s) s

/-- Clear a die's caches of what an XINV names, and mark held entries dying (R223). -/
def clearXlat (s : State) (d gb ga : Nat) : State :=
  let s := modDie s d fun x => { x with xlat := xinvTab x.xlat gb ga, walks := xinvWalks x.walks gb }
  let s :=
    if d < 4 then
      { s with cores := tmap s.cores fun k c => if k / 24 = d then { c with micro := xinvTab c.micro gb ga } else c }
    else { s with ccs := tmap s.ccs fun _ c => { c with tlb := xinvTab c.tlb gb ga } }
  let mark (h : Held) : Held :=
    if xinvHits gb ga (pageKey h.ctx.toNat (h.page * 65536)) h.leaf.size then { h with dying := true } else h
  modXlat s fun x => { x with held := x.held.map mark }

/-- TRANSLATION_INVALIDATION (R240): a die clears its caches, and reports once its own engines hold nothing. -/
def execTranslationInvalidation (d : Fin 5) (n : Fin 96) (gb : BitVec 13) (ga : W64) (s : State) : Result :=
  .next <|
    if !halyard s then s
    else
      let s := clearXlat s d gb.toNat ga.toNat
      each s (((getCC s n).xinv).zipIdx) fun s q =>
        if q.1.gb = gb.toNat && q.1.ga = ga.toNat && !q.1.seen.contains d.val then
          let r := { q.1 with seen := q.1.seen ++ [d.val] }
          xinvReport (modCC s n fun c => { c with xinv := setNth c.xinv q.2 r }) d r
        else s

/-- The oldest XINV of a list that still awaits a die's report loses it; a complete one is forgotten. -/
def xinvDone (d ga : Nat) : List XinvRec → List XinvRec
  | [] => []
  | r :: rest =>
    if r.ga = ga && r.dies.contains d && r.seen.contains d && !(r.waits.any fun w => dieOfKey w.1 = d) then
      let r := { r with dies := r.dies.filter fun x => x ≠ d }
      if r.dies.isEmpty then rest else r :: rest
    else r :: xinvDone d ga rest

/-- WORK_DONE_INVALIDATION (R240): a die reports an XINV complete for its caches and engines. -/
def execWorkDoneInvalidation (d : Fin 5) (n : Fin 96) (ga : W64) (s : State) : Result :=
  .next (if halyard s then modCC s n fun c => { c with xinv := xinvDone d ga.toNat c.xinv } else s)

/-! ## EPOCH (R278, R287, R288) -/

/-- The epoch a request of a context joins, and the request: none where the context has no protected job. -/
def epochNumber (s : State) (ctx : Nat) : Option (JobSlot × Nat) :=
  match getCtx s ctx with
  | none => none
  | some c =>
    let sl := getSlot s c.slot
    if sl.protect = 0 then none else some (sl, sl.committed + 1)

/-- A control core whose job's commits it takes part in (0x7100 + j:14). -/
def inCommitSet (s : State) (n : Nat) : Bool :=
  match getCtx s (getCC s n).ctx.toNat with
  | some c => bit (getSlot s c.slot).cset n && (getSlot s c.slot).protect ≠ 0
  | none => false

/-- EPOCH: waits as BARF, requests the commit, and returns its number; a control core of the commit set goes no
further until the commit ends. -/
def execEpoch (x : Issuer) (f : RF) (s : State) : Result :=
  issue (.epoch x f) x 4 (fun s c =>
    let act := active c f.guard
    if act.isEmpty then .go s
    else
      match barStores s c act with
      | (_, some e) => e
      | (s, none) =>
        let busy := match c.x with | .cc n => !(getCC s n).xinv.isEmpty | .tc _ _ _ => false
        if busy then .stall s
        else
          match epochNumber s c.ctx.toNat with
          | none => .go (setTh s x (eachLane c.th act fun t l => wrG t l f.gd.toNat (BitVec.allOnes 64)))
          | some (sl, e) =>
            let s := setTh s x (eachLane c.th act fun t l => wrG t l f.gd.toNat (BitVec.ofNat 64 e))
            let s := emit s (.epoch (coordOf s sl) sl.job 1 0 e)
            .go (match c.x with
              | .cc n => if inCommitSet s n then modCC s n fun q => { q with inEpoch := true } else s
              | .tc _ _ _ => s)) s

/-! ## Watched lines (R322) -/

/-- The free handles of the device, none where all 16,384 are taken. -/
def freeHandles (s : State) : List Nat :=
  (List.range 16384).filter fun h => (tfind s.disp.watches h).isNone

/-- A free key of `n`: which one the specification leaves open (assumption 14). -/
def pickFree {α : Type} (t : Tab α) (n i : Nat) : Option Nat :=
  let k := Config.freeNat i % n
  match tfree t k (n - k) with
  | some j => some j
  | none => tfree t 0 k

/-- Take a handle on a line for a consumer; none where the partition has no quota left, the line holds four
handles, or no handle is free. -/
def takeHandle (s : State) (p line : Nat) (who : Consumer) (ctx : BitVec 12) : State × Option Nat :=
  let q := getPart s p
  let here := s.disp.watches.filter fun w => w.2.line = line
  if q.watches ≥ q.watchQuota || here.length ≥ 4 then (s, none)
  else
    let (s, i) := draw s
    match pickFree s.disp.watches 16384 i with
    | none => (s, none)
    | some h =>
      let s := modDisp s fun d => { d with watches := tput d.watches h { line := line, consumer := who, part := p, ctx := ctx } }
      (modPart s p fun q => { q with watches := q.watches + 1 }, some h)

/-- Free a handle and its place in its partition's quota. -/
def freeHandle (s : State) (h : Nat) : State :=
  match tfind s.disp.watches h with
  | none => s
  | some w =>
    let s := modDisp s fun d => { d with watches := tdel d.watches h }
    modPart s w.part fun q => { q with watches := q.watches - 1 }

def execWatch (x : Issuer) (f : RF) (s : State) : Result :=
  issue (.watch x f) x 4 (fun s c =>
    match c.x, active c f.guard with
    | .cc n, _ :: _ =>
      let (s, r) := resolveOne s c 0 (rdG c.th 0 f.ga.toNat).toNat 128 .read false
      let put (s : State) (v : W64) : Eff := .go (setTh s x (wrG c.th 0 f.gd.toNat v))
      match r with
      | .bad cause v => .trap s cause v 1
      | .flt reason level => .fault s .read 0 (rdG c.th 0 f.ga.toNat).toNat reason level
      | .loc pa =>
        (match takeHandle s c.part (pa / 128) (.cc n) c.ctx with
         | (s, some h) => put s (BitVec.ofNat 64 h)
         | (s, none) => put s (BitVec.allOnes 64))
      | _ => put s (BitVec.allOnes 64)
    | _, _ => .go s) s

/-- UNWATCH: release a handle that WATCH gave to a core of the issuing core's partition. -/
def execUnwatch (x : Issuer) (f : RF) (s : State) : Result :=
  issue (.unwatch x f) x 4 (fun s c =>
    match c.x, active c f.guard with
    | .cc _, _ :: _ =>
      let h := (rdG c.th 0 f.gb.toNat).toNat
      (match tfind s.disp.watches h with
       | some w =>
         let mine := (match w.consumer with | .cc _ => true | _ => false) && w.part = c.part
         .go (if mine then freeHandle s h else s)
       | none => .go s)
    | _, _ => .go s) s

/-- WATCHED_LINE_SIGNAL (R240, R322): a control core receives its handles' interrupts. -/
def watchToCC (s : State) (n : Nat) (hs : List Nat) : State := each s hs fun s h => raiseIrq s n (0x1000 + h)

end Sys2Proof.Machine
end

