-- ==== Sys2Proof/Machine/Image.lean ====
section
/-! DEFINITION. Group images, cheap points, debug halt, resume and single step, saves and restores (R63 to R73,
R215, R288, R318). -/

namespace Sys2Proof.Machine

/-! ## The image as bytes (table "Group image header") -/

def allocCode (n : Nat) : Nat := n / 16 - 1

/-- A stack entry of an image. -/
def sentryBytes (e : SEntry) : List Byte :=
  let park := match e.park with
    | .run => 0
    | .gbar => 1
    | .cbar => 2
  natLe 8 e.pc.toNat ++ natLe 8 (flds [(32, e.mask.toNat), (0, park)])

/-- Pad a byte string to a multiple of 64. -/
def pad64 (bs : List Byte) : List Byte := bs ++ List.replicate ((64 - bs.length % 64) % 64) 0

/-- The image of a group holding the registers its masks name. -/
def imageBytes (g : Group) (kind gmask pmask tmask : Nat) : List Byte :=
  let pc := (g.stack.head?.map SEntry.pc).getD 0
  let w1 := flds [(32, (liveMask g.stack).toNat), (30, allocCode g.alloc), (28, kind), (22, g.stack.length),
    (12, g.cause), (0, g.ctx.toNat)]
  let fcsr := (List.range 32).map fun l => BitVec.ofNat 8 (rdF g.th l).toNat
  let regs := (bitsSet 64 gmask).flatMap fun r => (List.range 32).flatMap fun l => natLe 8 (rdG g.th l r).toNat
  let preds := (bitsSet 8 pmask).flatMap fun p => natLe 4 (rdPMask g.th p).toNat
  let tiles := (bitsSet 16 tmask).flatMap fun n => natLe 16 (rdT g.th n).toNat
  pad64 (natLe 8 pc.toNat ++ natLe 8 w1 ++ natLe 8 gmask ++ natLe 8 (flds [(56, pmask), (40, tmask)]) ++ fcsr ++
    g.stack.flatMap sentryBytes ++ regs ++ preds ++ tiles)

/-- A debug image: every allocated register but g0, p1 to p7 and every tile register. -/
def debugImage (g : Group) : List Byte := imageBytes g 1 (2 ^ g.alloc - 2) 0xFE 0xFFFF

/-! ## Reading and checking an image (R68) -/

/-- An image as read: header fields, stack, and the bytes after the stack. -/
structure Image where
  pc : Nat
  live : Nat
  alloc : Nat
  kind : Nat
  depth : Nat
  cause : Nat
  gmask : Nat
  pmask : Nat
  tmask : Nat
  low : Nat
  fcsr : List Byte
  stack : List (Nat × Nat × Nat)
  rest : List Byte

def imageOf (bs : List Byte) : Image :=
  let w (i : Nat) : Nat := leNat ((bs.drop (8 * i)).take 8)
  let depth := bits (w 1) 27 22
  { pc := w 0
    live := bits (w 1) 63 32
    alloc := bits (w 1) 31 30
    kind := bits (w 1) 29 28
    depth := depth
    cause := bits (w 1) 21 12
    gmask := w 2
    pmask := bits (w 3) 63 56
    tmask := bits (w 3) 55 40
    low := bits (w 3) 39 0
    fcsr := (bs.drop 32).take 32
    stack := (List.range depth).map fun i => (w (8 + 2 * i), bits (w (9 + 2 * i)) 63 32, bits (w (9 + 2 * i)) 31 0)
    rest := bs.drop (64 + 16 * depth) }

/-- Strictly ascending numbers. -/
def ascending : List Nat → Bool
  | [] => true
  | [_] => true
  | a :: b :: r => decide (a < b) && ascending (b :: r)

/-- Masks that are non-zero and disjoint, and their union. -/
def masksOk : List Nat → Nat → Bool × Nat
  | [], acc => (true, acc)
  | m :: r, acc => if m = 0 || Nat.land m acc ≠ 0 then (false, acc) else masksOk r (Nat.lor m acc)

/-- The check of R68 for a slot of `alloc` registers; a reserved KIND or PARK counts as a res0 field (R5). -/
def imageOk (m : Image) (alloc : Nat) : Bool :=
  let (disj, all) := masksOk (m.stack.map fun e => e.2.1) 0
  decide (1 ≤ m.depth) && decide (m.depth ≤ 32) && disj && all = m.live &&
  (m.stack.all fun e => e.1 % 4 = 0 && decide (e.2.2 < 3)) && ascending (m.stack.map Prod.fst) &&
  (m.stack.head?.map Prod.fst) = some m.pc && m.alloc = allocCode alloc && !bit m.gmask 0 && decide (m.gmask < 2 ^ alloc) &&
  !bit m.pmask 0 && m.low = 0 && decide (m.kind < 2) && (m.fcsr.all fun b => decide (b.toNat < 128))

/-- Registers of an image: 256 bytes for each general register, then predicates, then tiles; all others zero (R67). -/
def imageThreads (m : Image) : Threads :=
  let gs := bitsSet 64 m.gmask
  let ps := bitsSet 8 m.pmask
  let ts := bitsSet 16 m.tmask
  let r1 := m.rest.drop (256 * gs.length)
  let r2 := r1.drop (4 * ps.length)
  let t : Threads := {}
  let t := gs.zipIdx.foldl (fun t p => eachLane t (List.range 32) fun t l =>
    wrG t l p.1 (BitVec.ofNat 64 (leNat ((m.rest.drop (256 * p.2 + 8 * l)).take 8)))) t
  let t := ps.zipIdx.foldl (fun t p => { t with pred := tput t.pred p.1 (BitVec.ofNat 32 (leNat ((r1.drop (4 * p.2)).take 4))) }) t
  let t := ts.zipIdx.foldl (fun t p => wrT t p.1 (BitVec.ofNat 128 (leNat ((r2.drop (16 * p.2)).take 16)))) t
  m.fcsr.zipIdx.foldl (fun t p => wrF t p.2 (BitVec.ofNat 7 p.1.toNat)) t

def imageStack (m : Image) : List SEntry :=
  m.stack.map fun e =>
    { pc := BitVec.ofNat 64 e.1
      mask := BitVec.ofNat 32 e.2.1
      park := if e.2.2 = 1 then .gbar else if e.2.2 = 2 then .cbar else .run }

/-! ## Where images lie (R69, R318) -/

/-- Address of the debug image of a slot in a context's debug area. -/
def debugVa (c : Ctx) (k slot : Nat) : Nat := c.debug + 32768 * (k * 128 + slot)

/-- Where a halted group's image lies: in the debug area, or without one in the pre-emption area; none where
the debug area's page does not translate to local memory. -/
def imagePlace (s : State) (k slot : Nat) (g : Group) : Option Nat :=
  match getCtx s g.ctx.toNat with
  | none => none
  | some c =>
    if c.debugOk then
      match (translateQ s (k / 24) g.ctx.toNat (debugVa c k slot) .write).2 with
      | .ok l => if l.tgt = 0 then some (outAddr l (debugVa c k slot)) else none
      | _ => none
    else some (c.preempt + 32768 * g.q)

/-- The core writes and reads images in its context's name. -/
def byCore (s : State) (k : Nat) (ctx : BitVec 12) : By := { who := .ctx ctx (ctxPart s ctx.toNat), agent := agentTC k }

/-- The kind-1 image of a halted group, as it stands in memory (R69, R73). -/
def haltImage (s : State) (k slot : Nat) (g : Group) : List Byte :=
  match imagePlace s k slot g with
  | some pa => memBytes s pa 17024
  | none => debugImage g

/-- A group's image is written into the epoch save area, and it stands at the cut (R288). -/
def cutNow (s : State) (k slot : Nat) (g : Group) (img : List Byte) : State :=
  match getCtx s g.ctx.toNat with
  | none => s
  | some x =>
    let s := drainPort s k fun p => p.thread / 32 = slot
    let s := homeWriteAll s (byCore s k g.ctx) (x.epsave + 2 ^ 22 + 32768 * g.q) img
    setGroup s k slot { g with atCut := true, cutReq := false }

/-- A halted group that a commit has asked to stop stands at the cut with its image before it is resumed: it goes on when the
commit ends (R288). -/
def cutFirst (s : State) (k slot : Nat) (g : Group) : State :=
  if g.cutReq then cutNow s k slot g (haltImage s k slot g) else s

/-! ## Halting (R70, R72) -/

/-- The records of a group whose image is complete leave for the dispatcher (R44, R215). -/
def groupReports (s : State) (x : Waiter) (g : Group) : State :=
  let s := match g.trapRec with | some r => emit s (.trap r) | none => s
  match g.faultRec with | some r => emit s (.fault x r) | none => s

/-- GROUP_HALT: at an instruction boundary and with its engines' work done, a halting group's image is written, its state shows and its record leaves; a
group that has exited meanwhile ends. -/
def execGroupHalt (d : Fin 4) (c : Fin 24) (slot : Fin 128) (s : State) : Result :=
  .next <|
    let k := coreKey d c
    match getGroup s k slot with
    | none => s
    | some g =>
      if !g.halting || !g.tmoves.isEmpty || g.matrix ≠ 0 || !g.waitIds.isEmpty || !running s then s
      else if g.stack.isEmpty && g.cause = 0 then endCheck (setGroup s k slot { g with halting := false }) k slot
      else
        let s := drainPort s k fun p => p.thread / 32 = slot.val
        let s := setGroup s k slot { g with
          halting := false
          gstate := if g.cause = 0 then .halted else .trapped
          faultRec := none }
        if hardwareCause g.cause then s
        else
          let s := match imagePlace s k slot g with
            | some pa => emit (homeWriteAll s (byCore s k g.ctx) pa (debugImage g)) (.workDone 3 d c slot)
            | none => s
          groupReports s (.group d c slot) g

/-- WORK_DONE_GROUP_IMAGE (R240): the dispatcher learns that an image is complete; the group's state shows it already. -/
def execWorkDoneGroupImage (_d : Fin 4) (_c : Fin 24) (_slot : Fin 128) (_ctx : BitVec 12) (s : State) : Result := .next s

/-! ## GCTL (R71) -/

/-- A group leaves the fault record it waits on; a record with no waiter closes without action (R73, R319). -/
def leaveRecords (s : State) (w : Waiter → Bool) : State :=
  modXlat s fun x => { x with
    records := (x.records.map fun r => { r with waiters := r.waiters.filter fun v => !w v }).map fun r =>
      if r.waiters.isEmpty then { r with closed := true } else r
    stalled := x.stalled.filter fun p => !w p.1 }

def isGroupWaiter (k slot : Nat) : Waiter → Bool
  | .group d c sl => coreKey d c = k && sl.val = slot
  | .entry _ => false

/-- A halted group goes back to running with the state of an image. -/
def reloadGroup (s : State) (k slot : Nat) (g : Group) (m : Image) (step : Bool) : State :=
  let st := imageStack m
  let parked : Bool := match st with
    | [e] => e.park = .cbar
    | _ => false
  let s := setGroup s k slot { g with
    th := imageThreads m
    stack := st
    gstate := .running
    cause := 0
    trapRec := none
    waiting := false
    stepReq := step
    arrived := if parked then g.arrived else none }
  settle (leaveRecords s (isGroupWaiter k slot)) k slot

/-- Resume, or single-step, a halted group from its image: a poisoned image is consumed as a hardware fault,
one that fails the check leaves the group halted (R68, R71). -/
def resumeGroup (s : State) (k slot : Nat) (g : Group) (step : Bool) : State :=
  if g.gstate = .trapped && !handledCause g.cause then s
  else
    match imagePlace s k slot g with
    | none => s
    | some pa =>
      let bs := memBytes s pa 17024
      if (List.range 134).any fun i => linePoisoned s (pa / 128 + i) then
        let pc := (g.stack.head?.map SEntry.pc).getD g.exitPc
        trapGroup (setGroup s k slot { g with gstate := .running }) k slot cPoison (BitVec.ofNat 64 (pa / 128 * 128)) pc
          (liveMask g.stack)
      else if imageOk (imageOf bs) g.alloc then
        let s := cutFirst s k slot g
        reloadGroup s k slot ((getGroup s k slot).getD g) (imageOf bs) step
      else s

/-- Halt a running group (R70); without a debug area a halt has no effect (R69). -/
def haltGroup (s : State) (k slot : Nat) (g : Group) : State :=
  let dbg := match getCtx s g.ctx.toNat with | some c => c.debugOk | none => false
  if dbg && !g.halting then setGroup s k slot { g with halting := true, cause := 0 } else s

/-- A GCTL command on the group GSEL selects. -/
def gctl (s : State) (n cmd : Nat) : State :=
  match selected s n with
  | none => s
  | some (k, slot, g) =>
    let dbg := match getCtx s g.ctx.toNat with | some c => c.debugOk | none => false
    match cmd, g.gstate with
    | 1, .running => haltGroup s k slot g
    | 3, .running => haltGroup s k slot g
    | 2, .halted => resumeGroup s k slot g false
    | 2, .trapped => resumeGroup s k slot g false
    | 3, .halted => if dbg then resumeGroup s k slot g true else s
    | 3, .trapped => if dbg then resumeGroup s k slot g true else s
    | _, _ => s

/-- An SWR on the issuing core: user-level FCSR lane by lane, or a control core's register; a write of GCTL is the
command it names. -/
def swrBody (f : IF) (s : State) (c : Iss) : Eff :=
  let act := active c f.guard
  let num := f.imm.toNat
  if num = 6 then .go (setTh s c.x (eachLane c.th act fun t l => wrF t l ((rdG c.th l f.ga.toNat).setWidth 7)))
  else
    match c.x, act with
    | .cc n, _ :: _ =>
      let v := rdG c.th 0 f.ga.toNat
      .go (if num = 0x108 then gctl s n v.toNat else modCC s n fun q => sysWriteCC q num v)
    | _, _ => .go s

def execSwr (x : Issuer) (f : IF) (s : State) : Result := issue (.swr x f) x 4 (swrBody f) s

/-- A GCTL row names the command its operand holds; with another operand, or another register, it does not
occur. -/
def gctlRow (i : Instr) (x : Issuer) (f : IF) (cmd : Nat) (s : State) : Result :=
  let fits := f.imm = 0x108 && (match x with
    | .cc n => rdG (getCC s n).th 0 f.ga.toNat = BitVec.ofNat 64 cmd
    | .tc _ _ _ => true)
  if fits then issue i x 4 (swrBody f) s else .next s

def execGctlHalt (x : Issuer) (f : IF) (s : State) : Result := gctlRow (.gctlHalt x f) x f 1 s
def execGctlResume (x : Issuer) (f : IF) (s : State) : Result := gctlRow (.gctlResume x f) x f 2 s
def execGctlSingleStep (x : Issuer) (f : IF) (s : State) : Result := gctlRow (.gctlSingleStep x f) x f 3 s

/-! ## Cheap points (R63 to R65) -/

/-- Physical address of a context's virtual address in local memory, by its held pages or its tables. -/
def peek (s : State) (pool ctx va : Nat) : Option Nat :=
  match heldOf s ctx va with
  | some l => if l.tgt = 0 then some (outAddr l va) else none
  | none => match (translateQ s pool ctx va .read).2 with
    | .ok l => if l.tgt = 0 then some (outAddr l va) else none
    | _ => none

/-- A cheap-point map entry: OFFSET, PMASK, TMASK, GMASK. -/
structure MapEntry where
  offset : Nat
  pmask : Nat
  tmask : Nat
  gmask : Nat

/-- The entry of an offset among `n` entries from address `va`. -/
def mapFind (s : State) (pool ctx off va : Nat) : Nat → Option MapEntry
  | 0 => none
  | n + 1 =>
    match peek s pool ctx va with
    | none => none
    | some pa =>
      let w0 := memWord s pa
      if bits w0 63 32 = off then
        some { offset := off, pmask := bits w0 31 24, tmask := bits w0 23 8, gmask := memWord s (pa + 8) }
      else if off < bits w0 63 32 then none
      else mapFind s pool ctx off (va + 16) n

/-- The map entry of the cheap point a group stands at (R64). -/
def cheapPoint (s : State) (k slot : Nat) (g : Group) : Option MapEntry :=
  match g.stack with
  | [e] =>
    let free := g.tmoves.isEmpty && g.matrix = 0 && g.waitIds.isEmpty &&
      !(s.homes.resvs.any fun r => r.who / 32 = agentTC k * 128 + slot)
    let off := e.pc - g.code
    if e.park != .gbar && free && off.toNat < 2 ^ 32 then mapFind s (k / 24) g.ctx.toNat off.toNat g.map.toNat g.mapn else none
  | _ => none

/-- What the dispatcher keeps of a group that leaves its core or is recorded at a cut. -/
def savedOf (co : Option Cohort) (g : Group) : Saved :=
  { entry := g.entry, place := g.place, cohort := g.cohort, cid := g.cid, lss := g.lss, array := g.array,
    number := g.number, alloc := g.alloc, gstate := if g.waiting then .running else g.gstate,
    cause := if g.waiting then 0 else g.cause, tag := g.tag, code := g.code, map := g.map, mapn := g.mapn,
    arrived := match co with | some c => g.arrived = some c.gen | none => false
    trapRec := if g.gstate = .trapped && !g.waiting then g.trapRec else none }

/-- A group leaves its core with its image written (R65): its cohort waits for it. -/
def leaveCore (s : State) (k slot : Nat) (g : Group) (img : List Byte) : State :=
  match getCtx s g.ctx.toNat with
  | none => s
  | some c =>
    let s := drainPort s k fun p => p.thread / 32 = slot
    let s := homeWriteAll s (byCore s k g.ctx) (c.preempt + 32768 * g.q) img
    let sv := savedOf (cohortOf (getCore s k) g) g
    let s := modCtx s g.ctx.toNat fun c => { c with saved := tput c.saved g.q sv }
    let s := leaveRecords (dropSlotResv (delGroup s k slot) k slot) (isGroupWaiter k slot)
    let less (co : Cohort) : Option Cohort :=
      if co.id = g.cid then
        let left := co.slots.filter fun i => i ≠ slot
        if left.isEmpty then none else some { co with slots := left, away := co.away + 1 }
      else some co
    modCore s k fun x => { x with cohorts := x.cohorts.filterMap less }

/-- The image a stopped group is saved as (R65, R73): kind 0 at a cheap point; where it is halted its kind-1 image, as it
stands in memory. -/
def stopImage (s : State) (k slot : Nat) (g : Group) : Option (List Byte) :=
  if g.gstate ≠ .running then some (haltImage s k slot g)
  else if g.halting then none
  else (cheapPoint s k slot g).map fun m => imageBytes g 0 m.gmask m.pmask m.tmask

/-- Whether the pre-emption of a context is over: none of its groups is on a core. -/
def groupsOf (s : State) (ctx : BitVec 12) : List (Nat × Nat × Group) :=
  s.cores.flatMap fun c => (c.2.groups.filter fun g => g.2.ctx = ctx).map fun g => (c.1, g.1, g.2)

/-- A pre-emption ends once every group has left: the command's result and the event (R333). -/
def preemptDone (s : State) (ctx : BitVec 12) : State :=
  match getCtx s ctx.toNat with
  | none => s
  | some c =>
    if !c.preempting || !(groupsOf s ctx).isEmpty then s
    else
      let s := modCtx s ctx.toNat fun c => { c with preempting := false, byCommand := false, late := false }
      let s :=
        if c.byCommand then
          let res (key : Nat) (v : Nat × Nat) : Nat × Nat :=
            if key = 128 + c.asker && v = (1, ctx.toNat) then (if c.late then 5 else 0, v.2) else v
          modDisp s fun d => { d with results := tmap d.results res }
        else s
      event s 4 (unitId 4 6 0) 0x106 ctx.toNat (b2n c.late) c.saved.length false

/-- CHEAP_POINT_SAVE (R65, R73, R288): a group asked to save leaves its core; one asked to stop at a cut stays. -/
def execCheapPointSave (d : Fin 4) (c : Fin 24) (slot : Fin 128) (s : State) : Result :=
  .next <|
    let k := coreKey d c
    match getGroup s k slot with
    | none => s
    | some g =>
      if !running s || g.atCut || !(g.saveReq || g.cutReq) || !(outStores s (slotIssuer k slot)).isEmpty then s
      else
        match stopImage s k slot g with
        | some img => if g.saveReq then preemptDone (leaveCore s k slot g img) g.ctx else cutNow s k slot g img
        | none => s

/-- PREEMPTION_LATE (R66, R333): the wait limit passes with groups of a context not yet saved. -/
def execPreemptionLate (ctx : BitVec 12) (s : State) : Result :=
  .next <|
    match getCtx s ctx.toNat with
    | none => s
    | some c =>
      if !c.preempting || (groupsOf s ctx).isEmpty then s
      else
        let live := (groupsOf s ctx).map fun g => g.2.2.entry
        let s := modCtx s ctx.toNat fun c => { c with late := true }
        let mark (e : Nat) (x : Entry) : Entry :=
          if x.ctx = ctx && (live.contains e || (c.saved.any fun q => q.2.entry = e)) then { x with late := true } else x
        modDisp s fun d => { d with entries := tmap d.entries mark }

/-! ## Restoring (R67, R68) -/

/-- Slots and register units of a core in use, and local-store bytes. -/
def unitsUsed (c : Core) : Nat := c.groups.foldl (fun n g => n + g.2.alloc / 16) 0
def lsUsed (c : Core) : Nat := c.groups.foldl (fun n g => n + g.2.lss) 0

/-- Whether a core has room for `n` groups of an allocation and a share (R62), and its array is not in another
context's use (R96). -/
def coreFits (s : State) (k n alloc lss : Nat) (array : Bool) (ctx : BitVec 12) : Bool :=
  let c := getCore s k
  c.groups.length + n ≤ 128 && unitsUsed c + n * (alloc / 16) ≤ 256 && lsUsed c + n * lss ≤ 6 * 2 ^ 20 && !c.testing &&
  !(array && c.groups.any fun g => g.2.array && g.2.ctx ≠ ctx)

/-- The array as a core takes a group of a context that uses it: reset as it is assigned, and for a restored one
(R96). -/
def takeArray (s : State) (k : Nat) (ctx : BitVec 12) (array again : Bool) : State :=
  if !array then s
  else if (getCore s k).array.owner = some ctx && !again then s
  else arrayReset s k (some ctx)

/-- The local store as a context comes to a core that runs nothing: zero where another's data, or its own from
before a save, stood (R67, R319). -/
def takeLs (s : State) (k : Nat) (ctx : BitVec 12) (again : Bool) : State :=
  let c := getCore s k
  if c.groups.isEmpty && (again || c.lsCtx ≠ ctx) then setCore s k { c with ls := [], lsCtx := ctx } else s

/-- The cohort of a restored group on its core: it joins, or comes back with the others away. -/
def joinCohort (s : State) (k slot : Nat) (ctx : BitVec 12) (v : Saved) : State :=
  let c := getCore s k
  if c.cohorts.any fun x => x.id = v.cid then
    let add (x : Cohort) : Cohort :=
      if x.id = v.cid then { x with slots := x.slots ++ [slot], away := x.away - 1 } else x
    setCore s k { c with cohorts := c.cohorts.map add }
  else
    let left := match getCtx s ctx.toNat with
      | some cx => (cx.saved.filter fun p => p.2.cid = v.cid).length
      | none => 0
    setCore s k { c with cohorts := c.cohorts ++
      [{ id := v.cid, ctx := ctx, entry := v.entry, place := v.place, number := v.cohort, slots := [slot], away := left }] }

/-- The trap record of a group halted by a trap that a rollback restores is appended again, with a new SEQ (R73). -/
def trapAgain (s : State) (k slot : Nat) (v : Saved) : State :=
  match v.cut, v.trapRec with
  | true, some r =>
    let d := getDie s (k / 24)
    let s := setDie s (k / 24) { d with trapSeq := d.trapSeq + 1 }
    emit s (.trap { r with
      die := BitVec.ofNat 3 (k / 24)
      core := BitVec.ofNat 5 (k % 24)
      group := BitVec.ofNat 7 slot
      seq := BitVec.ofNat 32 d.trapSeq })
  | _, _ => s

/-- A checked image comes back to a slot (R67, R73). -/
def placeImage (s : State) (k slot : Nat) (ctx : BitVec 12) (q : Nat) (v : Saved) (m : Image) : State :=
  let again := !((getCore s k).groups.any fun g => g.2.ctx = ctx)
  let s := takeLs (takeArray s k ctx v.array again) k ctx again
  let s := modCtx s ctx.toNat fun c => { c with saved := tdel c.saved q }
  let s := joinCohort s k slot ctx v
  let gen := match (getCore s k).cohorts.find? fun x => x.id = v.cid with | some co => co.gen | none => 0
  let g : Group :=
    { ctx := ctx, entry := v.entry, place := v.place, cohort := v.cohort, cid := v.cid, lss := v.lss, array := v.array,
      q := q, number := v.number, alloc := v.alloc, th := imageThreads m, stack := imageStack m, gstate := v.gstate,
      cause := v.cause, tag := v.tag, code := v.code, map := v.map, mapn := v.mapn,
      arrived := if v.arrived then some gen else none, trapRec := v.trapRec }
  let s := setGroup s k slot g
  if v.gstate = .running then
    match g.stack with
    | [e] => if e.park = .cbar && !v.arrived then setGroup s k slot (releaseMember g) else settle s k slot
    | _ => settle s k slot
  else
    let s := match imagePlace s k slot g with
      | some pa => homeWriteAll s (byCore s k ctx) pa (debugImage g)
      | none => s
    trapAgain s k slot v

end Sys2Proof.Machine
end

