-- ==== Sys2Proof/Machine/Classes.lean ====
section
/-! DEFINITION. Access classes of dictionary requesters, the checks every request meets in their order, and its
answer (R271, R343 to R347, R355, R356, R361). -/

namespace Sys2Proof.Machine

/-! ## Access classes (R344) -/

/-- The access class of a request. -/
inductive Cls where
  | bmc
  | host (port : Nat)
  | part (p : Nat)
  | manager
deriving DecidableEq, Repr

def Cls.isBmc : Cls → Bool
  | .bmc => true
  | _ => false
def Cls.isHost : Cls → Bool
  | .host _ => true
  | _ => false
def Cls.isManager : Cls → Bool
  | .manager => true
  | _ => false
def Cls.isPart : Cls → Bool
  | .part _ => true
  | _ => false

/-- The BMC and host-PF classes, which write an entry whose chapter names no classes (R345). -/
def Cls.local2 (c : Cls) : Bool := c.isBmc || c.isHost
/-- The BMC, host-PF and manager classes. -/
def Cls.trio (c : Cls) : Bool := c.isBmc || c.isHost || c.isManager
/-- The manager and host-PF classes. -/
def Cls.fabric2 (c : Cls) : Bool := c.isHost || c.isManager

/-- A Shroud sender is the manager in force, or a directed sender where none is recorded, with a generation that is
not behind (R271); an unassigned device takes directed packets alone (R258). -/
def managerOk (s : State) (src gen : Nat) (directed : Bool) : Bool :=
  (directed || s.fabric.device ≠ 0xFFFF) &&
  (src = s.fabric.manager && s.fabric.manager ≠ 0xFFFF || s.fabric.manager = 0xFFFF && directed) && decide (s.fabric.gen ≤ gen)

/-- A control packet of a higher generation makes a manager a standby (R272). -/
def noteGen (s : State) (gen : Nat) : State :=
  if s.fabric.role = 1 && s.fabric.gen < gen then modFabric s fun f => { f with role := 2 } else s

/-- The class of a requester, and the state after a manager's packet is accepted (R271, R344). -/
def classify (s : State) (q : Requester) : State × Option Cls :=
  match q with
  | .i3c => (s, some .bmc)
  | .pf p => (s, some (.host p))
  | .window p => (s, some (.host p))
  | .vf p f =>
    match tfind s.disp.vfs (32 * p.val + f.val) with
    | some v => (s, if v.part < 64 then some (.part v.part) else none)
    | none => (s, none)
  | .fabric src gen directed =>
    if managerOk s src.toNat gen.toNat directed then
      (modFabric (noteGen s gen.toNat) fun f => { f with manager := src.toNat, gen := gen.toNat }, some .manager)
    else (noteGen s gen.toNat, none)

/-- A transport's place in the result entries (R313). -/
def transport : Requester → Nat
  | .i3c => 0
  | .fabric _ _ _ => 1
  | .pf p => 2 + p.val
  | .window p => 4 + p.val
  | .vf p f => 8 + 32 * p.val + f.val

/-- The port a physical function's request came by, 2 for any other transport (R310). -/
def portOf : Requester → Nat
  | .pf p => p.val
  | .window p => p.val
  | _ => 2

/-! ## Life of the device (R347, R389) -/

/-- The Halyard controller is in the ROM service. -/
def romService (s : State) : Bool := s.sec.boot = 4

/-- Entries served while start-up is in progress (R347, R359). -/
def earlyEntry (index : Nat) : Bool :=
  (0x1000 ≤ index && index < 0x2000) || (0xA000 ≤ index && index ≤ 0xA400 && index % 256 = 0) || index = 0x7000

/-- Entries the ROM service serves (R389). -/
def romEntry (index : Nat) : Bool := earlyEntry index || (0x8000 ≤ index && index < 0x9000)

/-- The entries that carry a firmware update (R392). -/
def updateEntry (index sub : Nat) : Bool := index = 0x8020 && (sub = 1 || sub = 2)

/-- The status the life of the device gives a request: 6 not ready, 7 device failed, 0 neither. -/
def lifeStatus (s : State) (write : Bool) (index sub : Nat) : Nat :=
  match s.life with
  | .starting => if !write && earlyEntry index then 0 else 6
  | .failed =>
    if write then (if updateEntry index sub then 0 else 7)
    else if romService s && !romEntry index then 7
    else 0
  | _ => if s.homes.dead && write && !updateEntry index sub then 7 else 0

/-! ## Answers -/

/-- Whether a requester's answer is the window's status slot in place of a response (R355, R356). -/
def windowPort : Requester → Option Nat
  | .window p => some p.val
  | _ => none

/-- Count an answered request (0x1100:05 and 06). -/
def countAnswer (s : State) (status : Nat) : State :=
  modObs s fun o => if status = 0 then { o with ok := o.ok + 1 } else { o with bad := o.bad + 1 }

/-- Record the status of a window access (R355). -/
def windowStatus (s : State) (p status : Nat) : State :=
  modPcie s p fun x => { x with winStatus := status, winErrors := if status = 0 then x.winErrors else x.winErrors + 1 }

/-- Answer a request of an OP: one response by message, or the window's status. -/
def respondTo (s : State) (q : Requester) (op tag index sub status type : Nat) (value : List Byte) : State :=
  match windowPort q with
  | some p => windowStatus s p status
  | none => emit (countAnswer s status) (.dict q op tag index sub status type value)

/-- Answer a write. -/
def answer (s : State) (q : Requester) (tag index sub status type : Nat) (value : List Byte) : State :=
  respondTo s q 2 tag index sub status type value

/-- A write of an entry that has a row of its own: who may write it, what refuses it, what it does. `may` and
`check` see the state, the class and the requester; `check` gives 0 or a status. -/
structure Cmd where
  index : Nat
  sub : Nat
  type : Nat
  may : State → Cls → Bool
  check : State → Cls → Nat
  apply : State → Cls → State

/-- The checks of a write in their order: the state after them and the status (R347). -/
def cmdStatus (q : Requester) (c : Cmd) (s : State) : State × Nat × Option Cls :=
  let (s, cls) := classify s q
  let life := lifeStatus s true c.index c.sub
  if life ≠ 0 then (s, life, none)
  else
    match cls with
    | none => (s, 2, none)
    | some k => if !c.may s k then (s, 2, none) else let e := c.check s k; (s, e, if e = 0 then some k else none)

/-- A requester's transport is up: its port trained and not on an Insecure link stream, its virtual function enabled
(R315, R396, R421). -/
def reaches (s : State) (q : Requester) : Bool :=
  let port (p : Nat) : Bool := (getPcie s p).up && (getPcie s p).ideLink ≠ 2
  match q with
  | .i3c => true
  | .pf p => port p
  | .window p => port p
  | .vf p f => port p && (tget s.disp.vfs (32 * p.val + f.val) {}).enabled
  | .fabric _ _ _ => true

/-- Run a write: its effect where every check passes, and its answer. -/
def command (q : Requester) (c : Cmd) (s : State) : State :=
  if !halyard s || !reaches s q then s
  else if c.type = 7 && (windowPort q).isSome then answer s q 0 c.index c.sub 3 c.type []
  else
    let (s, status, k) := cmdStatus q c s
    let s := match k with | some k => c.apply s k | none => s
    answer s q 0 c.index c.sub status (if status = 6 || status = 7 then 0 else c.type) []

end Sys2Proof.Machine
end

