-- ==== Sys2Proof/Machine/Teardown.lean ====
section
/-! DEFINITION. Teardown of a context, the completion of descriptors, and the end of a context or job by a fault
(R97, R145, R174, R290, R293, R305, R319 to R321, R330, R335). -/

namespace Sys2Proof.Machine

/-! ## Completion of a descriptor -/

def unitDispatcher : Nat := unitId 4 6 0

/-- Management ticks as microseconds, at 312.5 MHz (R16, R20). -/
def usOf (ticks : Nat) : Nat := ticks * 2 / 625

/-- The job slot of a context. -/
def slotOfCtx (s : State) (ctx : Nat) : Nat := match getCtx s ctx with | some c => c.slot | none => 0

/-- Drop a tag once its launch ends: its incomplete rounds first (R175). -/
def freeTag (s : State) (tag : Nat) : State :=
  if tag = 0 then s
  else
    let s := completeTag s tag
    modHomes s fun h => { h with tags := tdel h.tags tag, rounds := h.rounds.filter fun r => r.tag ≠ tag }

/-- Whether an entry of a context has a launch running. -/
def launchRuns (s : State) (ctx : BitVec 12) : Bool :=
  s.disp.entries.any fun e => e.2.ctx = ctx && e.2.phase = .running &&
    e.2.parts.any fun w => w.running && !w.done && bits (nth w.words 0 0) 63 60 = 1

/-- Record a completed step for its context and graph, newest first: 16 for each pair, 4,096 pairs (R335). -/
def recordRun (hs : List History) (ctx : BitVec 12) (graph rows us : Nat) : List History :=
  let mine (h : History) : Bool := h.ctx = ctx && h.graph = graph
  let old := match hs.find? mine with | some h => h.runs | none => []
  (({ ctx := ctx, graph := graph, runs := ((rows, us) :: old).take 16 } : History) :: hs.filter fun h => !mine h).take 4096

/-- Complete a descriptor with a status: its pages and tags are released, and its record waits its turn
(R210, R330, R334, R335). -/
def completeEntry (s : State) (e status val cause : Nat) : State :=
  match getEntry s e with
  | none => s
  | some x =>
    if x.phase = .completed then s
    else
      let s := releasePages s x.ctx x.pages
      let s := each s x.parts fun s w => freeTag s w.tag
      let c := getCtx s x.ctx.toNat
      let sl := getSlot s (slotOfCtx s x.ctx.toNat)
      let held := sl.hold = 1 && sl.protect ≠ 0
      let now := sparTimer s
      let s := modEntry s e fun x => { x with
        phase := .completed
        status := status
        val := if status = 1 || status = 2 || status = 7 then val else 0
        cause := if status = 1 || status = 7 then cause else 0
        ended := now
        nr := match c with | some c => c.nrflag | none => false
        pages := []
        waiting := false
        heldFor := if held then some (sl.committed + 1) else none }
      let done (r : Replay) : Replay :=
        if r.queue = x.queue && r.seq = x.seq then { r with doneIn := some (sl.committed + 1) } else r
      let s := modCtx s x.ctx.toNat fun c => { c with replay := c.replay.map done }
      let s := modDisp s fun d => { d with completed := d.completed + 1, order := d.order ++ [e] }
      let s :=
        match x.started with
        | some t =>
          if bits (nth x.words 0 0) 63 60 = 4 && status = 0 then
            modDisp s fun d => { d with
              history := recordRun d.history x.ctx x.graph (bits (nth x.words 5 0) 47 16) (usOf (now.toNat - t.toNat)) }
          else s
        | none => s
      let s := if launchRuns s x.ctx then s else modHomes s fun h => { h with srcs := h.srcs.filter fun r => r.ctx ≠ x.ctx }
      event s 4 unitDispatcher 0x104 x.ctx.toNat status x.queue true

/-- Entries of a context that are fetched and not completed. -/
def liveEntries (s : State) (ctx : BitVec 12) : List Nat :=
  (s.disp.entries.filter fun e => e.2.ctx = ctx && e.2.phase ≠ .completed).map Prod.fst

/-- Complete every fetched descriptor of a context with one status. -/
def completeAll (s : State) (ctx : BitVec 12) (status val cause : Nat) : State :=
  each s (liveEntries s ctx) fun s e => completeEntry s e status val cause

/-! ## Teardown (R319) -/

/-- Write a stopped TMOVE's granules: each is old or new (R145). -/
def stopPieces (s : State) (x : Issuer) (ctx : BitVec 12) (b : By) (r : TMoveRec) (fmt : Nat) :
    List (Nat × Nat) → List Byte → State
  | [], _ => s
  | (va, n) :: rest, bs =>
    let (s, i) := draw s
    let local0 := r.dst.filter fun p => p.2.tgt = 0
    let s :=
      if !Config.freeBool i then s
      else if r.rop = 0 then (writePieces s x ctx b local0 [(va, n)] (bs.take n)).1
      else (reducePieces s x ctx b 0 r.rop fmt local0 [(va, n)] (bs.take n) []).1
    stopPieces s x ctx b r fmt rest (bs.drop n)

/-- A TMOVE stops at a granule boundary; one whose off-device source has not all come has written nothing, and a
tagged add has sent nothing. -/
def stopTmove (s : State) (x : Issuer) (r : TMoveRec) : State :=
  let dst := tdOf r.td
  let (b, ctx, tag) := engineBy s x r.lane
  let s :=
    if r.wrote || r.bad.isSome || !r.ids.isEmpty || dst.space || (tag ≠ 0 && r.rop = 1) then s
    else
      let (s, bs, bad) := readTile s x b (tdOf r.ts) r.src r.got
      if bad.isSome then s else stopPieces s x ctx b r dst.fmt (tilePieces dst 16) bs
  releasePages s ctx ((r.src ++ r.dst).map Prod.fst)

/-- A group is torn down: its TMOVEs stop, its accepted stores are performed, its slot is freed. -/
def stopGroup (s : State) (k slot : Nat) : State :=
  match getGroup s k slot with
  | none => s
  | some g =>
    let x := slotIssuer k slot
    let s := each s g.tmoves fun s r => engineGone (stopTmove s x r) k r.id
    let s := drainPort s k fun p => p.thread / 32 = slot
    let s := modCore s k fun c => { c with port := c.port.filter fun p => p.thread / 32 ≠ slot }
    let s := delGroup (dropSlotResv s k slot) k slot
    match g.halting, g.trapRec with
    | true, some r => emit s (.trap r)
    | _, _ => s

/-- The cohorts of a context leave every core, and a core left with none of its groups forgets its local store. -/
def clearCohorts (s : State) (ctx : BitVec 12) : State :=
  let f (_ : Nat) (c : Core) : Core :=
    let mine := c.cohorts.any fun x => x.ctx = ctx
    let c := { c with cohorts := c.cohorts.filter fun x => x.ctx ≠ ctx }
    if mine && c.groups.isEmpty then { c with ls := [] } else c
  { s with cores := tmap s.cores f }

/-- Requests a context sourced from its groups and copies have no one left to answer. -/
def orphanOuts (s : State) (ctx : BitVec 12) : State :=
  let f (r : OutReq) : OutReq :=
    let engine := match r.kind with | .copy => true | .copyW => true | _ => false
    if r.ctx = ctx && (isTc r.who || engine) then { r with orphan := true } else r
  modFabric s fun x => { x with out := x.out.map f }

/-- A waiter of a context: one of its groups, or one of its entries. -/
def waiterOf (s : State) (ctx : BitVec 12) : Waiter → Bool
  | .group d c sl => match getGroup s (coreKey d c) sl with | some g => g.ctx = ctx | none => false
  | .entry n => match getEntry s n.toNat with | some e => e.ctx = ctx | none => false

/-- Cores whose array a context owns. -/
def arraysOf (s : State) (ctx : BitVec 12) : List Nat :=
  (s.cores.filter fun c => c.2.array.owner = some ctx).map Prod.fst

/-- Tear a context down (R319): its groups stop, its arrays stop and are zeroed, its held translations, waiters and
reservations go, and nothing of it is left on any core. -/
def teardown (s : State) (ctx : BitVec 12) : State :=
  let s := leaveRecords s (waiterOf s ctx)
  let s := each s (groupsOf s ctx) fun s p => stopGroup s p.1 p.2.1
  let s := each s (arraysOf s ctx) fun s k => arrayReset (arrayStop s k) k none
  let s := orphanOuts (clearCohorts s ctx) ctx
  let s := modXlat s fun x => { x with held := x.held.filter fun h => h.ctx ≠ ctx }
  let stop (w : Work) : Work := { w with running := false, toPlace := [], placed := [], ids := [], got := [] }
  let s := modDisp s fun d => { d with
    entries := tmap d.entries fun _ e =>
      if e.ctx = ctx && e.phase ≠ .completed then { e with parts := e.parts.map stop, pages := [], waiting := false } else e }
  let s := modFabric s fun f => { f with running := f.running.filter fun c => c.ctx ≠ ctx }
  modCtx s ctx.toNat fun c => { c with saved := [], preempting := false, byCommand := false, trapWait := [], cut := none }

/-! ## Faults (R290, R293, R320) -/

/-- Contexts bound to a job slot. -/
def ctxsOfSlot (s : State) (j : Nat) : List Nat := (s.disp.ctxs.filter fun c => c.2.slot = j).map Prod.fst

/-- A context is torn down by a hardware fault. -/
def tornBy (s : State) (ctx : Nat) (cause : Nat) : State :=
  let s := modCtx (teardown s (BitVec.ofNat 12 ctx)) ctx fun c => { c with state := .torn }
  event s 4 unitDispatcher 0x102 ctx 2 cause false

/-- The job of a slot ends because of a hardware fault: every fetched descriptor of it completes with status 7
(R293, R320). -/
def endJob (s : State) (j cause val : Nat) : State :=
  let s := each s (ctxsOfSlot s j) fun s c =>
    let live : Bool := match getCtx s c with | some x => x.state = .live || x.state = .saved | none => false
    let s := if live then tornBy s c cause else s
    completeAll s (BitVec.ofNat 12 c) 7 val cause
  alarm (modSlot s j fun x => { x with state := 6 }) 7

/-- A fault class ends a job in place of its replay (table "Faults against protection mode"). -/
def classEnds (protect cls : Nat) : Bool := protect = 0 || protect = 1 && decide (5 ≤ cls)

/-- The coordinator of a job of several devices cannot be reached (R372). -/
def coordLost (s : State) (sl : JobSlot) : Bool :=
  sl.devices ≠ 1 && s.fabric.manager ≠ s.fabric.device && !reachable s s.fabric.manager

/-- The poisoned lines of the frames a fault names leave their slices, which marks the frames; a line with requests
still waiting stays and marks its frame (R178, R294; assumption 106). -/
def markFrames (s : State) (frames : List Nat) : State :=
  each s (s.homes.lines.filter fun l => l.2.poison && frames.contains (l.1 / 512)) fun s l =>
    if mayEvict l.2 then evict s l.1 else modOwn s (l.1 / 512) fun o => { o with poison := true }

/-- The frames among those named that a frame command is to clear (R196, R294). -/
def marked (s : State) (frames : List Nat) : List Nat := frames.filter fun f => (getOwn s f).poison || (getOwn s f).lost

/-- A fault of a class reaches the job of a slot: FAULT goes to the coordinator, and the job ends where the class is
not resolved by replay; with its coordinator out of reach the slot reads 3 until STOP (R290, R293, R372). `frames` are the poisoned frames a fault of class 3 names. -/
def slotFault (s : State) (j cls cause val : Nat) (frames : List Nat) : State :=
  let sl := getSlot s j
  let cls := if sl.overflowed then 7 else cls
  let s := emit (modSlot s j fun x => { x with faultClass := cls })
    (.epoch (coordOf s sl) sl.job 7 cls (sl.committed + 1))
  if classEnds sl.protect cls then endJob s j cause val
  else if cls = 3 && !(marked (markFrames s frames) frames).isEmpty then
    modSlot (markFrames s frames) j fun x => { x with state := 4, reload := marked (markFrames s frames) frames }
  else if coordLost s sl then modSlot s j fun x => { x with state := if x.state = 2 then 2 else 3 }
  else s

/-- A hardware fault touches a context: it is torn down, and its job is dealt with (R290, R293, R320). -/
def hardwareFault (s : State) (ctx cls cause val : Nat) (frames : List Nat) : State :=
  match getCtx s ctx with
  | none => s
  | some c => slotFault (tornBy s ctx cause) c.slot cls cause val frames

/-- A program fault ends a context: the descriptor whose work faulted takes status 1, the others 6, the queues stop
(R320). -/
def programFault (s : State) (ctx : Nat) (entry : Option Nat) (val cause : Nat) : State :=
  match getCtx s ctx with
  | none => s
  | some c =>
    if c.state = .ended then s
    else
      let b := BitVec.ofNat 12 ctx
      let s := modCtx (teardown s b) ctx fun c => { c with state := .ended }
      let s := match entry with | some e => completeEntry s e 1 val cause | none => s
      let s := completeAll s b 6 0 0
      let s := modDisp s fun d => { d with queues := tmap d.queues fun _ q => if q.ctx = b then { q with state := 3 } else q }
      alarm (event s 4 unitDispatcher 0x102 ctx 1 cause false) 8

end Sys2Proof.Machine
end

