-- ==== Sys2Proof/Machine/Counting.lean ====
section
/-! DEFINITION. Counting the errors of units and retiring them; parity errors of cores and arrays; self-tests
(R98, R298 to R300). -/

namespace Sys2Proof.Machine

/-! ## Physical cores (R299) -/

/-- Physical core of a logical core: of manufacture, unless a retirement moved it; 0xFF for none. -/
def physOf (s : State) (k : Nat) : Nat :=
  match tfind s.epochs.map k with
  | some p => p
  | none => nth (Config.goodCores (k / 24)) (k % 24) 0xFF

def corePresent (s : State) (k : Nat) : Bool := physOf s k ≠ 0xFF

/-! ## Counting (R298) -/

/-- A unit's retirement is recorded (0x7020:02, alarm bit 4, event 0x802). -/
def retired (s : State) (unit : Nat) : State :=
  let s := modEpochs s fun e => { e with retired := e.retired + 1 }
  alarm (event s (unit / 8192) unit 0x802 0 0 0 false) 4

/-- Count an error of a unit; true where the count reaches the threshold and closes the window. -/
def countError (s : State) (unit kind : Nat) : State × Bool :=
  let w := tget s.epochs.windows unit { opened := sparTimer s }
  let n := w.count + 1
  let s := event s (unit / 8192) unit 0x801 0 (Config.errorKind kind) n false
  if s.epochs.threshold ≤ n then
    (modEpochs s fun e => { e with windows := tdel e.windows unit }, true)
  else (modEpochs s fun e => { e with windows := tput e.windows unit { w with count := n } }, false)

/-- FAULT_WINDOW_CLOSE (R298): a window closes 2^34 ticks after it opened, with fewer errors than the threshold. -/
def execFaultWindowClose (unit : W32) (s : State) : Result :=
  .next <|
    match tfind s.epochs.windows unit.toNat with
    | none => s
    | some _ => modEpochs s fun e => { e with windows := tdel e.windows unit.toNat, closed := e.closed + 1 }

/-! ## Throughput cores -/

/-- Contexts with groups on a core, each once. -/
def ctxsOn (s : State) (k : Nat) : List Nat := ((getCore s k).groups.map fun g => g.2.ctx.toNat).eraseDups

/-- Retire a physical core: its logical number passes to the die's lowest-numbered spare, or to none; work of other
contexts still on it is torn down with it (assumption 15). The counters follow the logical number (R411), and the stores
that have left the core for its port are performed. -/
def retireCore (s : State) (k : Nat) : State :=
  let s := each s (ctxsOn s k) fun s c => hardwareFault s c 1 0 0 []
  let d := k / 24
  let spares := (Config.goodCores d).drop 24
  let n := tget s.epochs.used d 0
  let s := modEpochs s fun e => { e with map := tput e.map k (nth spares n 0xFF), used := tput e.used d (n + 1) }
  let c := getCore s k
  let arr : MArray := { rows := c.array.rows, holds := c.array.holds, nans := c.array.nans }
  retired (setCore s k { port := c.port, array := arr, issued := c.issued, tmNext := c.tmNext }) (unitId d 1 (k % 24))

/-- An error of a throughput core touches a context and is counted against the core. -/
def coreError (s : State) (k : Nat) (ctx : Option Nat) (kind : Nat) : State :=
  let s := match ctx with | some c => hardwareFault s c 1 0 0 [] | none => s
  let (s, lasting) := countError s (unitId (k / 24) 1 (k % 24)) kind
  if lasting then retireCore s k else s

/-- ARRAY_PARITY_ERROR (R98): the owner of the array is torn down for replay. -/
def execArrayParityError (d : Fin 4) (c : Fin 24) (s : State) : Result :=
  .next <|
    let k := coreKey d c
    if running s && corePresent s k then coreError s k ((getCore s k).array.owner.map BitVec.toNat) 1 else s

/-- CORE_PARITY_ERROR (R298): the context of the group whose register file, local store or cache it met is torn
down. -/
def execCoreParityError (d : Fin 4) (c : Fin 24) (slot : Fin 128) (s : State) : Result :=
  .next <|
    let k := coreKey d c
    if running s && corePresent s k then coreError s k ((getGroup s k slot).map fun g => g.ctx.toNat) 2 else s

/-- CONTROL_CORE_PARITY_ERROR (R298): counted against the core, which has no spare. -/
def execControlCoreParityError (n : Fin 96) (s : State) : Result :=
  .next <|
    if !(running s) || (getCC s n).retired then s
    else
      let unit := unitId 4 7 n
      let (s, lasting) := countError s unit 3
      if lasting then retired (modCC s n fun c => { c with retired := true }) unit else s

/-! ## Self-tests (R300) -/

/-- Determinism class of a context's job: 0 strict, 1 portable, 2 free. -/
def classOfCtx (s : State) (ctx : Nat) : Nat := (getSlot s (slotOfCtx s ctx)).cls

/-- SELF_TEST: the test of a core waits while a strict-class job is on it; else the core is drained at cheap points,
tested, and returned to service once it is empty. -/
def execSelfTest (d : Fin 4) (c : Fin 24) (s : State) : Result :=
  .next <|
    let k := coreKey d c
    let strict := (ctxsOn s k).any fun x => classOfCtx s x = 0
    if !running s || strict then s
    else
      let empty := (getCore s k).groups.isEmpty
      modCore s k fun x => { x with
        testing := !empty
        groups := tmap x.groups fun _ g => { g with saveReq := true } }

end Sys2Proof.Machine
end

