-- ==== Sys2Proof/Machine/Frames.lean ====
section
/-! DEFINITION. HBM: frame commands and their updates, zeroing, placement regions, errors, refresh (R184 to R199). -/

namespace Sys2Proof.Machine

/-! ## Changing entries (R194, R195) -/

/-- A change that zeroes the frame: owner, partition, state or share altered, or poison cleared. -/
def zeroes (old new : Own) : Bool :=
  old.owner ≠ new.owner || old.part ≠ new.part || old.state ≠ new.state || old.share ≠ new.share || (old.poison && !new.poison)

/-- Every line of the frames a test names leaves the slices, dirty data discarded. -/
def dropFrames (s : State) (p : Nat → Bool) : State :=
  modHomes s fun h => { h with
    lines := tfilter h.lines fun ln _ => !p (ln / 512)
    resvs := h.resvs.filter fun r => !p (r.line / 512) }

/-- The bytes of the frames a test names become zero. -/
def zeroFrames (s : State) (p : Nat → Bool) : State := modMem s fun m => m.filter fun c => !p (c.1 / 65536)

/-- Whether a job slot's requests have all ended. -/
def jobQuiet (s : State) (j : Nat) : Bool :=
  (s.fabric.out.filter fun r => !r.failed && (ctxsOfSlot s j).contains r.ctx.toNat).isEmpty

/-- Send STOPPED once a stopping job's requests have ended and its poisoned frames are reloaded (R290, R294). -/
def stopCheck (s : State) (j : Nat) : State :=
  let sl := getSlot s j
  if sl.stopping && sl.reload.isEmpty && jobQuiet s j then
    emit (modSlot s j fun x => { x with stopping := false }) (.epoch (coordOf s sl) sl.job 9 0 sl.committed)
  else s

/-- A frame's mark is cleared: no job waits for its reload any more (R294). -/
def reloaded (s : State) (f : Nat) : State :=
  each s (List.range 256) fun s j =>
    let sl := getSlot s j
    if sl.reload.contains f then
      let left := sl.reload.filter fun x => x ≠ f
      stopCheck (modSlot s j fun x => { x with reload := left, state := if left.isEmpty && x.state = 4 then 3 else x.state }) j
    else s

/-- Write a frame's entry; a change that zeroes drops its lines and contents and sets ZERO (R194, R195). -/
def setEntry (s : State) (f : Nat) (new : Own) : State :=
  let old := getOwn s f
  let z := zeroes old new
  let s := if z then zeroFrames (dropFrames s fun g => g = f) fun g => g = f else s
  let s := modOwn s f fun _ => { new with zero := old.zero || z, lost := false }
  if (old.poison || old.lost) && !new.poison then reloaded s f else s

/-! ## Channels -/

/-- Channels that hold the stripes of a frame. -/
def frameChannels (s : State) (f : Nat) : List Nat :=
  match regionOf s (f * 65536) with
  | none => []
  | some r => (List.range 256).map fun i => let (k, j, _) := placeIn s r (f * 65536 + 256 * i); 32 * k + j

def chanRetired (s : State) (g : Nat) : Bool := bit (getStack s (g / 32)).retired (g % 32)

def onRetired (s : State) (f : Nat) : Bool := (frameChannels s f).any (chanRetired s)

/-! ## Frame commands (R193, R194) -/

/-- What refuses a frame command: 2 access denied, 3 invalid value, 0 nothing. -/
def frameCheck (s : State) (k : Cls) (w0 w1 w2 : Nat) : Nat :=
  let first := bits w0 23 0
  let count := bits w1 63 32
  let new := ownOf w2
  let fs := (List.range count).map fun i => first + i
  let denied : Bool := match k with
    | .part p => !(fs.all fun f => let o := getOwn s f; (o.state = 1 || o.state = 2) && o.part = p) ||
        !(new.state = 1 || new.state = 2) || new.part ≠ p
    | _ => false
  if denied then 2
  else if bits w0 63 24 ≠ 0 || bits w1 31 0 ≠ 0 || bits w2 38 0 ≠ 0 || new.zero || count = 0 || new.share = 3 ||
      decide (2 ^ 24 < first + count) then 3
  else if fs.any fun f => (regionOf s (f * 65536)).isNone then 3
  else if new.state = 3 || fs.any (fun f => (getOwn s f).state = 3) then 3
  else if !new.poison && fs.any (fun f => (getOwn s f).poison && onRetired s f) then 3
  else 0

/-- FRAME_COMMAND (R193): accepted commands are applied in arrival order; the last one's result shows. -/
def frameCmd (w0 w1 w2 : Nat) : Cmd :=
  { index := 0x4010
    sub := 1
    type := 7
    may := fun s k => k.trio || (k.isPart && frameCheck s k w0 w1 w2 ≠ 2)
    check := fun s k => frameCheck s k w0 w1 w2
    apply := fun s _ => modHbm s fun h => { h with
      cmds := h.cmds ++ [{ next := bits w0 23 0, last := bits w0 23 0 + bits w1 63 32 - 1, new := ownOf w2 }]
      cmdResult := 1
      cmdDone := 0 } }

/-- Record a refusal, by its status, at the result entry; a refused command completes no frame (R193). -/
def frameResult (s : State) (status : Nat) : State :=
  if status = 2 then modHbm s fun h => { h with cmdResult := 3, cmdDone := 0 }
  else if status = 3 then modHbm s fun h => { h with cmdResult := 2, cmdDone := 0 }
  else s

def frameRefused (q : Requester) (w0 w1 w2 : Nat) (s : State) : State :=
  frameResult s (cmdStatus q (frameCmd w0 w1 w2) s).2.1

def execFrameCommand (q : Requester) (w0 w1 w2 : W64) (s : State) : Result :=
  .next (command q (frameCmd w0.toNat w1.toNat w2.toNat) (if halyard s && reaches s q then frameRefused q w0.toNat w1.toNat w2.toNat s else s))

/-- Whether an unfinished descriptor's queue-time check covered a frame. -/
def frameHeld (s : State) (f : Nat) : Bool :=
  s.disp.entries.any fun e => e.2.phase ≠ .completed && e.2.pages.any fun p =>
    match heldOf s e.2.ctx.toNat (p * 65536) with
    | some l => l.tgt = 0 && outAddr l (p * 65536) / 65536 = f
    | none => false

/-- FRAME_UPDATE (R194): the oldest command's next frame is rewritten, once no descriptor holds it. The result entry is that
of the last command: not of one that an accepted or a refused command has followed (R193). -/
def execFrameUpdate (s : State) : Result :=
  .next <|
    if !halyard s then s
    else
      match s.hbm.cmds with
      | [] => s
      | c :: rest =>
        let lastOne := rest.isEmpty && s.hbm.cmdResult ≠ 2 && s.hbm.cmdResult ≠ 3
        if frameHeld s c.next then (if lastOne then modHbm s fun h => { h with cmdResult := 4 } else s)
        else
          let s := setEntry s c.next c.new
          let ended := c.last ≤ c.next
          modHbm s fun h => { h with
            cmds := if ended then rest else { c with next := c.next + 1, done := c.done + 1 } :: rest
            cmdResult := if lastOne then (if ended then 0 else 1) else h.cmdResult
            cmdDone := if lastOne then c.done + 1 else h.cmdDone }

/-- ZEROING_COMPLETE (R195): every channel has zeroed a frame's stripes. -/
def execZeroingComplete (frame : BitVec 24) (s : State) : Result :=
  .next <|
    let f := frame.toNat
    if halyard s && (getOwn s f).zero && (regionOf s (f * 65536)).isSome then modOwn s f fun o => { o with zero := false } else s

/-! ## Placement regions (R184, R186) -/

def stripesOf (s : State) (r : Region) : Nat := if r.size = 0 then 0 else ceilDiv r.size (256 * max 1 (chanCount s r))

/-- Channels of a region's set, as global numbers. -/
def regionChannels (s : State) (r : Region) : List Nat :=
  (List.range (chanCount s r)).map fun n => let (k, j) := chanAt s r n; 32 * k + j

/-- Two active regions overlap in addresses, or in the stripes of a channel. -/
def regionsMeet (s : State) (a b : Region) : Bool :=
  a.size ≠ 0 && b.size ≠ 0 &&
  ((decide (a.base < b.base + b.size) && decide (b.base < a.base + a.size)) ||
   (decide (a.cb < b.cb + stripesOf s b) && decide (b.cb < a.cb + stripesOf s a) &&
    (regionChannels s a).any fun g => (regionChannels s b).contains g))

/-- A region after a write of one of its entries. -/
def regionWith (r : Region) (sub v : Nat) : Region :=
  match sub with
  | 1 => { r with base := v }
  | 2 => { r with size := v }
  | 3 => { r with cls := v }
  | 4 => { r with target := v }
  | _ => { r with cb := v }

/-- Frames whose mapping a write changes (R186). -/
def remapped (old new : Region) (f : Nat) : Bool :=
  let within (r : Region) : Bool := r.size ≠ 0 && decide (r.base ≤ f * 65536) && decide (f * 65536 < r.base + r.size)
  let moved := old.base ≠ new.base || old.cls ≠ new.cls || old.target ≠ new.target || old.cb ≠ new.cb
  if moved then within old || within new else within old != within new

/-- The frames of a region: its first, and the one after its last. -/
def regionSpan (r : Region) : Nat × Nat :=
  let a := ceilDiv r.base 65536
  (a, if r.size = 0 then a else ceilDiv (r.base + r.size) 65536)

/-- The frames whose mapping a write changes, as ranges from a frame up to another. -/
def remappedSpans (old new : Region) : List (Nat × Nat) :=
  let o := regionSpan old
  let n := regionSpan new
  if old.base ≠ new.base || old.cls ≠ new.cls || old.target ≠ new.target || old.cb ≠ new.cb then [o, n]
  else [(min o.2 n.2, max o.2 n.2)]

/-- The frames below this one are system where the table lists no entry of theirs (`own0`). -/
def systemTop (s : State) : Nat := if s.hbm.system then 5120 + siltP s else 4096

/-- Every frame whose mapping a write changes is free (R186). -/
def framesFree (s : State) (old new : Region) : Bool :=
  (s.hbm.own.all fun e => e.2.state = 0 || !remapped old new e.1) &&
  ((remappedSpans old new).all fun p =>
    let top := min p.2 (systemTop s)
    top ≤ p.1 || decide ((s.hbm.own.filter fun e => p.1 ≤ e.1 && decide (e.1 < top)).length = top - p.1))

def regionBad (s : State) (r : Nat) (new : Region) : Bool :=
  let top := match new.cls with
    | 0 => 1
    | 1 => 4
    | 2 => 12
    | _ => 64
  new.base % 65536 ≠ 0 || decide (2 ^ 40 ≤ new.base) || new.size % 65536 ≠ 0 || decide (2 ^ 40 < new.base + new.size) ||
  decide (3 < new.cls) || decide (top ≤ new.target) || (new.cls = 3 && (getPart s new.target).channels = 0) ||
  decide (7812500 < new.cb + stripesOf s new) ||
  s.hbm.regions.any fun e => e.1 ≠ r && regionsMeet s e.2 new

/-- Frames that a write lays on a retired channel: they are marked poisoned, as those that lay there when it was retired
(R197). -/
def hurtFrames (s : State) (p : Nat → Bool) (new : Region) : List Nat :=
  if (List.range 12).all fun k => (getStack s k).retired = 0 then []
  else
    let span := regionSpan new
    ((List.range (span.2 - span.1)).map fun i => span.1 + i).filter fun f => p f && onRetired s f

def regionCmd (r sub v : Nat) : Cmd :=
  { index := 0x4100 + r
    sub := sub
    type := match sub with
      | 1 => 3
      | 2 => 3
      | 3 => 6
      | 4 => 0
      | _ => 2
    may := fun _ k => k.trio
    check := fun s _ =>
      let old := tget s.hbm.regions r {}
      let new := regionWith old sub v
      if regionBad s r new then 3 else if framesFree s old new then 0 else 4
    apply := fun s _ =>
      let old := tget s.hbm.regions r {}
      let new := regionWith old sub v
      let p := remapped old new
      let s := zeroFrames (dropFrames s p) p
      let s := modHbm s fun h => { h with
        regions := tput h.regions r new
        own := tmap h.own fun f o => if p f then { o with zero := true } else o }
      each s (hurtFrames s p new) fun s f => modOwn s f fun o => { o with poison := true } }

/-- PLACEMENT_REGION_WRITE (R186): sub-indices 01 to 05 of a region; the others are read-only. -/
def execPlacementRegionWrite (q : Requester) (r : Byte) (sub : Byte) (value : W64) (s : State) : Result :=
  .next (if 1 ≤ sub.toNat && sub.toNat ≤ 5 then command q (regionCmd r.toNat sub.toNat value.toNat) s else s)

/-! ## Errors, refresh and calibration (R196 to R198) -/

/-- An active region's frames. -/
def coveredFrames (s : State) : List Nat :=
  s.hbm.regions.flatMap fun e => (List.range (e.2.size / 65536)).map fun i => e.2.base / 65536 + i

/-- Retire a channel: its frames are poisoned; a stack with none left is lost, and so are the jobs with frames on it
(R197, R293). -/
def retireChannel (s : State) (k j : Nat) : State :=
  let g := 32 * k + j
  let s := modStack s k fun x => { x with retired := Nat.lor x.retired (2 ^ j) }
  let lost := (getStack s k).retired = 2 ^ 32 - 1
  let s := modStack s k fun x => { x with state := if lost then 3 else 2 }
  let s := alarm (retired s (unitId (k / 3) 4 (32 * (k % 3) + j))) 10
  let s := each s (coveredFrames s) fun s f =>
    if (frameChannels s f).contains g then modOwn s f fun o => { o with poison := true } else s
  if lost then
    let hit := s.hbm.own.filter fun e => e.2.state = 2 && (frameChannels s e.1).any fun c => c / 32 = k
    each s (hit.map fun e => e.2.owner).eraseDups fun s c => hardwareFault s c 5 0 0 []
  else s

/-- A lane's fault is lasting: its traffic moves to a spare, or the channel is retired (R197). -/
def laneLasting (s : State) (k j : Nat) : State :=
  if tget (getStack s k).chanSpares j 0 < Config.spareLanes (32 * k + j) then
    modStack s k fun x => { x with spares := x.spares + 1, chanSpares := tmod x.chanSpares j 0 fun n => n + 1 }
  else if chanRetired s (32 * k + j) then s
  else retireChannel s k j

/-- Uncorrectable read data: the line, brought in, is repaired from a replica or held poisoned (R178, R302). -/
def uncorrectable (s : State) (k ln : Nat) : State :=
  let s := modStack s k fun x => { x with uncorrectable := x.uncorrectable + 1 }
  match replicaOf s (ln * 128) with
  | some (r, _) => modEpochs s fun e => { e with replicas := tadj e.replicas r fun x => { x with repaired := x.repaired + 1 } }
  | none => modLine (present s { who := .sys, agent := 256 } ln) ln fun l => if l.st = .I then l else { l with poison := true }

def poisonFrame (s : State) (f : Nat) : State := modOwn s f fun o => { o with poison := true }

def reissued (s : State) (k : Nat) : State := modStack s k fun x => { x with reissues := x.reissues + 1 }

/-- HBM_ERROR (R196): each error has the outcome of the table, and is counted against its channel. -/
def execHbmError (k : Fin 12) (j : Fin 32) (e : HbmErr) (line : BitVec 33) (s : State) : Result :=
  .next <|
    if !halyard s then s
    else
      let ln := line.toNat
      let f := ln / 512
      let s := match e with
        | .corrected => modStack s k fun x => { x with corrections := x.corrections + 1 }
        | .uncorrectable => uncorrectable s k ln
        | .readParity ok => if ok then reissued s k else uncorrectable s k ln
        | .writeParity ok => if ok then reissued s k else poisonFrame s f
        | .bufferRead => uncorrectable s k ln
        | .bufferWrite => poisonFrame s f
        | .ownCache => s
        | .ownOne => s
        | .ownBoth => alarm (each s (List.range 16) fun s i => modOwn s (f / 16 * 16 + i) fun o => { o with lost := true }) 1
      let (s, lasting) := countError s (unitId (k.val / 3) 4 (32 * (k.val % 3) + j.val)) 4
      if lasting then laneLasting s k j else s

/-- PER_BANK_REFRESH (R198). -/
def execPerBankRefresh (k : Fin 12) (j : Fin 32) (bank : Byte) (s : State) : Result :=
  .next (if halyard s then
    emit (modStack s k fun x => { x with banks := tput x.banks j bank.toNat }) (.refresh k j bank.toNat) else s)

/-- HBM_TEMPERATURE_CHANGE (R198): refresh doubles above 85 °C and returns to normal below 82 °C. -/
def execHbmTemperatureChange (k : Fin 12) (celsius : Int) (s : State) : Result :=
  .next <|
    if !halyard s then s
    else
      let x := getStack s k
      let s := modStack s k fun x => { x with
        temp := some celsius
        refresh := if 85 < celsius then 1 else if celsius < 82 then 0 else x.refresh }
      if 85 < celsius && x.refresh = 0 then alarm s 11 else s

/-- INTERFACE_RECALIBRATION (R198): channel by channel through the stack; the last one completes the pass. -/
def execInterfaceRecalibration (k : Fin 12) (j : Fin 32) (s : State) : Result :=
  .next (if halyard s then
    emit (modStack s k fun x => { x with passes := if j.val = 31 then x.passes + 1 else x.passes }) (.refresh k j 0xFF) else s)

end Sys2Proof.Machine
end

