-- ==== Sys2Proof/Machine/Records.lean ====
section
/-! DEFINITION. Records the dispatcher writes to memory: completion records, trap records, fault records, and what
resolves them (R44, R215 to R221, R318, R334). -/

namespace Sys2Proof.Machine

/-- The dispatcher writes bytes to local memory in order. -/
def dispWrite (s : State) (pa : Nat) (bs : List Byte) : State := homeWriteAll s byDispatcher pa bs
def dispWord (s : State) (pa v : Nat) : State := dispWrite s pa (natLe 8 v)

/-! ## Completion records (R334) -/

/-- µs from fetch to completion, saturating. -/
def elapsedOf (x : Entry) : Nat := min (usOf (x.ended.toNat - x.fetched.toNat)) (2 ^ 32 - 1)

/-- Deadline of a step; 0 for none. -/
def deadlineOf (x : Entry) : Nat := if bits (nth x.words 0 0) 63 60 = 4 then bits (nth x.words 2 0) 63 32 else 0

/-- The 32 bytes of a completion record. -/
def recordBytes (x : Entry) : List Byte :=
  let el := elapsedOf x
  let miss := deadlineOf x ≠ 0 && decide (deadlineOf x < el)
  natLe 8 x.seq ++
  natLe 8 (flds [(32, x.user), (20, x.ctx.toNat), (12, x.status), (11, b2n x.late), (10, b2n x.fallback),
    (9, b2n x.replay), (8, b2n miss), (7, b2n x.nr)]) ++
  natLe 8 x.val ++ natLe 8 (flds [(32, el), (24, x.cause)])

/-- Notify through a queue's FUNC and VECTOR: a function's MSI-X, or a control core. -/
def notify (s : State) (h : Nat) (q : Queue) : State :=
  if q.func = 0xFE then emit s (.interrupt q.vector (Config.notifySource h))
  else if q.func ≤ 65 then emit s (.msix q.func q.vector)
  else s

/-- The first entry in completion order whose record goes to a queue's ring. -/
def firstWaiting (s : State) (h : Nat) : Option Nat :=
  s.disp.order.find? fun e => match getEntry s e with | some x => x.queue = h | none => false

/-- Free a deleted queue once none of its descriptors is left (R323). -/
def queueGone (s : State) (h : Nat) : State :=
  match getQueue s h with
  | none => s
  | some q =>
    if q.deleting && !(s.disp.entries.any fun e => e.2.queue = h) then
      freeHandle (modDisp s fun d => { d with queues := tdel d.queues h }) h
    else s

/-- Forget an entry. -/
def dropEntry (s : State) (e : Nat) : State :=
  modDisp s fun d => { d with entries := tdel d.entries e, order := d.order.filter fun x => x ≠ e }

/-- Write the record of a completed entry, where its turn has come and its ring has room. -/
def writeRecord (s : State) (e : Nat) : State :=
  match getEntry s e with
  | none => s
  | some x =>
    match getQueue s x.queue with
    | none => if x.phase = .completed then dropEntry s e else s
    | some q =>
      let size := 2 ^ (q.clogn + 6)
      let (s, hd, _) := homeRead s byDispatcher (q.compl + 128) 8
      if x.phase ≠ .completed || x.heldFor.isSome || firstWaiting s x.queue ≠ some e || decide (size ≤ q.ctail - leNat hd) then s
      else
        let s := dispWrite s (q.compl + 256 + 32 * (q.ctail % size)) (recordBytes x)
        let s := dispWord s q.compl (q.ctail + 1)
        let s := modQueue s x.queue fun q => { q with ctail := q.ctail + 1 }
        let s := if bit (nth x.words 0 0) 56 then notify s x.queue q else s
        queueGone (dropEntry s e) x.queue

/-- Write every record that can be written. -/
def writeRecords (s : State) (es : List Nat) : State := each s es writeRecord

/-! ## Trap queues (R44, R318) -/

def trapCap (c : Ctx) : Nat := 2 ^ (c.traplog + 6)

/-- The 32 bytes of a trap record. -/
def trapBytes (r : TrapRec) : List Byte :=
  natLe 8 (flds [(52, r.ctx.toNat), (44, r.cause.toNat), (41, r.die.toNat), (36, r.core.toNat), (29, r.group.toNat),
    (24, r.lane.toNat)]) ++
  natLe 8 r.pc.toNat ++ natLe 8 r.val.toNat ++ natLe 8 (flds [(32, r.seq.toNat), (0, r.lanemask.toNat)])

/-- Append a trap record to its context's queue and interrupt the context's core; a full queue makes it wait. -/
def appendTrap (s : State) (r : TrapRec) : State :=
  let k := r.ctx.toNat
  match getCtx s k with
  | none => s
  | some c =>
    if c.trapTail - c.trapHead < trapCap c then
      let s := dispWrite s (c.trapq + 256 + 32 * (c.trapTail % trapCap c)) (trapBytes r)
      let s := dispWord s c.trapq (c.trapTail + 1)
      let s := modCtx s k fun c => { c with trapTail := c.trapTail + 1 }
      let s := event s 4 unitDispatcher 0x201 k r.cause.toNat (r.pc.toNat / 65536 * 65536) false
      emit s (.interrupt c.trapcore (0x5000 + k))
    else modCtx s k fun c => { c with trapWait := c.trapWait ++ [r] }

/-- The dispatcher reads a trap queue's HEAD, and waiting records follow as room allows. -/
def trapHeadSeen (s : State) (k : Nat) : State :=
  match getCtx s k with
  | none => s
  | some c =>
    let (s, bs, _) := homeRead s byDispatcher (c.trapq + 128) 8
    let hd := max c.trapHead (min (leNat bs) c.trapTail)
    let s := modCtx s k fun c => { c with trapHead := hd, trapWait := [] }
    each s c.trapWait appendTrap

/-- The entry a group of a trap record runs for. -/
def entryOfTrap (s : State) (r : TrapRec) : Option Nat :=
  (getGroup s (24 * r.die.toNat + r.core.toNat) r.group.toNat).map fun g => g.entry

def ctxLive (s : State) (k : Nat) : Bool := match getCtx s k with | some c => c.state = .live | none => false

/-- TRAP_RECORD (R44, R320): the record is appended; a program fault ends the context, a hardware fault tears it
down. -/
def execTrapRecord (r : TrapRec) (s : State) : Result :=
  .next <|
    let k := r.ctx.toNat
    let cause := r.cause.toNat
    if !running s || (getCtx s k).isNone then s
    else
      let e := entryOfTrap s r
      let frame := (peek s r.die.toNat k r.val.toNat).map fun pa => pa / 65536
      let s := appendTrap s r
      if !ctxLive s k || handledCause cause then s
      else if cause = cPoison then hardwareFault s k 3 cause r.pc.toNat frame.toList
      else if hardwareCause cause then hardwareFault s k 2 cause r.pc.toNat []
      else programFault s k e r.pc.toNat cause

/-! ## Fault records (R217 to R221) -/

def ringOn (r : FaultRing) : Bool := r.base ≠ 0 && r.n ≠ 0

/-- Words 0 and 2 of a fault record. -/
def faultWord0 (r : OpenRec) : Nat :=
  let f := r.rec0
  flds [(52, f.ctx.toNat), (46, f.part.toNat), (45, b2n f.program), (41, f.reason.toNat), (37, f.access.toNat),
    (34, f.first.toNat), (0, r.seq)]
def faultWord2 (r : OpenRec) : Nat := flds [(32, r.joined), (29, r.rec0.level.toNat)]

def faultAddr (r : FaultRing) (i : Nat) : Nat := r.base + 256 + 32 * (i % r.n)

/-- Write a record to its partition's ring, where the ring has room. -/
def faultWrite (s : State) (o : OpenRec) : State × OpenRec :=
  let p := o.rec0.part.toNat
  let r := getRing s p
  if o.index.isSome || !ringOn r || decide (r.n ≤ r.tail - r.hd) then (s, o)
  else
    let o := { o with index := some r.tail, seq := s.xlat.seq }
    let bytes := natLe 8 (faultWord0 o) ++ natLe 8 o.rec0.va.toNat ++ natLe 8 (faultWord2 o) ++
      natLe 8 (if o.rec0.program then 2 else 0)
    let s := dispWrite s (faultAddr r r.tail) bytes
    let s := dispWord s r.base (r.tail + 1)
    let s := modRing s p fun r => { r with tail := r.tail + 1, written := r.written + 1 }
    let s := modXlat s fun x => { x with seq := (x.seq + 1) % 2 ^ 32 }
    (emit s (.interrupt r.core (0x100 + p)), o)

/-- Write the records that wait for ring space, oldest first; a closed one that is written is forgotten (R221). -/
def faultFlush (s : State) : List OpenRec → State × List OpenRec
  | [] => (s, [])
  | o :: r =>
    let (s, o) := faultWrite s o
    let (s, rest) := faultFlush s r
    (s, if o.closed && (o.index.isSome || !ringOn (getRing s o.rec0.part.toNat)) then rest else o :: rest)

def flushRecords (s : State) : State :=
  let (s, rs) := faultFlush s s.xlat.records
  modXlat s fun x => { x with records := rs }

/-- A waiter resumes: a group at its faulting instruction, a descriptor's footprint again; a group whose commit is
in progress stays at the cut (R220, R288). -/
def wake (s : State) (w : Waiter) : State :=
  match w with
  | .entry n => modEntry s n.toNat fun e => { e with waiting := false }
  | .group d c sl =>
    let k := coreKey d c
    match getGroup s k sl with
    | some g =>
      if g.waiting then
        modGroup (if g.gstate = .running then s else cutFirst s k sl g) k sl fun g =>
          { g with waiting := false, halting := false, gstate := .running, cause := 0 }
      else s
    | none => s

/-- Context and entry of a waiter. -/
def waiterWork (s : State) (w : Waiter) : Option (Nat × Nat) :=
  match w with
  | .entry n => (getEntry s n.toNat).map fun e => (e.ctx.toNat, n.toNat)
  | .group d c sl => (getGroup s (coreKey d c) sl).map fun g => (g.ctx.toNat, g.entry)

/-- A waiter's context ends with a program fault (R219, R220). -/
def failWaiter (s : State) (va : Nat) (w : Waiter) : State :=
  match waiterWork s w with
  | some (k, e) => programFault s k (some e) va cTranslation
  | none => s

/-- One requester stalled for want of an open record translates again (R221). -/
def unstall (s : State) : State :=
  match s.xlat.stalled with
  | [] => s
  | p :: r => wake (modXlat s fun x => { x with stalled := r }) p.1

/-- Act on a record with a result, and close it (R220). -/
def closeRecord (s : State) (o : OpenRec) (result : Nat) : State :=
  let same (x : OpenRec) : Bool := x.rec0.ctx = o.rec0.ctx && x.rec0.va = o.rec0.va && !x.closed
  let s := modXlat s fun x => { x with records := x.records.filter fun r => !same r || r.index ≠ o.index }
  let s := if result = 0 || result = 1 then each s o.waiters wake else each s o.waiters fun s w => failWaiter s o.rec0.va.toNat w
  unstall s

/-- Whether a waiter still waits. -/
def stillWaits (s : State) : Waiter → Bool
  | .entry n => match getEntry s n.toNat with | some e => e.waiting | none => false
  | .group d c sl => match getGroup s (coreKey d c) sl with | some g => g.waiting | none => false

/-- FAULT_NOTICE (R218): a fault joins the open record of its context and page, or opens one. -/
def execFaultNotice (w : Waiter) (r : FaultRec) (s : State) : Result :=
  .next <|
    if !running s || !stillWaits s w then s
    else
      let p := r.part.toNat
      let mine (o : OpenRec) : Bool := o.rec0.ctx = r.ctx && o.rec0.va = r.va && !o.closed
      match s.xlat.records.find? mine with
      | some o =>
        let n := { o with
          rec0 := { o.rec0 with access := o.rec0.access ||| r.access }
          waiters := o.waiters ++ [w]
          joined := o.joined + 1 }
        let s := modXlat s fun x => { x with records := x.records.map fun q => if mine q then n else q }
        let s := modRing s p fun x => { x with joined := x.joined + 1 }
        (match n.index with
         | some i =>
           let a := faultAddr (getRing s p) i
           dispWord (dispWord s a (faultWord0 n)) (a + 16) (faultWord2 n)
         | none => s)
      | none =>
        if !ringOn (getRing s p) then failWaiter s r.va.toNat w
        else if 4096 ≤ (s.xlat.records.filter fun o => !o.closed).length then
          modXlat s fun x => { x with stalled := x.stalled ++ [(w, r)] }
        else
          let s := event s 4 unitDispatcher 0x202 r.ctx.toNat r.reason.toNat (r.va.toNat / 65536 * 65536) false
          let o : OpenRec := { rec0 := r, waiters := [w], closed := r.program }
          let s := flushRecords (modXlat s fun x => { x with records := x.records ++ [o] })
          if r.program then failWaiter s r.va.toNat w else s

/-- The dispatcher sees HEAD of a ring read `head`, and acts on the records below it (R220). -/
def ringSeen (s : State) (p head : Nat) : State :=
  let r := getRing s p
  if !running s || !ringOn r then s
  else
    let s := match r.handle with | some h => clearWatch s h | none => s
    let hd := max r.hd (min head r.tail)
    let act (s : State) (i : Nat) : State :=
      match s.xlat.records.find? fun o => o.rec0.part.toNat = p && o.index = some i && !o.closed with
      | some o => let (s, bs, _) := homeRead s byDispatcher (faultAddr r i + 24) 8; closeRecord s o (leNat bs % 4)
      | none => s
    let s := each s ((List.range (hd - r.hd)).map fun i => r.hd + i) act
    flushRecords (modRing s p fun r => { r with hd := hd })

/-- FAULT_RECORD_RESOLVE (R220). -/
def execFaultRecordResolve (p : Fin 64) (head : W64) (s : State) : Result := .next (ringSeen s p head.toNat)

/-! ## Fault rings (R217) -/

/-- A range of frames that satisfies a test in every frame. -/
def rangeFrames (pa n : Nat) (p : Nat → Bool) : Bool :=
  (List.range ((pa + n - 1) / 65536 + 1 - pa / 65536)).all fun i => p (pa / 65536 + i)

/-- Frames that may hold a ring of a partition. -/
def ringFrame (s : State) (p f : Nat) : Bool :=
  let o := getOwn s f
  (o.state = 3 && decide (4352 ≤ f) && decide (f < 5120)) || ((o.state = 1 || o.state = 2) && o.part = p)

def watchesOn (s : State) (ln : Nat) : Nat := (s.disp.watches.filter fun w => w.2.line = ln).length

def ringWith (r : FaultRing) (sub v : Nat) : FaultRing :=
  match sub with
  | 1 => { r with base := v }
  | 2 => { r with n := v }
  | _ => { r with core := v }

/-- What refuses a write of a fault ring's entry. -/
def ringCheck (s : State) (p sub v : Nat) : Nat :=
  let old := getRing s p
  let new := ringWith old sub v
  let value : Bool := match sub with
    | 1 => v % 4096 = 0 && decide (v < 2 ^ 40)
    | 2 => v = 0 || [64, 128, 256, 512, 1024, 2048, 4096, 8192, 16384, 32768, 65536].contains v
    | _ => decide (v < 96)
  let moves := ringOn new && (!ringOn old || new.base ≠ old.base)
  let freed : Nat := if ringOn old then 1 else 0
  let quota := decide ((getPart s p).watches < (getPart s p).watchQuota + freed)
  let handles := decide (watchesOn s ((new.base + 128) / 128) < 4)
  if !value then 3
  else if sub ≠ 3 && ringOn new && (new.base ≠ old.base || new.n ≠ old.n || !ringOn old) &&
      !(rangeFrames new.base (256 + 32 * new.n) (ringFrame s p)) then 3
  else if sub ≠ 3 && moves && (!handles || !quota) then 3
  else if sub ≠ 3 && s.xlat.records.any (fun o => o.rec0.part.toNat = p && !o.closed) then 4
  else 0

/-- Apply a ring's new setting: disabling or moving frees its handle, enabling or moving takes one (R217, R220). -/
def ringApply (s : State) (p sub v : Nat) : State :=
  let old := getRing s p
  let new := ringWith old sub v
  let moves := ringOn new && (!ringOn old || new.base ≠ old.base)
  let drops := ringOn old && (!ringOn new || moves)
  let s := if drops then (match old.handle with | some h => freeHandle s h | none => s) else s
  let s := modRing s p fun _ => { new with handle := if drops then none else old.handle }
  if moves then
    let (s, h) := takeHandle s p ((new.base + 128) / 128) (.ring p) 0
    let (s, bs, _) := homeRead s byDispatcher new.base 8
    modRing s p fun r => { r with handle := h, tail := leNat bs, hd := leNat bs }
  else s

def ringCmd (p sub v : Nat) : Cmd :=
  { index := 0x4500 + p
    sub := sub
    type := match sub with
      | 1 => 3
      | 2 => 2
      | _ => 0
    may := fun _ k => k.trio || (match k with | .part q => q = p | _ => false)
    check := fun s _ => ringCheck s p sub v
    apply := fun s _ => ringApply s p sub v }

/-- FAULT_RING_WRITE (R217): sub-indices 01 to 03; the others are read-only. -/
def execFaultRingWrite (q : Requester) (p : Fin 64) (sub : Byte) (value : W64) (s : State) : Result :=
  .next (if 1 ≤ sub.toNat && sub.toNat ≤ 3 then command q (ringCmd p sub.toNat value.toNat) s else s)

end Sys2Proof.Machine
end

