-- ==== Sys2Proof/Machine/Partitions.lean ====
section
/-! DEFINITION. Partitions, contexts and queues: the commands that create, reset, squash and destroy them, and the
reproducibility signature a context records (R242, R299, R306 to R313, R317 to R323). -/

namespace Sys2Proof.Machine

/-! ## Signature (R306) -/

/-- The disabled-unit map's 96 bytes (R299). -/
def unitMap (s : State) : List Byte := (List.range 96).map fun k => BitVec.ofNat 8 (physOf s k)

/-- The reproducibility signature (R306). -/
def signature (s : State) : W64 :=
  let revs := (List.range 5).flatMap fun d => natLe 2 (Config.dieRevision d).toNat
  let input := revs ++ natLe 4 s.sec.version ++ natLe 8 (capSet s).toNat ++ unitMap s ++ natLe 1 s.defRm ++ natLe 1 s.defOvf
  BitVec.ofNat 64 (leNat ((sha384 input).take 8))

/-! ## Commands and their results (R313) -/

def wordAt (ws : List W64) (i : Nat) : Nat := (nth ws i 0).toNat

/-- OP of a command's word 0. -/
def opOf (ws : List W64) : Nat := bits (wordAt ws 0) 63 56

def setResult (s : State) (kind : Nat) (q : Requester) (res num : Nat) : State :=
  modDisp s fun d => { d with results := tput d.results (128 * kind + transport q) (res, num) }

/-- Result code of a refusal by its status. -/
def resultOf (status : Nat) : Nat := if status = 2 then 3 else if status = 4 then 4 else 2

/-- Run a partition, context or queue command: length, checks, effect, result entry. `kind` is 0, 1 or 2. -/
def bigCommand (q : Requester) (kind words : Nat) (ws : List W64) (c : Cmd) (s : State) : State :=
  if !halyard s || !reaches s q then s
  else if (windowPort q).isSome then answer s q 0 c.index c.sub 3 c.type []
  else
    let (t, status, k) := cmdStatus q c s
    let short := ws.length ≠ words
    let status := if short && (status = 0 || status = 3 || status = 4) then 5 else status
    let t := match k with
      | some k => if short then t else c.apply t k
      | none => if status = 2 || status = 3 || status = 4 || status = 5 then setResult t kind q (resultOf status) 0 else t
    answer t q 0 c.index c.sub status (if status = 6 || status = 7 then 0 else c.type) []

/-! ## Partitions (R307 to R312) -/

def partCores (ws : List W64) : Nat := wordAt ws 1 + bits (wordAt ws 2) 31 0 * 2 ^ 64
def partCcores (ws : List W64) : Nat := wordAt ws 3 + bits (wordAt ws 4) 31 0 * 2 ^ 64
def partChans (ws : List W64) : Nat := (List.range 6).foldl (fun n i => n + wordAt ws (7 + i) * 2 ^ (64 * i)) 0
def partNum (ws : List W64) : Nat := bits (wordAt ws 0) 55 50

/-- Partitions that exist. -/
def activeParts (s : State) : List (Nat × Partition) := s.disp.parts.filter fun p => p.2.state ≠ 0

/-- res0 fields of a partition command. -/
def partRes0 (ws : List W64) : Bool :=
  let create := opOf ws = 1
  bits (wordAt ws 0) 49 32 ≠ 0 || (opOf ws ≠ 2 && bits (wordAt ws 0) 31 0 ≠ 0) ||
  (create && (bits (wordAt ws 2) 63 32 ≠ 0 || bits (wordAt ws 4) 63 32 ≠ 0 || bits (wordAt ws 5) 63 48 ≠ 0 ||
    bits (wordAt ws 6) 35 0 ≠ 0)) ||
  (!create && (ws.drop 1).any fun w => w ≠ 0)

/-- What refuses a create (R310). -/
def createBad (s : State) (ws : List W64) : Bool :=
  let ways := bits (wordAt ws 5) 47 40
  let slices := bits (wordAt ws 5) 39 0
  let watchq := bits (wordAt ws 6) 63 49
  let ctxq := bits (wordAt ws 6) 48 36
  let meets (x : Nat) (f : Partition → Nat) : Bool := (activeParts s).any fun p => Nat.land x (f p.2) ≠ 0
  (getPart s (partNum ws)).state ≠ 0 ||
  meets (partCores ws) Partition.cores || meets (partCcores ws) Partition.ccores || meets (partChans ws) Partition.channels ||
  partCores ws = 0 || !(ways = 0 || (decide (4 ≤ ways) && decide (ways ≤ 12))) ||
  (ways = 0) != (slices = 0) ||
  ((bitsSet 40 slices).any fun sl => decide (16 < waysAssigned s sl + ways + 4)) ||
  decide (16384 < watchq + (activeParts s).foldl (fun n p => n + p.2.watchQuota) 0) ||
  ctxq = 0 || decide (4096 < ctxq + (activeParts s).foldl (fun n p => n + p.2.ctxQuota) 0) ||
  s.epochs.slots.any fun j => Nat.land j.2.cset (partCcores ws) ≠ 0

/-- A host-PF command under mode 0 may name only partitions of its port, or of either (R309). -/
def hostMay (s : State) (k : Cls) (p : Nat) : Bool :=
  match k with
  | .host n => s.disp.portMode ≠ 0 || (getPart s p).port = n || (getPart s p).port = 2
  | _ => true

/-- Lines of an owner's ways in a slice beyond what the ways hold, oldest first, leave it (R167). -/
def shrinkWays (s : State) (w slice : Nat) : State :=
  let mine := sortBy (fun p => p.2.stamp) (s.homes.lines.filter fun p => homeOf s (p.1 * 128) = slice && p.2.ways = w)
  each s mine fun s p =>
    let n := waysCount s w slice (setOf (p.1 * 128))
    if n < ((setLines s slice (setOf (p.1 * 128))).filter fun x => x.2.ways = w).length then evict s p.1 else s

/-- Every line in a partition's ways leaves the slices (R167). -/
def clearWays (s : State) (p : Nat) : State :=
  each s (s.homes.lines.filter fun l => l.2.ways = p) fun s l => evict s l.1

/-- No line is left in the caches of a control core; what it had modified stays the line's content (R397). -/
def forgetCopies (n : Nat) (_ : Nat) (l : Line) : Line :=
  match l.st with
  | .X => if l.owner = n then { l with st := .V, dirty := l.dirty || l.mod, mod := false, owner := 0, sharers := [], hint := false } else l
  | .S =>
    let left := l.sharers.filter fun c => c ≠ n
    { l with sharers := left, st := if left.isEmpty then .V else .S }
  | _ => l

/-- A control core enters or leaves a partition: its caches are emptied and its general registers zero (R397). -/
def ccEnter (s : State) (n : Nat) : State :=
  let s := modHomes s fun h => { h with lines := tmap h.lines (forgetCopies n) }
  modCC s n fun c => { c with th := { c.th with gpr := [] }, icache := [] }

/-- Create a partition (R310, R325, R397). -/
def partApply (q : Requester) (ws : List W64) (s : State) : State :=
  let p := partNum ws
  let slices := bits (wordAt ws 5) 39 0
  let s := modPart s p fun _ =>
    { state := 1
      cores := partCores ws
      ccores := partCcores ws
      ways := bits (wordAt ws 5) 47 40
      slices := slices
      watchQuota := bits (wordAt ws 6) 63 49
      ctxQuota := bits (wordAt ws 6) 48 36
      port := portOf q
      guaranteed := 1024 * popN 96 (partCores ws) / 96
      channels := partChans ws }
  let s := each s (bitsSet 40 slices) fun s sl => shrinkWays s 64 sl
  let s := each s (bitsSet 96 (partCcores ws)) ccEnter
  setResult s 0 q 0 p

/-- What refuses any partition command, by its status (R309 to R313). -/
def partCheck (s : State) (ws : List W64) : Nat :=
  let p := getPart s (partNum ws)
  let busy := p.state = 2 || p.state = 3 || p.state = 4
  if partRes0 ws then 3
  else if busy && !(opOf ws = 3 && p.state = 2) then 4
  else
    match opOf ws with
    | 1 => if createBad s ws then 3 else 0
    | 4 =>
      if p.state ≠ 1 || p.contexts ≠ 0 || s.disp.vfs.any (fun v => v.2.enabled && v.2.part = partNum ws) then 4
      else if s.hbm.regions.any (fun r => r.2.size ≠ 0 && r.2.cls = 3 && r.2.target = partNum ws) then 3
      else 0
    | _ => if p.state = 0 then 3 else 0

def partCmd (ws : List W64) (apply : State → State) : Cmd :=
  { index := 0x3100
    sub := 1
    type := 7
    may := fun s k => k.trio && hostMay s k (partNum ws)
    check := fun s _ => partCheck s ws
    apply := fun s _ => apply s }

/-- A row of the partition commands: it occurs where word 0 holds its OP. -/
def partRow (op : Nat) (q : Requester) (ws : List W64) (apply : State → State) (s : State) : Result :=
  .next (if opOf ws = op then bigCommand q 0 13 ws (partCmd ws apply) s else s)

def execPartitionCreate (q : Requester) (words : List W64) (s : State) : Result :=
  partRow 1 q words (partApply q words) s

/-! ## Ends of contexts and queues (R321, R323) -/

/-- Delete a queue at once with whatever of it is left, and free its handle. -/
def killQueue (s : State) (h : Nat) : State :=
  let es := (s.disp.entries.filter fun e => e.2.queue = h).map Prod.fst
  let s := each (writeRecords s es) es dropEntry
  freeHandle (modDisp s fun d => { d with queues := tdel d.queues h }) h

def queuesOf (s : State) (ctx : Nat) : List Nat := (s.disp.queues.filter fun q => q.2.ctx.toNat = ctx).map Prod.fst

/-- A job slot left with no context is unbound; its slots of the silt pool are free. -/
def unbindSlot (s : State) (j : Nat) : State :=
  if !(ctxsOfSlot s j).isEmpty then s
  else
    let mine := (s.epochs.silt.filter fun p => p.2.slot = j && p.2.kind = 1).map Prod.fst
    let s := each s mine siltFree
    modSlot s j fun x => { x with
      committed := 0, mirrored := 0, state := 0, commits := 0, rollbacks := 0, copied := [], seq := 0, overflowed := false
      asked := false, target := 0, faultClass := 0, reload := [], stopping := false, cutFor := none, far := []
      restoreAt := none }

/-- Destroy a context (R321): torn down, its queues and handles freed, its frames reserved to its partition and
zeroed. -/
def destroyCtx (s : State) (k : Nat) : State :=
  match getCtx s k with
  | none => s
  | some c =>
    let b := BitVec.ofNat 12 k
    let s := completeAll (teardown s b) b 6 0 0
    let s := each s (queuesOf s k) killQueue
    let s := each s ((s.disp.watches.filter fun w => w.2.ctx = b && w.2.part = c.part &&
      (match w.2.consumer with | .ring _ => false | _ => true)).map Prod.fst) freeHandle
    let owned := (s.hbm.own.filter fun e => e.2.state = 2 && e.2.owner = k).map Prod.fst
    let s := each s owned fun s f => let o := getOwn s f; setEntry s f { o with owner := 0, state := 1, share := 0, presv := false }
    let s := modDisp s fun d => { d with ctxs := tdel d.ctxs k, history := d.history.filter fun h => h.ctx ≠ b }
    let s := modPart s c.part fun p => { p with contexts := p.contexts - 1 }
    event (unbindSlot s c.slot) 4 unitDispatcher 0x102 k 0 0 false

def ctxsOfPart (s : State) (p : Nat) : List Nat := (s.disp.ctxs.filter fun c => c.2.part = p).map Prod.fst

/-! ## Resets of a partition (R311) -/

/-- Steps 3 and 4: everything of the partition is freed and zeroed, and it is active again. -/
def resetFinish (s : State) (p : Nat) : State :=
  let s := each s (ctxsOfPart s p) destroyCtx
  let s := each s ((s.disp.watches.filter fun w => w.2.part = p &&
    (match w.2.consumer with | .ring _ => false | _ => true)).map Prod.fst) freeHandle
  let s := clearWays s p
  let clean (c : Core) : Core := { c with ls := [], cohorts := [], array := { phase := c.array.phase, ramp := c.array.ramp, nans := c.array.nans, rows := c.array.rows, holds := c.array.holds } }
  let s := { s with cores := tmap s.cores fun k c => if bit (getPart s p).cores k then clean c else c }
  let done (v : Nat × Nat) : Nat × Nat := if v = (1, p) then (0, p) else v
  let s := modPart s p fun x => { x with state := 1, limit := 0 }
  let s := modDisp s fun d => { d with
    results := tmap d.results fun k v => if k < 128 then done v else v
    vfs := tmap d.vfs fun _ v => if v.part = p then { v with flr := false } else v }
  s

/-- Whether any work of a partition is left: fetched descriptors, or pre-empted groups. -/
def partBusy (s : State) (p : Nat) : Bool :=
  s.disp.entries.any (fun e => partOfCtx s e.2.ctx.toNat = p) ||
  s.disp.ctxs.any fun c => c.2.part = p && (!c.2.saved.isEmpty || (c.2.state = .torn && (getSlot s c.2.slot).protect ≠ 0 &&
    (getSlot s c.2.slot).state ≠ 6))

/-- A drain with no work left goes on to its end. -/
def drainCheck (s : State) (p : Nat) : State :=
  if (getPart s p).state = 2 && !partBusy s p then resetFinish (modPart s p fun x => { x with state := 4 }) p else s

/-- Squash a partition from step 2 on. -/
def squashPart (s : State) (p : Nat) : State :=
  let s := modPart s p fun x => { x with state := 3 }
  let cs := ctxsOfPart s p
  let s := each s cs fun s k =>
    let b := BitVec.ofNat 12 k
    let s := completeAll (teardown s b) b 6 0 0
    modFabric s fun f => { f with jobs := tmap f.jobs fun _ j => if j.ctx = k && j.part = p then { j with enabled := false } else j }
  resetFinish s p

/-- Accepted resets: the result is in progress until step 4. -/
def drainApply (q : Requester) (ws : List W64) (s : State) : State :=
  let p := partNum ws
  let s := setResult (modPart s p fun x => { x with state := 2, limit := bits (wordAt ws 0) 31 0 }) 0 q 1 p
  drainCheck s p

def execPartitionResetByDrain (q : Requester) (words : List W64) (s : State) : Result :=
  partRow 2 q words (drainApply q words) s

def execPartitionResetBySquash (q : Requester) (words : List W64) (s : State) : Result :=
  partRow 3 q words (fun s => squashPart (setResult s 0 q 1 (partNum words)) (partNum words)) s

/-- DRAIN_LIMIT_EXPIRY (R311): a drain past its limit continues as a squash. -/
def execDrainLimitExpiry (p : Fin 64) (s : State) : Result :=
  .next (if halyard s && (getPart s p).state = 2 && (getPart s p).limit ≠ 0 then squashPart s p else s)

/-- Destroy a partition (R312). -/
def partDestroy (q : Requester) (ws : List W64) (s : State) : State :=
  let p := partNum ws
  let mine := (s.hbm.own.filter fun e => e.2.state = 1 && e.2.part = p).map Prod.fst
  let s := each s mine fun s f => setEntry s f { poison := (getOwn s f).poison }
  let s := clearWays s p
  let s := modHomes s fun h => { h with reef := tmap h.reef fun _ r => if r.part = p then { r with size := 0, part := 0xFF } else r }
  let s := match (getRing s p).handle with | some h => freeHandle s h | none => s
  let s := modRing s p fun r => { r with base := 0, n := 0, handle := none }
  let s := each s (bitsSet 96 (getPart s p).ccores) ccEnter
  setResult (modPart s p fun _ => {}) 0 q 0 p

def execPartitionDestroy (q : Requester) (words : List W64) (s : State) : Result :=
  partRow 4 q words (partDestroy q words) s

/-! ## Context commands (R317, R318, R321, R333) -/

def ctxNum (ws : List W64) : Nat := bits (wordAt ws 0) 55 44

/-- The context of a create command's record. -/
def ctxOf (ws : List W64) : Ctx :=
  let w1 := wordAt ws 1
  { part := bits w1 63 58
    slot := bits w1 57 50
    maxres := bits w1 49 36
    trapcore := bits w1 35 29
    traplog := bits w1 28 25
    root := nth ws 2 0
    preempt := wordAt ws 3
    epsave := wordAt ws 4
    debug := wordAt ws 5
    trapq := wordAt ws 6 }

/-- Every frame of a range is owned by a context with PRESV as asked (R318). -/
def areaOk (s : State) (k pa n : Nat) (presv : Bool) : Bool :=
  rangeFrames pa n fun f => let o := getOwn s f; o.state = 2 && o.owner = k && o.presv = presv

def lowHigh (v low : Nat) : Bool := v % low ≠ 0 || decide (2 ^ 48 ≤ v)

/-- A job slot whose prerequisites are not met: a commit set with a control core outside the partition (R307), a job of several
devices or under mirrored protection with no manager, or mirrored protection with no buddy (R371). -/
def slotBad (s : State) (p : Partition) (sl : JobSlot) : Bool :=
  Nat.land sl.cset p.ccores ≠ sl.cset ||
  (decide (1 < sl.devices) && s.fabric.manager = 0xFFFF) ||
  (sl.protect = 2 && (s.fabric.manager = 0xFFFF || sl.buddy = 0xFFFF))

/-- What refuses a create with the invalid-value status (R318). -/
def ctxBad (s : State) (ws : List W64) : Bool :=
  let k := ctxNum ws
  let c := ctxOf ws
  let p := getPart s c.part
  let sl := getSlot s c.slot
  let line := (c.trapq + 128) / 128
  bits (wordAt ws 0) 43 0 ≠ 0 || bits (wordAt ws 1) 24 0 ≠ 0 || wordAt ws 7 ≠ 0 || wordAt ws 8 ≠ 0 ||
  lowHigh c.preempt 65536 || lowHigh c.epsave 65536 || c.debug % 65536 ≠ 0 || lowHigh c.trapq 4096 ||
  c.maxres = 0 || decide (12288 < c.maxres) || decide (10 < c.traplog) ||
  p.state ≠ 1 || decide (p.ctxQuota ≤ p.contexts) || (getCtx s k).isSome || sl.job = 0 ||
  s.disp.ctxs.any (fun x => x.2.slot = c.slot && x.2.part ≠ c.part) ||
  (c.epsave = 0) != (sl.protect = 0) ||
  !(areaOk s k c.preempt (32768 * c.maxres) false) || !(areaOk s k c.trapq (256 + 32 * trapCap c) false) ||
  (sl.protect ≠ 0 && !(areaOk s k c.epsave (2 ^ 22 + 32768 * c.maxres) true)) ||
  !bit p.ccores c.trapcore || decide (4 ≤ watchesOn s line) || decide (p.watchQuota ≤ p.watches) || slotBad s p sl

/-- A context's debug area is wholly mapped for reads and writes in local memory (R69). -/
def debugMapped (s : State) (k debug : Nat) : Bool :=
  debug ≠ 0 && (List.range 6144).all fun i =>
    let ok (acc : Acc) : Bool := match (translateQ s (i % 5) k (debug + 65536 * i) acc).2 with
      | .ok l => l.tgt = 0
      | _ => false
    ok .read && ok .write

/-- Bind a slot to its first context: the job starts (R278, R318). -/
def bindSlot (s : State) (j p : Nat) : State :=
  if !(ctxsOfSlot s j).isEmpty then s
  else
    let s := modSlot s j fun x => { x with committed := 0, mirrored := 0, commits := 0, rollbacks := 0, seq := 0, state := 1, hold := x.holdNext }
    modPart s p fun x => { x with jobs := x.jobs + 1 }

def ctxCreate (q : Requester) (ws : List W64) (s : State) : State :=
  let k := ctxNum ws
  let c := ctxOf ws
  let s := bindSlot s c.slot c.part
  let (s, h) := takeHandle s c.part ((c.trapq + 128) / 128) (.trapq k) (BitVec.ofNat 12 k)
  let strict := (getSlot s c.slot).cls = 0
  let c := { c with
    rm := s.defRm
    ovf := s.defOvf
    signature := if strict then signature s else 0
    trapHandle := h.getD 0 }
  let s := modDisp s fun d => { d with ctxs := tput d.ctxs k c }
  let ok := debugMapped s k c.debug
  let s := modCtx s k fun x => { x with debugOk := ok }
  let s := modPart s c.part fun x => { x with contexts := x.contexts + 1 }
  setResult (event s 4 unitDispatcher 0x101 k c.part c.slot false) 1 q 0 k

/-- The partition a context command names. -/
def ctxCmdPart (s : State) (ws : List W64) : Nat :=
  if opOf ws = 1 then (ctxOf ws).part else partOfCtx s (ctxNum ws)

def ctxCheck (s : State) (ws : List W64) : Nat :=
  let p := (getPart s (ctxCmdPart s ws)).state
  let rest := opOf ws ≠ 1 && (bits (wordAt ws 0) 43 0 ≠ 0 || (ws.drop 1).any fun w => w ≠ 0)
  if rest then 3
  else if p = 2 || p = 3 || p = 4 then 4
  else if opOf ws = 1 then (if ctxBad s ws then 3 else 0)
  else if (getCtx s (ctxNum ws)).isNone then 3
  else 0

def ctxCmd (ws : List W64) (apply : State → State) : Cmd :=
  { index := 0x3110
    sub := 1
    type := 7
    may := fun s k => k.trio || (match k with | .part p => ctxCmdPart s ws = p | _ => false)
    check := fun s _ => ctxCheck s ws
    apply := fun s _ => apply s }

def ctxRow (op : Nat) (q : Requester) (ws : List W64) (apply : State → State) (s : State) : Result :=
  .next (if opOf ws = op then bigCommand q 1 9 ws (ctxCmd ws apply) s else s)

def execContextCreate (q : Requester) (words : List W64) (s : State) : Result :=
  ctxRow 1 q words (ctxCreate q words) s

/-- Set a queue's HEAD to the TAIL last read, and write it to the ring (R321). -/
def headToTail (s : State) (h : Nat) : State :=
  match getQueue s h with
  | none => s
  | some q =>
    let hd := max q.head q.tail
    dispWord (modQueue s h fun q => { q with head := hd }) (q.ring + 128) hd

/-- Squash a context (R321). -/
def ctxSquash (s : State) (k : Nat) : State :=
  let b := BitVec.ofNat 12 k
  let es := liveEntries s b
  let s := completeAll (teardown s b) b 6 0 0
  let s := each (writeRecords s es) (queuesOf s k) headToTail
  event s 4 unitDispatcher 0x102 k 3 0 false

def execContextSquash (q : Requester) (words : List W64) (s : State) : Result :=
  ctxRow 2 q words (fun s => setResult (ctxSquash s (ctxNum words)) 1 q 0 (ctxNum words)) s

def execContextDestroy (q : Requester) (words : List W64) (s : State) : Result :=
  ctxRow 3 q words (fun s => setResult (destroyCtx s (ctxNum words)) 1 q 0 (ctxNum words)) s

/-- Ask every group of a context to save at its next cheap point (R65). -/
def askSave (s : State) (ctx : BitVec 12) : State :=
  { s with cores := tmap s.cores fun _ c => { c with groups := tmap c.groups fun _ g => if g.ctx = ctx then { g with saveReq := true } else g } }

/-- Pre-empt a context (R65, R333). -/
def ctxPreempt (q : Requester) (k : Nat) (s : State) : State :=
  let b := BitVec.ofNat 12 k
  let s := modCtx s k fun c => { c with preempting := true, byCommand := true, late := false, asker := transport q }
  preemptDone (askSave (setResult s 1 q 1 k) b) b

def execContextPreempt (q : Requester) (words : List W64) (s : State) : Result :=
  ctxRow 4 q words (fun s => ctxPreempt q (ctxNum words) s) s

/-! ## Queue commands (R323) -/

/-- The queue of a create command. -/
def queueOf (ws : List W64) : Queue :=
  let w1 := wordAt ws 1
  { ctx := BitVec.ofNat 12 (bits w1 63 52)
    prio := bits w1 51 49
    logn := bits w1 48 45
    clogn := bits w1 44 41
    func := bits w1 40 33
    vector := bits w1 32 21
    ring := wordAt ws 2
    compl := wordAt ws 3
    fbgraph := wordAt ws 4
    fbcount := bits (wordAt ws 5) 63 48
    init := bits (wordAt ws 5) 47 16 }

/-- Frames a ring may lie in: local, reserved to the partition or owned by the context, PRESV clear. -/
def queueFrames (s : State) (p k pa n : Nat) : Bool :=
  rangeFrames pa n fun f =>
    let o := getOwn s f
    !o.presv && ((o.state = 1 && o.part = p) || (o.state = 2 && o.owner = k))

def queueBad (s : State) (ws : List W64) : Bool :=
  let q := queueOf ws
  let k := q.ctx.toNat
  let p := partOfCtx s k
  let fit : Bool := match q.func with
    | 0xFE => decide (q.vector < 96) && bit (getPart s p).ccores q.vector
    | 0xFF => true
    | f => decide (f ≤ 65) && decide (q.vector < 2048)
  bits (wordAt ws 0) 55 0 ≠ 0 || bits (wordAt ws 1) 20 0 ≠ 0 || bits (wordAt ws 5) 15 0 ≠ 0 || wordAt ws 6 ≠ 0 || wordAt ws 7 ≠ 0 ||
  lowHigh q.ring 4096 || lowHigh q.compl 4096 || q.fbgraph % 128 ≠ 0 || decide (12 < q.logn) || decide (10 < q.clogn) || !fit ||
  (if q.fbgraph = 0 then q.fbcount ≠ 0 else q.fbcount = 0 || decide (256 < q.fbcount)) ||
  !ctxLive s k ||
  !(queueFrames s p k q.ring (256 + 128 * 2 ^ (q.logn + 4))) || !(queueFrames s p k q.compl (256 + 32 * 2 ^ (q.clogn + 6))) ||
  decide (4 ≤ watchesOn s (q.ring / 128)) || decide ((getPart s p).watchQuota ≤ (getPart s p).watches)

def queueHandle (ws : List W64) : Nat := bits (wordAt ws 0) 55 42

def queueCmdPart (s : State) (ws : List W64) : Nat :=
  if opOf ws = 1 then partOfCtx s (queueOf ws).ctx.toNat
  else match getQueue s (queueHandle ws) with | some q => partOfCtx s q.ctx.toNat | none => 255

def queueCheck (s : State) (ws : List W64) : Nat :=
  let p := (getPart s (queueCmdPart s ws)).state
  if opOf ws = 2 && (bits (wordAt ws 0) 41 0 ≠ 0 || (ws.drop 1).any fun w => w ≠ 0) then 3
  else if p = 2 || p = 3 || p = 4 then 4
  else if opOf ws = 1 then (if queueBad s ws then 3 else 0)
  else if (getQueue s (queueHandle ws)).isNone then 3
  else 0

def queueCmd (ws : List W64) (apply : State → State) : Cmd :=
  { index := 0x3120
    sub := 1
    type := 7
    may := fun s k => k.trio || (match k with | .part p => queueCmdPart s ws = p | _ => false)
    check := fun s _ => queueCheck s ws
    apply := fun s _ => apply s }

/-- Create a queue: HEAD takes the TAIL found, and the completion ring's TAIL the HEAD found. -/
def queueCreate (q : Requester) (ws : List W64) (s : State) : State :=
  let n := queueOf ws
  let p := partOfCtx s n.ctx.toNat
  let (s, h) := takeHandle s p (n.ring / 128) .queue n.ctx
  match h with
  | none => s
  | some h =>
    let (s, tail, _) := homeRead s byDispatcher n.ring 8
    let (s, head, _) := homeRead s byDispatcher (n.compl + 128) 8
    let s := modDisp s fun d => { d with queues := tput d.queues h { n with head := leNat tail, tail := leNat tail, ctail := leNat head } }
    let s := dispWord (dispWord s (n.ring + 128) (leNat tail)) n.compl (leNat head)
    setResult s 2 q 0 h

def execQueueCreate (q : Requester) (words : List W64) (s : State) : Result :=
  .next (if opOf words = 1 then bigCommand q 2 8 words (queueCmd words (queueCreate q words)) s else s)

/-- Delete a queue: it fetches no more, and goes once its descriptors have their records. -/
def queueDelete (s : State) (h : Nat) : State :=
  queueGone (modQueue s h fun q => { q with deleting := true }) h

def execQueueDelete (q : Requester) (words : List W64) (s : State) : Result :=
  .next (if opOf words = 2 then
    bigCommand q 2 8 words (queueCmd words fun s => setResult (queueDelete s (queueHandle words)) 2 q 0 (queueHandle words)) s else s)

/-- QUEUE_SELECT (R323): the queue whose state 0x3121:04 and 05 report. -/
def selectCmd (h : Nat) : Cmd :=
  { index := 0x3121
    sub := 3
    type := 1
    may := fun s k => k.trio || (match k with
      | .part p => (match getQueue s h with | some q => partOfCtx s q.ctx.toNat = p | none => false)
      | _ => false)
    check := fun _ _ => 0
    apply := fun s _ => modDisp s fun d => { d with selected := h } }

def execQueueSelect (q : Requester) (handle : W16) (s : State) : Result := .next (command q (selectCmd handle.toNat) s)

end Sys2Proof.Machine
end

