-- ==== Sys2Proof/Machine/Descriptors.lean ====
section
/-! DEFINITION. Descriptors: their fetch from queues, the deadline monitor, replay lists, format checks, and the
footprint check (R63, R209, R210, R216, R324 to R327, R329, R335 to R338). -/

namespace Sys2Proof.Machine

/-! ## Fields -/

def dw (ws : List Nat) (i : Nat) : Nat := nth ws i 0
def kindOf (ws : List Nat) : Nat := bits (dw ws 0) 63 60
def orderBit (ws : List Nat) : Bool := bit (dw ws 0) 59
def arrayBit (ws : List Nat) : Bool := bit (dw ws 0) 58
def tagBit (ws : List Nat) : Bool := bit (dw ws 0) 57
def nfoot (ws : List Nat) : Nat := bits (dw ws 0) 47 32
def groupsField (ws : List Nat) : Nat := bits (dw ws 8) 63 32
def cohortField (ws : List Nat) : Nat := bits (dw ws 8) 31 24
def allocField (ws : List Nat) : Nat := 16 * (bits (dw ws 8) 23 22 + 1)
def nleaf (ws : List Nat) : Nat := bits (dw ws 8) 21 15
def lsShare (ws : List Nat) : Nat := bits (dw ws 9) 63 40
def tagFmt (ws : List Nat) : Nat := bits (dw ws 9) 39 34
def tagRop (ws : List Nat) : Nat := bits (dw ws 9) 33 31
def lenField (ws : List Nat) : Nat := bits (dw ws 6) 63 24

/-! ## Format (R326) -/

def zeroFrom (ws : List Nat) (i : Nat) : Bool := (ws.drop i).all fun w => w = 0

/-- A header with a non-zero res0 field, a reserved KIND or a field out of range. -/
def headerBad (ws : List Nat) : Bool :=
  kindOf ws = 0 || decide (4 < kindOf ws) || bits (dw ws 0) 55 48 ≠ 0 || dw ws 1 % 16 ≠ 0 || bits (dw ws 2) 31 0 ≠ 0 ||
  (kindOf ws ≠ 4 && bits (dw ws 2) 63 32 ≠ 0) || dw ws 3 ≠ 0

def launchBad (ws : List Nat) : Bool :=
  bits (dw ws 5) 1 0 ≠ 0 || bits (dw ws 7) 31 0 ≠ 0 || groupsField ws = 0 || cohortField ws = 0 || decide (128 < cohortField ws) ||
  decide (96 < nleaf ws) || bits (dw ws 8) 14 0 ≠ 0 || lsShare ws % 256 ≠ 0 || decide (6 * 2 ^ 20 < lsShare ws) ||
  bits (dw ws 9) 30 0 ≠ 0 ||
  (if tagBit ws then tagRop ws = 0 || decide (3 < tagRop ws) || !ropAllows (tagRop ws) (tagFmt ws)
   else tagFmt ws ≠ 0 || tagRop ws ≠ 0 || dw ws 11 ≠ 0) || !zeroFrom ws 12

def copyBad (ws : List Nat) : Bool :=
  dw ws 4 % 16 ≠ 0 || dw ws 5 % 16 ≠ 0 || lenField ws % 16 ≠ 0 || bits (dw ws 6) 23 0 ≠ 0 || !zeroFrom ws 7

def collectiveBad (ws : List Nat) : Bool :=
  dw ws 4 % 16 ≠ 0 || dw ws 5 % 16 ≠ 0 || lenField ws % 256 ≠ 0 || bits (dw ws 6) 6 0 ≠ 0 ||
  bits (dw ws 6) 15 13 = 0 || !ropAllows (bits (dw ws 6) 15 13) (bits (dw ws 6) 12 7) || !zeroFrom ws 7

def stepBad (ws : List Nat) : Bool :=
  dw ws 4 % 128 ≠ 0 || bits (dw ws 5) 63 48 = 0 || decide (256 < bits (dw ws 5) 63 48) || bits (dw ws 5) 15 0 ≠ 0 || !zeroFrom ws 7

/-- A descriptor that completes with status 4 for its form. -/
def descBad (ws : List Nat) : Bool :=
  headerBad ws ||
  match kindOf ws with
  | 1 => launchBad ws
  | 2 => copyBad ws
  | 3 => collectiveBad ws
  | _ => stepBad ws

/-! ## In-flight entries (R325) -/

/-- Entries held by a partition. -/
def heldBy (s : State) (p : Nat) : Nat := (s.disp.entries.filter fun e => partOfCtx s e.2.ctx.toNat = p).length

/-- Whether a partition may hold one entry more: within its guarantee, or from the shared entries. -/
def mayHold (s : State) (p : Nat) : Bool :=
  let ps := activeParts s
  let shared := 1024 - ps.foldl (fun n q => n + q.2.guaranteed) 0
  let used := ps.foldl (fun n q => n + (heldBy s q.1 - q.2.guaranteed)) 0
  decide (s.disp.entries.length < 1024) && (decide (heldBy s p < (getPart s p).guaranteed) || decide (used < shared))

/-- A context's work may be fetched and started: it is live, nothing stops its job, its partition runs. -/
def workOk (s : State) (k : Nat) : Bool :=
  match getCtx s k with
  | none => false
  | some c =>
    let sl := getSlot s c.slot
    c.state = .live && sl.cutFor.isNone && !sl.stopping && sl.state ≠ 2 && sl.state ≠ 3 && sl.state ≠ 4 && sl.state ≠ 6 &&
      ((getPart s c.part).state = 1 || (getPart s c.part).state = 2)

/-- A queue may be fetched from. -/
def mayFetch (s : State) (q : Queue) : Bool :=
  q.state = 1 && !q.deleting && workOk s q.ctx.toNat && (getPart s (partOfCtx s q.ctx.toNat)).state = 1 &&
    mayHold s (partOfCtx s q.ctx.toNat) &&
    (match getCtx s q.ctx.toNat with
     | some c => decide (c.replay.length < 16384) && !(c.replay.any Replay.waiting)
     | none => false)

/-- Queues with unfetched descriptors that may be fetched from. -/
def readyQueues (s : State) : List (Nat × Queue) := s.disp.queues.filter fun q => q.2.head < q.2.tail && mayFetch s q.2

/-- The queue whose turn it is: highest PRIO, then round-robin by handle after the last one served. -/
def turn (s : State) : Option Nat :=
  let qs := readyQueues s
  let top := qs.foldl (fun n q => max n q.2.prio) 0
  let hs := (qs.filter fun q => q.2.prio = top).map Prod.fst
  match hs.find? fun h => decide (s.disp.lastQueue < h) with
  | some h => some h
  | none => hs.head?

/-! ## The deadline monitor (R335, R336) -/

/-- E of a step on a graph. -/
def estimateOf (s : State) (ctx : BitVec 12) (q : Queue) (graph rows : Nat) : Nat :=
  match s.disp.history.find? fun h => h.ctx = ctx && h.graph = graph with
  | some h => h.runs.foldl (fun n r => max n (ceilDiv (r.2 * rows) (max 1 r.1))) 0
  | none => ceilDiv (q.init * rows) 1024

/-- B: what the queue's unfinished steps are still expected to take. -/
def backlog (s : State) (h : Nat) : Nat :=
  (s.disp.entries.filter fun e => e.2.queue = h && e.2.phase ≠ .completed && kindOf e.2.words = 4).foldl
    (fun n e => n + (e.2.estimate - (match e.2.started with | some t => usOf ((sparTimer s).toNat - t.toNat) | none => 0))) 0

/-! ## Fetching (R324, R337, R338) -/

/-- The 160 bytes of a replay list entry (R337). -/
def replayBytes (r : Replay) : List Byte :=
  r.words.flatMap (natLe 8) ++ natLe 8 (flds [(50, r.queue), (49, b2n r.fallback)]) ++ natLe 8 r.seq ++ natLe 16 0

/-- Append to a replay list, and ask for a commit as it reaches 13,108 entries. -/
def noteReplay (s : State) (k : Nat) (r : Replay) : State :=
  match getCtx s k with
  | none => s
  | some c =>
    let sl := getSlot s c.slot
    if sl.protect = 0 then s
    else
      let s := homeWriteAll s byDispatcher (c.epsave + 65536 + 160 * (c.replayNext % 16384)) (replayBytes r)
      let s := modCtx s k fun c => { c with replay := c.replay ++ [r], replayNext := c.replayNext + 1 }
      if c.replay.length + 1 = 13108 then emit s (.epoch (coordOf s sl) sl.job 1 0 (sl.committed + 1)) else s

/-- Put a descriptor into an in-flight entry: its graph is chosen, its replay entry written, and one with a format
error completes at once. `again` gives the graph choice of a replay. -/
def admitDesc (s : State) (h : Nat) (q : Queue) (seq : Nat) (ws : List Nat) (again : Option Bool) : State :=
  let (s, i) := draw s
  match pickFree s.disp.entries 1024 i with
  | none => s
  | some e =>
    let k := q.ctx.toNat
    let step := kindOf ws = 4
    let rows := bits (dw ws 5) 47 16
    let est := if step then estimateOf s q.ctx q (dw ws 4) rows else 0
    let miss := step && bits (dw ws 2) 63 32 ≠ 0 && decide (bits (dw ws 2) 63 32 < backlog s h + est)
    let fb := match again with
      | some b => b
      | none => miss && q.fbgraph ≠ 0 && classOfCtx s k = 2
    let x : Entry :=
      { queue := h
        ctx := q.ctx
        seq := seq
        user := bits (dw ws 0) 31 0
        words := ws
        fallback := fb
        replay := again.isSome
        fetched := sparTimer s
        estimate := if fb then estimateOf s q.ctx q q.fbgraph rows else est
        graph := if fb then q.fbgraph else dw ws 4
        gcount := if fb then q.fbcount else bits (dw ws 5) 63 48 }
    let s := modDisp s fun d => { d with entries := tput d.entries e x }
    let s := event s 4 unitDispatcher 0x103 k (kindOf ws) h true
    let s :=
      if fb && again.isNone then
        event (modDisp s fun d => { d with swapped := d.swapped + 1 }) 4 unitDispatcher 0x107 k 0 h false
      else s
    let s := if again.isNone then noteReplay s k { words := ws, queue := h, fallback := fb, seq := seq } else s
    if descBad ws then completeEntry s e 4 0 0 else s

/-- Rerun the descriptors of a context's replay list that wait, in order, while entries allow (R339). -/
def rerunList (s : State) (k : Nat) : List Replay → State
  | [] => s
  | r :: rest =>
    if !r.waiting then rerunList s k rest
    else if !mayHold s (partOfCtx s k) then s
    else
      let clear (x : Replay) : Replay := if x.queue = r.queue && x.seq = r.seq then { x with waiting := false } else x
      let s := modCtx s k fun c => { c with replay := c.replay.map clear }
      match getQueue s r.queue with
      | some q => rerunList (admitDesc s r.queue q r.seq r.words (some r.fallback)) k rest
      | none => rerunList s k rest

def rerun (s : State) (k : Nat) : State := match getCtx s k with | some c => rerunList s k c.replay | none => s

/-- Every context's waiting descriptors go on as entries free. -/
def rerunAll (s : State) : State :=
  each s ((s.disp.ctxs.filter fun c => c.2.state = .live && c.2.replay.any Replay.waiting).map Prod.fst) rerun

/-- Fetch descriptors in order while entries allow. -/
def fetchMany (s : State) (h : Nat) : Nat → State
  | 0 => s
  | n + 1 =>
    match getQueue s h with
    | none => s
    | some q =>
      if q.head < q.tail && mayFetch s q then
        let (s, bs, _) := homeRead s byDispatcher (q.ring + 256 + 128 * (q.head % 2 ^ (q.logn + 4))) 128
        let s := modQueue s h fun x => { x with head := x.head + 1 }
        fetchMany (admitDesc s h q q.head (wordsOf 16 bs) none) h n
      else s

/-- An overrun stops the queue with one record of status 10 (R324). -/
def overrun (s : State) (h tail : Nat) : State :=
  let (s, i) := draw s
  match getQueue s h, pickFree s.disp.entries 1024 i with
  | some q, some e =>
    let x : Entry := { queue := h, ctx := q.ctx, seq := tail, user := 0, words := [], phase := .completed, status := 10,
                       fetched := sparTimer s, ended := sparTimer s }
    modDisp (modQueue s h fun q => { q with state := 2 }) fun d => { d with entries := tput d.entries e x, order := d.order ++ [e] }
  | _, _ => s

/-- The dispatcher reads a queue's TAIL, and fetches when the turn is the queue's (R324, R325). -/
def fetchQueue (s : State) (h : Nat) : State :=
  match getQueue s h with
  | none => s
  | some q =>
    if !running s || q.state ≠ 1 || q.deleting then s
    else
      let (s, bs, _) := homeRead s byDispatcher q.ring 8
      let s := clearWatch s h
      let tail := leNat bs
      if tail ≤ q.head then s
      else if 2 ^ (q.logn + 4) < tail - q.head then overrun (modQueue s h fun q => { q with tail := tail }) h tail
      else
        let s := modQueue s h fun q => { q with tail := tail }
        if turn s = some h then
          let s := fetchMany (modDisp s fun d => { d with lastQueue := h }) h 1024
          match getQueue s h with
          | some q => dispWord s (q.ring + 128) q.head
          | none => s
        else s

/-- DESCRIPTOR_FETCH (R324, R325). -/
def execDescriptorFetch (handle : BitVec 14) (s : State) : Result := .next (fetchQueue s handle.toNat)

/-! ## Reading a context's memory by virtual address -/

/-- What a read of a structure comes to. -/
inductive VaRes where
  | ok (bs : List Byte)
  | fault (va reason level : Nat)
  | poison (va : Nat)
  | own (va : Nat)
  deriving DecidableEq, Repr

/-- Read bytes through a context's tables, piece by piece of a line. -/
def readVa (s : State) (ctx : BitVec 12) (va n : Nat) : Nat → State × VaRes
  | 0 => (s, .ok [])
  | fuel + 1 =>
    if n = 0 then (s, .ok [])
    else
      let m := min n (128 - va % 128)
      match translateQ s (va / 65536 % 5) ctx.toNat va .read with
      | (s, .fault r l) => (s, .fault (va / 65536 * 65536) r l)
      | (s, .poison pa) => (s, .poison pa)
      | (s, .ok l) =>
        let pa := outAddr l va
        if l.tgt ≠ 0 || !paPass s (.ctx ctx (ctxPart s ctx.toNat)) false pa then (s, .own va)
        else
          let (s, bs, bad) := homeRead s byDispatcher pa m
          if bad then (s, .poison (va / 128 * 128))
          else
            match readVa s ctx (va + m) (n - m) fuel with
            | (s, .ok r) => (s, .ok (bs ++ r))
            | (s, e) => (s, e)

/-! ## Footprints (R209, R326, R327) -/

/-- A range of a footprint: address, bytes, access bits (fetch 8, atomic 4, write 2, read 1), NEAR, RED. -/
structure FRange where
  va : Nat
  len : Nat
  acc : Nat
  near : Bool := false
  red : Bool := false
  deriving DecidableEq, Repr

/-- The footprint entries of a list. -/
def footList : Nat → List Nat → List FRange
  | 0, _ => []
  | n + 1, ws =>
    { va := dw ws 0, len := bits (dw ws 1) 63 24, acc := bits (dw ws 1) 23 20, near := bit (dw ws 1) 19, red := bit (dw ws 1) 18 } ::
      footList n (ws.drop 2)

/-- A footprint list that breaks its format, for a descriptor. -/
def footBad (ws : List Nat) (n : Nat) (ents : List Nat) : Bool :=
  let fs := footList n ents
  (fs.any fun f => f.acc = 0 || f.len = 0) || ((List.range n).any fun i => bits (dw ents (2 * i + 1)) 17 0 ≠ 0) ||
  (fs.filter fun f => f.red).length ≠ (if kindOf ws = 1 && tagBit ws then 1 else 0)

/-- A cheap-point map that breaks its format (R63). -/
def mapBad (n : Nat) (ents : List Nat) : Bool :=
  let offs := (List.range n).map fun i => bits (dw ents (2 * i)) 63 32
  ((List.range n).any fun i => bits (dw ents (2 * i)) 7 0 ≠ 0 || bit (dw ents (2 * i)) 24 || bit (dw ents (2 * i + 1)) 0) ||
  (offs.any fun o => o % 4 ≠ 0) || !ascending offs

/-- Ranges a descriptor of KIND 1 to 3 translates besides its list. -/
def ownRanges (s : State) (ctx : BitVec 12) (ws : List Nat) (fs : List FRange) : List FRange :=
  match kindOf ws with
  | 1 =>
    let dbg : List FRange := match getCtx s ctx.toNat with
      | some c => if c.debugOk then [{ va := c.debug, len := 384 * 2 ^ 20, acc := 3 }] else []
      | none => []
    let lines (f : FRange) : Nat := (f.va + f.len + 127) / 128 - f.va / 128
    let spill : List FRange := match fs.find? fun f => f.red with
      | some f => if tagBit ws then [{ va := dw ws 11, len := 128 * nleaf ws * lines f, acc := 3 }] else []
      | none => []
    [{ va := dw ws 4, len := bits (dw ws 5) 63 32, acc := 8 }, { va := dw ws 6, len := 16 * bits (dw ws 7) 63 32, acc := 1 }] ++ dbg ++ spill
  | _ => [{ va := dw ws 4, len := lenField ws, acc := 1 }, { va := dw ws 5, len := lenField ws, acc := 2 }]

/-- What gathering a footprint comes to. -/
inductive Gather where
  | ok (rs : List FRange)
  | status (n : Nat)
  | fault (va reason level : Nat)
  | poison (va : Nat)
  | own (va : Nat)
  deriving DecidableEq, Repr

/-- Read a structure and go on with its words, or stop for what the read met. -/
def readThen (s : State) (ctx : BitVec 12) (va n : Nat) (f : State → List Nat → State × Gather) : State × Gather :=
  match readVa s ctx va n (n + 1) with
  | (s, .ok bs) => f s (wordsOf (n / 8) bs)
  | (s, .fault a r l) => (s, .fault a r l)
  | (s, .poison a) => (s, .poison a)
  | (s, .own a) => (s, .own a)

/-- Ranges of one descriptor of KIND 1 to 3: its list and its own, its map checked. -/
def gatherOne (s : State) (ctx : BitVec 12) (ws : List Nat) : State × Gather :=
  readThen s ctx (dw ws 1) (16 * nfoot ws) fun s ents =>
    if footBad ws (nfoot ws) ents then (s, .status 4)
    else
      let fs := footList (nfoot ws) ents
      let rs := fs ++ ownRanges s ctx ws fs
      if kindOf ws = 1 then
        let n := bits (dw ws 7) 63 32
        readThen s ctx (dw ws 6) (16 * n) fun s m => if mapBad n m then (s, .status 4) else (s, .ok rs)
      else (s, .ok rs)

/-- Ranges of a graph's entries; one of a bad form contributes none, and completes by itself with status 4. -/
def gatherGraph (s : State) (ctx : BitVec 12) : List (List Nat) → State × Gather
  | [] => (s, .ok [])
  | ws :: r =>
    if kindOf ws = 4 || bits (dw ws 2) 63 32 ≠ 0 then (s, .status 4)
    else if descBad ws then gatherGraph s ctx r
    else
      match gatherOne s ctx ws with
      | (s, .ok a) =>
        (match gatherGraph s ctx r with
         | (s, .ok b) => (s, .ok (a ++ b))
         | (s, e) => (s, e))
      | (s, e) => (s, e)

/-- Cut words into descriptors. -/
def descsOf : Nat → List Nat → List (List Nat)
  | 0, _ => []
  | n + 1, ws => ws.take 16 :: descsOf n (ws.drop 16)

/-- Everything an entry translates, and the descriptors it will run. -/
def gather (s : State) (x : Entry) : State × Gather × List (List Nat) :=
  if kindOf x.words = 4 then
    match readVa s x.ctx x.graph (128 * x.gcount) (128 * x.gcount + 1) with
    | (s, .ok bs) =>
      let ds := descsOf x.gcount (wordsOf (16 * x.gcount) bs)
      (match gatherGraph s x.ctx ds with
       | (s, .ok rs) =>
         (match gatherOne s x.ctx (x.words.set 5 0 |>.set 6 0) with
          | (s, .ok own) =>
            let listed := own.take (nfoot x.words)
            let fixed : List FRange := [{ va := dw x.words 6, len := 256, acc := 1 }, { va := x.graph, len := 128 * x.gcount, acc := 1 }]
            (s, .ok (listed ++ fixed ++ rs), ds)
          | (s, e) => (s, e, ds))
       | (s, e) => (s, e, ds))
    | (s, .fault a r l) => (s, .fault a r l, [])
    | (s, .poison a) => (s, .poison a, [])
    | (s, .own a) => (s, .own a, [])
  else
    match gatherOne s x.ctx x.words with
    | (s, g) => (s, g, [x.words])

/-- Pages of ranges, ascending, with the union of their access bits. -/
def pagesUnion (rs : List FRange) : Tab Nat :=
  rs.foldl (fun t r =>
    if r.len = 0 then t
    else ((List.range ((r.va + r.len - 1) / 65536 + 1 - r.va / 65536)).foldl
      (fun t i => tmod t (r.va / 65536 + i) 0 fun a => Nat.lor a r.acc) t)) []

/-- Access kinds of a mask, with the bit of each in a fault record. -/
def kindsOf (m : Nat) : List (Acc × Nat) :=
  [(Acc.read, 1), (Acc.write, 2), (Acc.atomic, 4), (Acc.fetch, 8)].filter fun p => Nat.land m p.2 ≠ 0

/-- Translate and check one page for its access kinds. -/
def checkPage (s : State) (pool : Nat) (ctx : BitVec 12) (page : Nat) : List (Acc × Nat) → Leaf → State × VaRes × Leaf
  | [], l => (s, .ok [], l)
  | (acc, _) :: r, _ =>
    let va := page * 65536
    match translateQ s pool ctx.toNat va acc with
    | (s, .fault reason level) => (s, .fault va reason level, {})
    | (s, .poison pa) => (s, .poison pa, {})
    | (s, .ok l) =>
      if l.tgt = 0 && !paPass s (.ctx ctx (ctxPart s ctx.toNat)) (accWrites acc) (outAddr l va) then (s, .own va, l)
      else checkPage s pool ctx page r l

/-- Translate and check pages in ascending order, in the five pools in turn (R213). -/
def checkPages (s : State) (ctx : BitVec 12) (i : Nat) : List (Nat × Nat) → State × VaRes × List (Nat × Leaf)
  | [] => (s, .ok [], [])
  | (page, m) :: r =>
    match checkPage s (i % 5) ctx page (kindsOf m) {} with
    | (s, .ok _, l) =>
      let (s, res, ps) := checkPages s ctx (i + 1) r
      (s, res, (page, l) :: ps)
    | (s, e, _) => (s, e, [])

/-- A footprint meets a translation fault: its entry waits on the record (R215, R216). -/
def footFault (s : State) (e : Nat) (x : Entry) (va reason level acc : Nat) : State :=
  let r : FaultRec :=
    { ctx := x.ctx
      part := BitVec.ofNat 6 (ctxPart s x.ctx.toNat)
      program := reasonProgram reason
      reason := BitVec.ofNat 4 reason
      access := BitVec.ofNat 4 acc
      first := 4
      va := BitVec.ofNat 64 (va / 65536 * 65536)
      level := BitVec.ofNat 3 level }
  emit (modEntry s e fun x => { x with waiting := true }) (.fault (.entry (BitVec.ofNat 10 e)) r)

/-- Translation of a whole footprint, once gathered: refused, waiting, or passed and held (R209, R210). -/
def checkFoot (s : State) (e : Nat) (x : Entry) (rs : List FRange) (ds : List (List Nat)) : State :=
  let pages := pagesUnion rs
  if 65536 < pages.length then completeEntry s e 3 0 0
  else
    match checkPages s x.ctx 0 pages with
    | (s, .fault va r l, _) => footFault s e x va r l (tget pages (va / 65536) 1)
    | (s, .poison pa, _) => hardwareFault s x.ctx.toNat 3 cPoison pa [pa / 65536]
    | (s, .own va, _) => completeEntry s e 2 va 0
    | (s, .ok _, ps) =>
      let new := ps.filter fun p => (heldOf s x.ctx.toNat (p.1 * 65536)).isNone
      if 65536 < s.xlat.held.length + new.length then s
      else
        let s := each s ps fun s p => holdPage s x.ctx p.1 p.2
        let graph := kindOf x.words = 4
        let part (d : List Nat × Nat) : Work :=
          let bad := graph && descBad d.1
          { place := if graph then d.2 + 1 else 0, words := d.1, done := bad, status := if bad then 4 else 0 }
        modEntry s e fun x => { x with phase := .checked, pages := pages.map Prod.fst, parts := ds.zipIdx.map part }

/-- FOOTPRINT_CHECK (R209): an entry's footprint is gathered, translated, checked and held. -/
def execFootprintCheck (entry : BitVec 10) (s : State) : Result :=
  .next <|
    let e := entry.toNat
    match getEntry s e with
    | none => s
    | some x =>
      if !running s || x.phase ≠ .fetched || x.waiting || !workOk s x.ctx.toNat then s
      else
        match gather s x with
        | (s, .status n, _) => completeEntry s e n 0 0
        | (s, .fault va r l, _) => footFault s e x va r l 1
        | (s, .poison va, _) => hardwareFault s x.ctx.toNat 3 cPoison va ((peek s 4 x.ctx.toNat va).map fun pa => pa / 65536).toList
        | (s, .own va, _) => completeEntry s e 2 va 0
        | (s, .ok rs, ds) => checkFoot s e x rs ds

end Sys2Proof.Machine
end

