-- ==== Sys2Proof/Machine/Dispatcher.lean ====
section
/-! DEFINITION. Running work: eligibility, launches and their cohorts, copies, steps, completion, pre-emption by
priority, restores (R67, R68, R96, R235, R267, R305, R328 to R334, R339). -/

namespace Sys2Proof.Machine

/-! ## Cores of a launch (R331) -/

/-- The partition's cores that have a physical core, ascending by logical number. -/
def partCoreList (s : State) (p : Nat) : List Nat := (bitsSet 96 (getPart s p).cores).filter fun k => corePresent s k

def freeSlots (s : State) (k : Nat) : Nat := 128 - (getCore s k).groups.length

/-- Stacks that serve a page of NEAR ranges, as dies, with the bytes each serves. -/
def nearBytes (s : State) (ctx : BitVec 12) (die : Nat) (rs : List FRange) : Nat :=
  rs.foldl (fun n r =>
    if !r.near then n
    else
      ((List.range ((r.va + r.len + 255) / 256 - r.va / 256)).foldl (fun n i =>
        let va := (r.va / 256 + i) * 256
        match heldOf s ctx.toNat va with
        | some l =>
          (match regionOf s (outAddr l va) with
           | some g => let (k, _, _) := placeIn s g (outAddr l va); if l.tgt = 0 && k / 3 = die then n + 256 else n
           | none => n)
        | none => n) n)) 0

/-- The descriptor's footprint list as it stands in memory, for NEAR. -/
def footNow (s : State) (ctx : BitVec 12) (ws : List Nat) : List FRange :=
  match (readVa s ctx (dw ws 1) (16 * nfoot ws) (16 * nfoot ws + 1)).2 with
  | .ok bs => footList (nfoot ws) (wordsOf (2 * nfoot ws) bs)
  | _ => []

/-- The core list of a launch: in the strict class by physical number, in the portable class by logical number, in the
free class by free slots, the die that serves the most NEAR bytes first. -/
def coreList (s : State) (ctx : BitVec 12) (ws : List Nat) : List Nat :=
  let ks := partCoreList s (partOfCtx s ctx.toNat)
  let n := if nleaf ws = 0 then ks.length else nleaf ws
  let ranked := match classOfCtx s ctx.toNat with
    | 0 => sortBy (fun k => physOf s k + 32 * (k / 24)) ks
    | 1 => ks
    | _ =>
      let fs := footNow s ctx ws
      let best := (List.range 4).foldl (fun b d => if nearBytes s ctx b fs < nearBytes s ctx d fs then d else b) 0
      let away (k : Nat) : Nat := if (fs.any fun f => f.near) && k / 24 ≠ best then 1 else 0
      sortBy (fun k => (128 - freeSlots s k) * 2 + away k) ks
  ranked.take n

/-! ## Eligibility (R330) -/

/-- An entry's ORDER condition: every earlier descriptor of its queue has completed. -/
def orderOk (s : State) (x : Entry) : Bool :=
  !orderBit x.words ||
  !(s.disp.entries.any fun e => e.2.queue = x.queue && e.2.phase ≠ .completed && decide (e.2.seq < x.seq))

/-- A part's ORDER condition within its graph. -/
def partOrder (x : Entry) (w : Work) : Bool :=
  w.place = 0 || !orderBit w.words || x.parts.all fun v => v.done || decide (w.place ≤ v.place)

/-- The first part of a kind that may start. -/
def startable (s : State) (x : Entry) (kind : Nat) : Option Work :=
  let ready := if kindOf x.words = 4 then x.phase = .running else x.phase = .checked && orderOk s x
  if !ready || !workOk s x.ctx.toNat then none
  else x.parts.find? fun w => !w.running && !w.done && kindOf w.words = kind && partOrder x w

def setPart (s : State) (e : Nat) (w : Work) : State :=
  modEntry s e fun x => { x with parts := x.parts.map fun v => if v.place = w.place then w else v }

/-- An entry is over when its last part is: its status is that of the first part that did not end with 0 (R329). -/
def entryDone (s : State) (e : Nat) : State :=
  match getEntry s e with
  | none => s
  | some x =>
    if x.phase = .completed || x.parts.any (fun w => !w.done) then s
    else
      match x.parts.find? fun w => w.status ≠ 0 with
      | some w => completeEntry s e w.status w.val w.cause
      | none => completeEntry s e 0 0 0

/-- A part ends with a status. -/
def partDone (s : State) (e : Nat) (w : Work) (status : Nat) : State :=
  let s := freeTag s w.tag
  entryDone (setPart s e { w with running := false, done := true, status := status, tag := 0 }) e

/-! ## LAUNCH (R328, R330) -/

/-- Cohorts of a launch. -/
def cohortCount (ws : List Nat) : Nat := ceilDiv (groupsField ws) (max 1 (cohortField ws))

/-- Groups of a cohort; the last takes the remainder. -/
def cohortSize (ws : List Nat) (i : Nat) : Nat := min (cohortField ws) (groupsField ws - i * cohortField ws)

/-- A cohort cannot fit one core, or NLEAF exceeds the partition's cores. -/
def noResources (s : State) (ctx : BitVec 12) (ws : List Nat) : Bool :=
  let n := cohortSize ws 0
  decide (128 < n) || decide (256 < n * (allocField ws / 16)) || decide (6 * 2 ^ 20 < n * lsShare ws) ||
  decide ((partCoreList s (partOfCtx s ctx.toNat)).length < nleaf ws)

/-- A tag request's refusal: 4, 5, or 0 (R328). -/
def tagRefused (s : State) (ws : List Nat) : Nat :=
  if nleaf ws = 0 then 4
  else if tagRop ws = 1 && (tagFmt ws = 1 || tagFmt ws = 2) && !capHas s 1 then 5
  else if tagRop ws = 1 && tagFmt ws = 8 && !capHas s 3 then 5
  else 0

/-- A max or min over FP8 runs untagged without capability bit 2 (R243, R328). -/
def untagged (s : State) (ws : List Nat) : Bool :=
  (tagRop ws = 2 || tagRop ws = 3) && (tagFmt ws = 3 || tagFmt ws = 4) && !capHas s 2

/-- Physical lines of the reduction footprint, in address order. -/
def redLines (s : State) (ctx : BitVec 12) (ws : List Nat) : List Nat :=
  match (footNow s ctx ws).find? fun f => f.red with
  | some f =>
    (List.range ((f.va + f.len + 127) / 128 - f.va / 128)).filterMap fun i =>
      let va := (f.va / 128 + i) * 128
      (heldOf s ctx.toNat va).map fun l => outAddr l va / 128
  | none => []

/-- Start placing a launch on its core list, with its tag. -/
def launchStart (s : State) (e : Nat) (w : Work) (tag : Nat) (cores : List Nat) : State :=
  modEntry (setPart s e { w with running := true, tag := tag, cores := cores, toPlace := List.range (cohortCount w.words) }) e
    fun x => { x with phase := .running }

/-- LAUNCH: an eligible launch starts placing its groups; one that cannot run completes with its status; one that
finds no tag free waits. -/
def execLaunch (entry : BitVec 10) (s : State) : Result :=
  .next <|
    let e := entry.toNat
    match getEntry s e with
    | none => s
    | some x =>
      if !running s then s
      else
        match startable s x 1 with
        | none => s
        | some w =>
          let ws := w.words
          let refused := if tagBit ws then tagRefused s ws else 0
          if refused ≠ 0 then partDone s e w refused
          else if noResources s x.ctx ws then partDone s e w 9
          else if tagBit ws && !untagged s ws then
            let (s, i) := draw s
            match pickFree (tput s.homes.tags 0 {}) 4096 i with
            | none => s
            | some t =>
              let r : RedTag :=
                { ctx := x.ctx, entry := e, leaves := coreList s x.ctx ws, cls := classOfCtx s x.ctx.toNat, rop := tagRop ws,
                  fmt := tagFmt ws, spill := dw ws 11, lines := redLines s x.ctx ws }
              launchStart (modHomes s fun h => { h with tags := tput h.tags t r }) e w t r.leaves
          else launchStart s e w 0 (coreList s x.ctx ws)

/-- Residence numbers a context's groups hold, on cores and saved. -/
def residents (s : State) (ctx : BitVec 12) : List Nat :=
  (groupsOf s ctx).map (fun g => g.2.2.q) ++ (match getCtx s ctx.toNat with | some c => c.saved.map Prod.fst | none => [])

def prioOf (s : State) (x : Entry) : Nat := match getQueue s x.queue with | some q => q.prio | none => 0

/-- Some pre-empted group of equal or higher priority waits to be restored before a new cohort (R331). -/
def restoreFirst (s : State) (x : Entry) : Bool :=
  let p := partOfCtx s x.ctx.toNat
  s.disp.ctxs.any fun c => c.2.part = p && !c.2.preempting && workOk s c.1 &&
    c.2.saved.any fun g => match getEntry s g.2.entry with
      | some y => decide (prioOf s x ≤ prioOf s y)
      | none => false

/-- A core takes a cohort of a launch now. -/
def cohortFits (s : State) (x : Entry) (ws : List Nat) (i k : Nat) : Bool :=
  coreFits s k (cohortSize ws i) (allocField ws) (lsShare ws) (arrayBit ws) x.ctx &&
  (match getCtx s x.ctx.toNat with
   | some c => decide ((residents s x.ctx).length + cohortSize ws i ≤ c.maxres)
   | none => false)

/-- The core the next cohort of a launch goes to; none where it must wait. -/
def cohortCore (s : State) (x : Entry) (w : Work) (i : Nat) : Option Nat :=
  let l := w.cores
  if classOfCtx s x.ctx.toNat < 2 then
    let k := nth l (i % max 1 l.length) 96
    if cohortFits s x w.words i k then some k else none
  else
    let fit := (sortBy (fun k => k) l).filter fun k => cohortFits s x w.words i k
    fit.find? fun k => fit.all fun j => decide (freeSlots s j ≤ freeSlots s k)

/-- The message that carries a cohort to a core (R240). -/
def placementOf (x : Entry) (e : Nat) (w : Work) (i : Nat) : Placement :=
  let ws := w.words
  let param := if w.place ≠ 0 && dw ws 10 = 0 then dw x.words 6 else dw ws 10
  { entry := BitVec.ofNat 10 e
    ctx := x.ctx
    pc := BitVec.ofNat 64 (dw ws 4 + bits (dw ws 5) 31 0)
    arg := BitVec.ofNat 64 param
    first := BitVec.ofNat 32 (i * cohortField ws)
    groups := BitVec.ofNat 32 (groupsField ws)
    ncoh := BitVec.ofNat 8 (cohortSize ws i)
    alloc := BitVec.ofNat 2 (allocCode (allocField ws))
    array := arrayBit ws
    tag := BitVec.ofNat 12 w.tag
    lss := BitVec.ofNat 15 (lsShare ws / 256)
    cohort := BitVec.ofNat 32 i
    map := BitVec.ofNat 64 (dw ws 6)
    mapn := BitVec.ofNat 32 (bits (dw ws 7) 63 32)
    code := BitVec.ofNat 64 (dw ws 4) }

/-- The first part with cohorts to place. -/
def placing (x : Entry) : Option (Work × Nat) :=
  match x.parts.find? fun w => w.running && !w.toPlace.isEmpty with
  | some w => w.toPlace.head?.map fun i => (w, i)
  | none => none

/-- COHORT_PLACEMENT (R331): the dispatcher sends the next cohort to its core. -/
def execCohortPlacement (entry : BitVec 10) (d : Fin 4) (c : Fin 24) (s : State) : Result :=
  .next <|
    let e := entry.toNat
    let k := coreKey d c
    match getEntry s e with
    | none => s
    | some x =>
      if !running s || !workOk s x.ctx.toNat || restoreFirst s x then s
      else
        match placing x with
        | none => s
        | some (w, i) =>
          if cohortCore s x w i ≠ some k then s
          else
            let s := setPart s e { w with toPlace := w.toPlace.drop 1, placed := w.placed ++ [(k, i, false)] }
            let now := sparTimer s
            let s := modEntry s e fun x => { x with started := match x.started with | some t => some t | none => some now }
            let s := event s 4 unitDispatcher 0x105 x.ctx.toNat k (cohortSize w.words i) true
            emit s (.placement d c (placementOf x e w i))

/-! ## A core receives a cohort (R24, R62, R240, R318, R328) -/

/-- The lowest residence number no group of the context holds. -/
def lowestResidence (used : List Nat) : Nat → Nat → Nat
  | q, 0 => q
  | q, n + 1 => if used.contains q then lowestResidence used (q + 1) n else q

/-- Registers of a new group. -/
def startThreads (arg groups number rm : Nat) : Threads :=
  eachLane {} (List.range 32) fun t l =>
    wrF (wrG (wrG (wrG t l 1 (BitVec.ofNat 64 arg)) l 2 (BitVec.ofNat 64 number)) l 3 (BitVec.ofNat 64 groups)) l (BitVec.ofNat 7 rm)

/-- Place the `j`-th group of a cohort in a free slot; which one is free (assumption 14). -/
def placeGroup (k cid place rm : Nat) (p : Placement) (s : State) (j : Nat) : State :=
  let (s, i) := draw s
  match pickFree (getCore s k).groups 128 i with
  | none => s
  | some slot =>
    let number := p.first.toNat + j
    let g : Group :=
      { ctx := p.ctx
        entry := p.entry.toNat
        place := place
        cohort := p.cohort.toNat
        cid := cid
        lss := 256 * p.lss.toNat
        array := p.array
        q := lowestResidence (residents s p.ctx) 0 12288
        number := number
        alloc := 16 * (p.alloc.toNat + 1)
        th := startThreads p.arg.toNat p.groups.toNat number rm
        stack := [{ pc := p.pc, mask := BitVec.allOnes 32, park := .run }]
        code := p.code
        map := p.map
        mapn := p.mapn.toNat
        tag := p.tag.toNat }
    let s := setGroup s k slot g
    let add (c : Cohort) : Cohort := if c.id = cid then { c with slots := c.slots ++ [slot] } else c
    modCore s k fun c => { c with cohorts := c.cohorts.map add }

/-- LAUNCH_PLACEMENT (R240): a core takes a cohort, or refuses one it has no room for. -/
def execLaunchPlacement (d : Fin 4) (c : Fin 24) (p : Placement) (s : State) : Result :=
  .next <|
    let k := coreKey d c
    let e := p.entry.toNat
    match getEntry s e with
    | none => s
    | some x =>
      match x.parts.find? fun w => w.placed.contains (k, p.cohort.toNat, false) with
      | none => s
      | some w =>
        if !running s || x.ctx ≠ p.ctx then s
        else if !(coreFits s k p.ncoh.toNat (16 * (p.alloc.toNat + 1)) (256 * p.lss.toNat) p.array p.ctx) then
          emit s (.workDone 4 d c p.cohort.toNat)
        else
          let s := takeLs (takeArray s k p.ctx p.array false) k p.ctx false
          let taken (q : Nat × Nat × Bool) : Nat × Nat × Bool := if q = (k, p.cohort.toNat, false) then (k, p.cohort.toNat, true) else q
          let s := setPart s e { w with placed := w.placed.map taken }
          let cid := s.disp.cohorts
          let s := modDisp s fun d => { d with cohorts := d.cohorts + 1 }
          let co : Cohort := { id := cid, ctx := p.ctx, entry := e, place := w.place, number := p.cohort.toNat }
          let s := modCore s k fun c => { c with cohorts := c.cohorts ++ [co] }
          let rm := match getCtx s p.ctx.toNat with | some c => c.rm | none => 0
          each s (List.range p.ncoh.toNat) (placeGroup k cid w.place rm p)

/-- Whether every cohort of a part has ended. -/
def launchEnded (s : State) (ctx : BitVec 12) (e : Nat) (w : Work) : Bool :=
  w.running && w.toPlace.isEmpty && w.placed.isEmpty &&
  !((match getCtx s ctx.toNat with | some c => c.saved | none => []).any fun g => g.2.entry = e && g.2.place = w.place)

/-- WORK_DONE_COHORT_ENDED (R240): the dispatcher learns that a cohort has ended. -/
def execWorkDoneCohortEnded (d : Fin 4) (c : Fin 24) (ctx : BitVec 12) (cohort : W32) (s : State) : Result :=
  .next <|
    let k := coreKey d c
    let mine (x : Cohort) : Bool := x.ended && x.ctx = ctx && x.number = cohort.toNat
    match (getCore s k).cohorts.find? mine with
    | none => s
    | some co =>
      if !halyard s then s
      else
        let s := modCore s k fun x => { x with cohorts := x.cohorts.filter fun y => y.id ≠ co.id }
        match getEntry s co.entry with
        | none => s
        | some x =>
          match x.parts.find? fun w => w.place = co.place with
          | none => s
          | some w =>
            let w := { w with placed := w.placed.filter fun q => q.2.1 ≠ co.number }
            let s := setPart s co.entry w
            if launchEnded s ctx co.entry w then partDone s co.entry w 0 else s

/-- WORK_DONE_PLACEMENT_REFUSED (R240): the dispatcher places a refused cohort again. -/
def execWorkDonePlacementRefused (d : Fin 4) (c : Fin 24) (ctx : BitVec 12) (cohort : W32) (s : State) : Result :=
  .next <|
    let q := (coreKey d c, cohort.toNat, false)
    match s.disp.entries.find? fun e => e.2.ctx = ctx && e.2.parts.any fun w => w.placed.contains q with
    | none => s
    | some (e, x) =>
      match x.parts.find? fun w => w.placed.contains q with
      | none => s
      | some w =>
        if halyard s then
          setPart s e { w with
            placed := w.placed.filter fun y => y ≠ q
            toPlace := insertBy (fun i => i) cohort.toNat w.toPlace }
        else s

/-! ## COPY (R145, R330) -/

/-- Issuer that stands for the dispatcher's copy engine in a request. -/
def copyIssuer : Issuer := .cc 0

/-- Pieces of a byte range, cut at lines and pages. -/
def copyPieces (va n : Nat) : List (Nat × Nat) := cutSpan 128 (n + 1) va n

def copyBy (s : State) (ctx : BitVec 12) : By := { who := .ctx ctx (ctxPart s ctx.toNat), agent := agentDispatcher }

/-- Send one request of the copy engine. -/
def copySend (s : State) (e : Nat) (ctx : BitVec 12) (kind : OutKind) (l : Leaf) (va n : Nat) (data : List Byte) : State × Nat :=
  let pa := outAddr l va
  sendOut s {
    tgt := l.tgt
    dev := l.hi.toNat
    addr := if l.tgt = 3 then pa else l.hi.toNat * 2 ^ 48 + pa
    va := va
    kind := kind
    who := copyIssuer
    ctx := ctx
    agent := agentDispatcher
    size := n
    entry := e
    data := data }

/-- Ask for the off-device pieces of a source. -/
def copyReads (s : State) (e : Nat) (ctx : BitVec 12) : List (Nat × Nat) → State × List Nat
  | [] => (s, [])
  | (va, n) :: r =>
    match heldOf s ctx.toNat va with
    | some l =>
      if l.tgt = 0 then copyReads s e ctx r
      else
        let (s, id) := copySend s e ctx .copy l va n []
        let (s, ids) := copyReads s e ctx r
        (s, id :: ids)
    | none => copyReads s e ctx r

/-- The bytes of a source, and its first poisoned line. -/
def copySource (s : State) (ctx : BitVec 12) (got : List (Nat × List Byte)) : List (Nat × Nat) → State × List Byte × Option Nat
  | [] => (s, [], none)
  | (va, n) :: r =>
    let (s, bs, bad) : State × List Byte × Bool := match heldOf s ctx.toNat va with
      | some l => if l.tgt = 0 then homeRead s (copyBy s ctx) (outAddr l va) n else (s, gotBytes got va n, false)
      | none => (s, List.replicate n 0, false)
    let (s, rest, worse) := copySource s ctx got r
    (s, bs ++ rest, if bad then some (va / 128 * 128) else worse)

/-- Write a destination: local pieces at their homes, the others sent. -/
def copyWrites (s : State) (e : Nat) (ctx : BitVec 12) : List (Nat × Nat) → List Byte → State × List Nat
  | [], _ => (s, [])
  | (va, n) :: r, bs =>
    match heldOf s ctx.toNat va with
    | some l =>
      if l.tgt = 0 then copyWrites (homeWrite s (copyBy s ctx) (outAddr l va) (bs.take n)) e ctx r (bs.drop n)
      else
        let (s, id) := copySend s e ctx .copyW l va n (bs.take n)
        let (s, ids) := copyWrites s e ctx r (bs.drop n)
        (s, id :: ids)
    | none => copyWrites s e ctx r (bs.drop n)

/-- A line of a copy's destination in local memory is locked, or a reservation defers the write (R141, R244). -/
def copyDeferred (s : State) (ctx : BitVec 12) (ps : List (Nat × Nat)) : Bool :=
  ps.any fun p =>
    match heldOf s ctx.toNat p.1 with
    | some l => l.tgt = 0 && lineDeferred s (copyBy s ctx).key (outAddr l p.1 / 128)
    | none => false

/-- A copy's request that fails as it is sent is a hardware fault of its context (R151, R265). -/
def copyUnsent (s : State) (ids : List Nat) : State :=
  match unsent s ids with
  | r :: _ => hardwareFault (dropOut (declareUnsent s r) r.id) r.ctx.toNat 2 cFabricPath r.va []
  | [] => s

/-- A copy whose requests have all been answered goes on: its writes, once no line defers them, then its end. -/
def copyStep (s : State) (e place : Nat) : State :=
  match getEntry s e with
  | none => s
  | some x =>
    match x.parts.find? fun w => w.place = place && w.running && kindOf w.words = 2 with
    | none => s
    | some w =>
      if !w.ids.isEmpty then s
      else if w.wrote then partDone s e w 0
      else if copyDeferred s x.ctx (copyPieces (dw w.words 5) (lenField w.words)) then s
      else
        let n := lenField w.words
        let (s, bs, bad) := copySource s x.ctx w.got (copyPieces (dw w.words 4) n)
        match bad with
        | some va => hardwareFault s x.ctx.toNat 3 cPoison va ((peek s 4 x.ctx.toNat va).map fun pa => pa / 65536).toList
        | none =>
          let (s, ids) := copyWrites s e x.ctx (copyPieces (dw w.words 5) n) bs
          if ids.isEmpty then partDone s e { w with wrote := true } 0 else copyUnsent (setPart s e { w with wrote := true, ids := ids, got := [] }) ids

/-- COPY: the copy engine runs an eligible copy. -/
def execCopy (entry : BitVec 10) (s : State) : Result :=
  .next <|
    let e := entry.toNat
    match getEntry s e with
    | none => s
    | some x =>
      if !running s then s
      else
        match startable s x 2 with
        | none => s
        | some w =>
          let now := sparTimer s
          let s := modEntry s e fun x => { x with phase := .running, started := match x.started with | some t => some t | none => some now }
          let (s, ids) := copyReads s e x.ctx (copyPieces (dw w.words 4) (lenField w.words))
          copyUnsent (copyStep (setPart s e { w with running := true, ids := ids }) e w.place) ids

/-! ## STEP (R329) -/

/-- STEP: an eligible step starts its graph; one whose every part has a bad form is over. -/
def execStep (entry : BitVec 10) (s : State) : Result :=
  .next <|
    let e := entry.toNat
    match getEntry s e with
    | none => s
    | some x =>
      if !running s || kindOf x.words ≠ 4 || x.phase ≠ .checked || !orderOk s x || !workOk s x.ctx.toNat then s
      else entryDone (modEntry s e fun x => { x with phase := .running }) e

/-! ## Completion records (R311, R334) -/

/-- After a record is written a drain may be over, and a replay may go on. -/
def afterRecord (s : State) (ctx : BitVec 12) : State := rerunAll (drainCheck s (partOfCtx s ctx.toNat))

/-- COMPLETION_RECORD_WRITE (R334). -/
def execCompletionRecordWrite (entry : BitVec 10) (s : State) : Result :=
  .next <|
    match getEntry s entry.toNat with
    | none => s
    | some x => if running s then afterRecord (writeRecord s entry.toNat) x.ctx else s

/-- COMPLETION_RING_POLL (R334): HEAD is reread for the record that waits. -/
def execCompletionRingPoll (handle : BitVec 14) (s : State) : Result :=
  .next <|
    match firstWaiting s handle.toNat, getQueue s handle.toNat with
    | some e, some q => if running s then afterRecord (writeRecord s e) q.ctx else s
    | _, _ => s

/-! ## Pre-emption by priority (R332) -/

/-- The lowest priority among a context's launches that have groups on a core. -/
def lowestPlaced (s : State) (ctx : BitVec 12) : Option Nat :=
  let ps := (groupsOf s ctx).filterMap fun g => (getEntry s g.2.2.entry).map fun x => prioOf s x
  ps.head?.map fun p => ps.foldl min p

/-- The context to pre-empt for another of its partition: lowest priority, ties to the highest CTXID. -/
def victimCtx (s : State) (ctx : BitVec 12) : Option Nat :=
  let p := partOfCtx s ctx.toNat
  let cs := s.disp.ctxs.filterMap fun c =>
    if c.2.part = p && c.1 ≠ ctx.toNat && !c.2.preempting then (lowestPlaced s (BitVec.ofNat 12 c.1)).map fun n => (c.1, n) else none
  (cs.find? fun a => cs.all fun b => decide (a.2 < b.2) || (a.2 = b.2 && decide (b.1 ≤ a.1))).map Prod.fst

/-- PRIORITY_PREEMPTION (R332): a PRIO 7 launch that cannot be placed makes the dispatcher pre-empt one context. -/
def execPriorityPreemption (entry : BitVec 10) (s : State) : Result :=
  .next <|
    match getEntry s entry.toNat with
    | none => s
    | some x =>
      if !running s || prioOf s x ≠ 7 || !workOk s x.ctx.toNat then s
      else
        match placing x with
        | none => s
        | some (w, i) =>
          if (cohortCore s x w i).isSome then s
          else
            match victimCtx s x.ctx with
            | none => s
            | some c =>
              askSave (modCtx s c fun q => { q with preempting := true, byCommand := false, late := false }) (BitVec.ofNat 12 c)

/-! ## Restoring a group (R65, R67, R68, R73) -/

/-- GROUP_RESTORE: a core checks a saved group's image and takes it into a slot. A poisoned image tears the context
down, a bad one ends it. Members of a cohort go to one core. -/
def execGroupRestore (d : Fin 4) (c : Fin 24) (slot : Fin 128) (ctx : BitVec 12) (q : Nat) (s : State) : Result :=
  .next <|
    let k := coreKey d c
    match getCtx s ctx.toNat with
    | none => s
    | some x =>
      match tfind x.saved q with
      | none => s
      | some v =>
        let home := s.cores.find? fun p => p.2.cohorts.any fun y => y.id = v.cid
        let here : Bool := match home with | some p => p.1 = k | none => true
        let ok := running s && workOk s ctx.toNat && !x.preempting && here && corePresent s k && bit (getPart s x.part).cores k &&
          (getGroup s k slot).isNone && coreFits s k 1 v.alloc v.lss v.array ctx
        if !ok then s
        else
          let pa := if v.cut then x.epsave + 2 ^ 22 + 32768 * q else x.preempt + 32768 * q
          if (List.range 134).any fun i => linePoisoned s (pa / 128 + i) then
            hardwareFault s ctx.toNat 3 cPoison (pa / 128 * 128) [pa / 65536]
          else
            let m := imageOf (memBytes s pa 17024)
            if imageOk m v.alloc then placeImage s k slot ctx q v m
            else programFault s ctx.toNat (some v.entry) m.pc 0

/-! ## Watched lines (R240, R322) -/

/-- The dispatcher acts on a signalled handle: a queue's TAIL, a fault ring's HEAD, a trap queue's HEAD. -/
def handleSeen (s : State) (h : Nat) : State :=
  match tfind s.disp.watches h with
  | none => s
  | some w =>
    match w.consumer with
    | .queue => fetchQueue s h
    | .ring p =>
      let (s, bs, _) := homeRead s byDispatcher ((getRing s p).base + 128) 8
      ringSeen s p (leNat bs)
    | .trapq c => trapHeadSeen (clearWatch s h) c
    | .cc _ => s

/-- A control core's own handles among those a signal names, which are pending. -/
def ownHandles (s : State) (n : Nat) (hs : List Nat) : List Nat :=
  hs.filter fun h => match tfind s.disp.watches h with | some w => w.pending && w.consumer = .cc n | none => false

/-- WATCHED_LINE_SIGNAL (R322): a control core takes its handles as interrupts; the dispatcher reads the lines. -/
def execWatchedLineSignal (handles : List (BitVec 14)) (consumer : Option (Fin 96)) (s : State) : Result :=
  .next <|
    let hs := handles.map BitVec.toNat
    if !running s then s
    else
      match consumer with
      | some n => watchToCC s n (ownHandles s n hs)
      | none => each s hs handleSeen

end Sys2Proof.Machine
end

