-- ==== Sys2Proof/Machine/Epochs.lean ====
section
/-! DEFINITION. Epochs: the silt pool, commits at a cut across the devices of a job, rollback and replay, mirrored
protection, migration tracking and replica pairs (R280 to R297, R301, R336 to R341). -/

namespace Sys2Proof.Machine

/-! ## Who may send what (R271, R287) -/

/-- The job slot that carries a fabric job number. -/
def slotOfJob (s : State) (job : Nat) : Option Nat :=
  if job = 0 then none else (s.epochs.slots.find? fun p => p.2.job = job).map Prod.fst

/-- A packet the device does not act on is discarded and counted. -/
def discardCtl (s : State) : State := modFabric s fun f => { f with discarded := f.discarded + 1 }

/-- Run a coordinator's command on a job's slot, where its sender passes: the manager in force under R271, or this
device itself for a job confined to it. -/
def fromCoord (s : State) (src gen job : Nat) (f : State → Nat → State) : State :=
  if !halyard s then s
  else
    match slotOfJob s job with
    | none => discardCtl s
    | some j =>
      if (getSlot s j).devices = 1 && src = s.fabric.device then f s j
      else if managerOk s src gen false then f (modFabric s fun x => { x with manager := src, gen := gen }) j
      else discardCtl s

/-- Reply to the coordinator of a slot. -/
def toCoord (s : State) (j kind arg epoch : Nat) : State :=
  let sl := getSlot s j
  emit s (.epoch (coordOf s sl) sl.job kind arg epoch)

/-! ## The cut (R288) -/

/-- Tag tables and rounds of a context's launches. -/
def snapTags (s : State) (ctx : BitVec 12) : Tab RedTag := tfilter s.homes.tags fun _ t => t.ctx = ctx

/-- A context's dispatch state at a cut: its entries that have not completed, its groups on cores and saved, its tags. -/
def snapOf (s : State) (k : Nat) : Snap :=
  let ctx := BitVec.ofNat 12 k
  let here := (groupsOf s ctx).map fun g => (g.2.2.q, { savedOf (cohortOf (getCore s g.1) g.2.2) g.2.2 with cut := true })
  let old : Tab Saved := match getCtx s k with | some c => c.saved | none => []
  let away := old.map fun p => (p.1, { p.2 with cut := true })
  let tags := snapTags s ctx
  let mine (key : Nat) : Bool := tags.any fun t => t.1 = key / 2 ^ 41
  { entries := s.disp.entries.filter fun e => e.2.ctx = ctx && e.2.phase ≠ .completed
    groups := sortBy Prod.fst (here ++ away)
    tags := tags
    rounds := s.homes.rounds.filter fun r => tags.any fun t => t.1 = r.tag
    leaves := s.cores.map fun c => (c.1, tfilter c.2.rounds fun key _ => mine key) }

/-- The dispatcher copies the image of a group saved by pre-emption into the epoch save area. -/
def copyImage (s : State) (c : Ctx) (q : Nat) (v : Saved) : State :=
  if v.cut then s
  else homeWriteAll s byDispatcher (c.epsave + 2 ^ 22 + 32768 * q) (memBytes s (c.preempt + 32768 * q) 32768)

/-- A job's groups are asked to stop at their next cheap point, staying on their cores. -/
def askCut (s : State) (j : Nat) : State :=
  each s (ctxsOfSlot s j) fun s k =>
    match getCtx s k with
    | none => s
    | some c =>
      let s := each s (groupsOf s (BitVec.ofNat 12 k)) fun s g => setGroup s g.1 g.2.1 { g.2.2 with cutReq := true }
      each s c.saved fun s v => copyImage s c v.1 v.2

/-- EPOCH_PREPARE (R288): the dispatcher stops fetching and the groups are asked to stop. -/
def execEpochPrepare (src : W16) (gen : W32) (job : W16) (epoch : W64) (s : State) : Result :=
  .next <| fromCoord s src.toNat gen.toNat job.toNat fun s j =>
    let sl := getSlot s j
    if sl.protect = 0 || epoch.toNat ≠ sl.committed + 1 || sl.state = 3 || sl.state = 4 || sl.state = 6 then s
    else if sl.cutFor.isSome || sl.state = 2 then s
    else askCut (modSlot s j fun x => { x with state := 2, cutFor := some epoch.toNat }) j

/-- Control cores of a slot's commit set. -/
def coresOfSlot (s : State) (j : Nat) : List Nat :=
  (bitsSet 96 (getSlot s j).cset).filter fun n => !(getCC s n).retired

/-- Every part of a job has stopped and every request it sourced has ended (R288). -/
def atCutAll (s : State) (j : Nat) : Bool :=
  (ctxsOfSlot s j).all (fun k => (groupsOf s (BitVec.ofNat 12 k)).all fun g => g.2.2.atCut) &&
  (coresOfSlot s j).all (fun n => (getCC s n).inEpoch) && jobQuiet s j

/-- CUT_REACHED (R288): the dispatch state of each context is recorded and PREPARED is sent. -/
def execCutReached (slot : Byte) (s : State) : Result :=
  .next <|
    let j := slot.toNat
    match (getSlot s j).cutFor with
    | none => s
    | some e =>
      if !running s || !atCutAll s j then s
      else
        let s := each s (ctxsOfSlot s j) fun s k => let snap := snapOf s k; modCtx s k fun c => { c with cut := some snap }
        toCoord (modSlot s j fun x => { x with cutFor := none }) j 3 0 e

/-- The stopped work of a job goes on. -/
def resumeCut (s : State) (j : Nat) : State :=
  let s := each s (ctxsOfSlot s j) fun s k =>
    each s (groupsOf s (BitVec.ofNat 12 k)) fun s g => setGroup s g.1 g.2.1 { g.2.2 with atCut := false, cutReq := false }
  each s (coresOfSlot s j) fun s n => modCC s n fun c => { c with inEpoch := false }

/-! ## Commit (R287, R295, R296) -/

/-- A slot's record is freed: for a tracked partition a KIND 2 record takes its place (R340). -/
def freeRecord (s : State) (i : Nat) : State :=
  match tfind s.epochs.silt i with
  | none => s
  | some r =>
    if (tget s.disp.tracks r.part {}).on && r.kind = 1 then siltPut s i { r with kind := 2 } else siltFree s i

/-- Records of a slot of KIND 1 whose epoch satisfies a test. -/
def recordsOf (s : State) (j : Nat) (p : Nat → Bool) : List (Nat × Silt) :=
  s.epochs.silt.filter fun r => r.2.slot = j && r.2.kind = 1 && p r.2.epoch

def freeUpTo (s : State) (j e : Nat) : State := each s ((recordsOf s j fun x => decide (x ≤ e)).map Prod.fst) freeRecord

/-- Forget what no rollback can need: replay entries completed up to an epoch, and older dispatch states. -/
def forgetUpTo (s : State) (j e : Nat) : State :=
  let keep (r : Replay) : Bool := match r.doneIn with | some d => decide (e < d) | none => true
  each s (ctxsOfSlot s j) fun s k => modCtx s k fun c => { c with
    replay := c.replay.filter keep
    snaps := tfilter c.snaps fun n _ => decide (e ≤ n) }

/-- Under mirrored protection the buddy is sent each frame with a record in the epoch committed, as it stands at the
cut (R295). -/
def sendMirror (s : State) (j e : Nat) : State :=
  let sl := getSlot s j
  if sl.protect ≠ 2 || sl.buddy = 0xFFFF then s
  else each s (recordsOf s j fun x => x = e) fun s r => emit s (.mirror sl.buddy sl.job r.2.frame (memBytes s (r.2.frame * 65536) 65536))

/-- Held completion records of an epoch are released (table "Commit sequence"). -/
def releaseHeld (s : State) (j e : Nat) : State :=
  let cs := ctxsOfSlot s j
  let free (x : Entry) : Entry :=
    match x.heldFor with
    | some h => if cs.contains x.ctx.toNat && decide (h ≤ e) then { x with heldFor := none } else x
    | none => x
  modDisp s fun d => { d with entries := tmap d.entries fun _ x => free x }

/-- EPOCH_COMMIT (R287): the epoch is committed, the next opened, slots freed and the work resumed. -/
def execEpochCommit (src : W16) (gen : W32) (job : W16) (epoch : W64) (s : State) : Result :=
  .next <| fromCoord s src.toNat gen.toNat job.toNat fun s j =>
    let sl := getSlot s j
    let e := epoch.toNat
    if sl.state ≠ 2 || sl.cutFor.isSome || e ≠ sl.committed + 1 then s
    else
      let s := sendMirror s j e
      let s := modSlot s j fun x => { x with
        committed := e
        copied := []
        state := 1
        overflowed := false
        asked := false
        hold := x.holdNext
        commits := x.commits + 1 }
      let s := each s (ctxsOfSlot s j) fun s k => modCtx s k fun c => { c with
        snaps := (match c.cut with | some x => tput c.snaps e x | none => c.snaps)
        cut := none }
      let s := if sl.protect = 2 then s else forgetUpTo (freeUpTo s j e) j e
      let s := resumeCut (releaseHeld s j e) j
      let s := event s 4 unitDispatcher 0x501 0 j e false
      toCoord s j 5 0 e

/-- EPOCH_ABANDON (R289): the stopped work goes on with the open epoch unchanged. -/
def execEpochAbandon (src : W16) (gen : W32) (job : W16) (epoch : W64) (s : State) : Result :=
  .next <| fromCoord s src.toNat gen.toNat job.toNat fun s j =>
    let sl := getSlot s j
    if sl.state ≠ 2 || epoch.toNat ≠ sl.committed + 1 then s
    else
      let s := modSlot s j fun x => { x with state := if x.overflowed then 5 else 1, cutFor := none, asked := false }
      let s := each s (ctxsOfSlot s j) fun s k => modCtx s k fun c => { c with cut := none }
      resumeCut s j

/-- EPOCH_QUERY (R289): the device answers with its slot's state and committed epoch. -/
def execEpochQuery (src : W16) (gen : W32) (job : W16) (s : State) : Result :=
  .next <| fromCoord s src.toNat gen.toNat job.toNat fun s j =>
    let sl := getSlot s j
    emit s (.epoch src.toNat sl.job 15 sl.state sl.committed)

/-! ## Rollback (R290 to R292) -/

/-- Set the rolling-back mark of a job's entries in the job table (R263). -/
def setRolling (s : State) (job : Nat) (b : Bool) : State :=
  modFabric s fun f => { f with jobs := tmap f.jobs fun _ e => if e.enabled && e.job = job then { e with rolling := b } else e }

/-- A context's queued and running work is discarded, and with it records that are held. -/
def discardWork (s : State) (k : Nat) : State :=
  let mine := s.disp.entries.filter fun e => e.2.ctx.toNat = k && (e.2.phase ≠ .completed || e.2.heldFor.isSome)
  each s mine fun s e => dropEntry (each s e.2.parts fun s w => freeTag s w.tag) e.1

/-- EPOCH_STOP (R290): every context of the job is torn down; STOPPED follows once its requests have ended. -/
def execEpochStop (src : W16) (gen : W32) (job : W16) (s : State) : Result :=
  .next <| fromCoord s src.toNat gen.toNat job.toNat fun s j =>
    let sl := getSlot s j
    if sl.protect = 0 || sl.state = 6 then s
    else
      let s := each s (ctxsOfSlot s j) fun s k =>
        match getCtx s k with
        | some c => if c.state = .ended then s else
            discardWork (modCtx (teardown s (BitVec.ofNat 12 k)) k fun c => { c with state := .torn }) k
        | none => s
      let s := setRolling s sl.job true
      let s := each s (coresOfSlot s j) fun s n => modCC s n fun c => { c with inEpoch := false }
      stopCheck (modSlot s j fun x => { x with
        state := if x.state = 4 then 4 else 3
        cutFor := none
        asked := false
        restoreAt := none
        stopping := true }) j

/-- Restore one frame from its record's slot, and free the slot (R291). -/
def restoreFrame (s : State) (i : Nat) (r : Silt) : State :=
  let f := r.frame
  let s := dropFrames s fun g => g = f
  let s := modOwn s f fun o => { o with poison := false }
  let src := siltSlotPa s i
  let dst := f * 65536
  let cells := s.mem.filter fun p => decide (src ≤ p.1) && decide (p.1 < src + 65536)
  let s := modMem s fun m => cells.foldl (fun m p => mwrite m (p.1 - src + dst) p.2) (mzero m dst 65536)
  freeRecord s i

/-- Frames of a slot's contexts that are preserved and poisoned. -/
def lostPreserved (s : State) (j : Nat) : Bool :=
  let cs := ctxsOfSlot s j
  s.hbm.own.any fun o => o.2.state = 2 && o.2.presv && o.2.poison && cs.contains o.2.owner

/-- A number's image under a renaming. -/
def renamed (m : List (Nat × Nat)) (n : Nat) : Nat := match m.find? fun p => p.1 = n with | some p => p.2 | none => n

/-- Give each key of a recorded table its own number again, or a free one where that is taken. -/
def newNumbers (lo n : Nat) : List Nat → Tab Unit → List (Nat × Nat)
  | [], _ => []
  | k :: r, taken =>
    let other := if (tfind taken k).isNone then k else match tfree taken lo n with | some j => j | none => lo + n + k
    (k, other) :: newNumbers lo n r (tput taken other ())

/-- A context's dispatch state comes back from a cut: entries, groups, tags (R291, R339). -/
def reloadCtx (s : State) (k t : Nat) : State :=
  match getCtx s k with
  | none => s
  | some c =>
    let snap := tget c.snaps t {}
    let em := newNumbers 0 1024 (snap.entries.map Prod.fst) (s.disp.entries.map fun p => (p.1, ()))
    let tm := newNumbers 1 4095 (snap.tags.map Prod.fst) (s.homes.tags.map fun p => (p.1, ()))
    let work (w : Work) : Work := { w with tag := renamed tm w.tag, ids := [], got := [], wrote := false }
    let s := modDisp s fun d => { d with
      entries := snap.entries.foldl (fun m e => tput m (renamed em e.1) { e.2 with parts := e.2.parts.map work, replay := true })
        d.entries }
    let s := modHomes s fun h => { h with
      tags := snap.tags.foldl (fun m x => tput m (renamed tm x.1) { x.2 with entry := renamed em x.2.entry }) h.tags
      rounds := h.rounds ++ snap.rounds.map fun r => { r with tag := renamed tm r.tag } }
    let s := each s snap.leaves fun s l => modCore s l.1 fun x => { x with
      rounds := l.2.foldl (fun m p => tput m (tagKey (renamed tm (p.1 / 2 ^ 41)) (p.1 % 2 ^ 41)) p.2) x.rounds }
    let inSnap (r : Replay) : Bool := snap.entries.any fun e => e.2.queue = r.queue && e.2.seq = r.seq
    let again (r : Replay) : Replay :=
      match r.doneIn with
      | some d => if t < d then { r with doneIn := none, waiting := !inSnap r } else r
      | none => { r with waiting := !inSnap r }
    modCtx s k fun c => { c with
      saved := snap.groups.map fun g => (g.1, { g.2 with entry := renamed em g.2.entry, tag := renamed tm g.2.tag })
      replay := c.replay.map again
      snaps := tfilter c.snaps fun n _ => decide (n ≤ t)
      cut := none }

/-- The devices of a job: this one for a job confined to it. -/
def devicesOf (s : State) (job : Nat) : List Nat :=
  match slotOfJob s job with
  | some j => if (getSlot s j).devices = 1 then [s.fabric.device] else Config.jobDevices job
  | none => Config.jobDevices job

/-- A path that ended requests of the job is still failed, and its far device is outside the job: the rollback waits
(table "Faults against protection mode", class 2). -/
def pathsBlocked (s : State) (j : Nat) : Bool :=
  (getSlot s j).far.any fun d => s.fabric.failed.contains d && !(devicesOf s (getSlot s j).job).contains d

/-- Restore a slot to a target: the frames logged after it in descending SEQ, then the dispatch state (R291). -/
def restoreSlot (s : State) (j t : Nat) : State :=
  let rs := (sortBy (fun r => r.2.seq) (recordsOf s j fun e => decide (t < e))).reverse
  let s := each s rs fun s r => restoreFrame s r.1 r.2
  let s := modSlot s j fun x => { x with restoreAt := none }
  if lostPreserved s j then slotFault s j 6 0 0 []
  else
    let s := each s (ctxsOfSlot s j) fun s k => reloadCtx s k t
    toCoord (modSlot s j fun x => { x with committed := t, copied := [], target := t, far := [] }) j 11 0 t

/-- EPOCH_RESTORE (R291): the slot is restored, at once or when the failed paths it waits for are cleared (R293). -/
def execEpochRestore (src : W16) (gen : W32) (job : W16) (target : W64) (s : State) : Result :=
  .next <| fromCoord s src.toNat gen.toNat job.toNat fun s j =>
    let sl := getSlot s j
    let t := target.toNat
    if sl.state ≠ 3 || sl.stopping || sl.committed < t then s
    else if pathsBlocked s j then modSlot s j fun x => { x with restoreAt := some t }
    else restoreSlot s j t

/-- Rollbacks that waited for a path go on once it is cleared (R293). -/
def tickRestores (s : State) : State :=
  each s s.epochs.slots fun s p =>
    match p.2.restoreAt with
    | some t => if p.2.state ≠ 3 || pathsBlocked s p.1 then s else restoreSlot s p.1 t
    | none => s

/-- EPOCH_RESUME (R290, R292): the job's entries serve again, its groups and descriptors restart. In the strict class
a signature other than the recorded one sets the flag (R304, R306). -/
def execEpochResume (src : W16) (gen : W32) (job : W16) (s : State) : Result :=
  .next <| fromCoord s src.toNat gen.toNat job.toNat fun s j =>
    let sl := getSlot s j
    if sl.state ≠ 3 || sl.stopping then s
    else
      let s := setRolling s sl.job false
      let s := modSlot s j fun x => { x with state := if x.overflowed then 5 else 1, rollbacks := x.rollbacks + 1, faultClass := 0 }
      let sig := signature s
      let s := each s (ctxsOfSlot s j) fun s k =>
        modCtx s k fun c => { c with
          state := if c.state = .torn then .live else c.state
          nrflag := c.nrflag || (sl.cls = 0 && c.signature ≠ sig) }
      let s := each s (ctxsOfSlot s j) rerun
      event s 4 unitDispatcher 0x502 0 j sl.target false

/-! ## The coordinator (R287, R289, R290, R296) -/

/-- This device coordinates a job: it is the manager, or the job is confined to it. -/
def coordinates (s : State) (job : Nat) : Bool :=
  (s.fabric.manager = s.fabric.device && s.fabric.device ≠ 0xFFFF) ||
  (match slotOfJob s job with | some j => (getSlot s j).devices = 1 | none => false)

def protectOf (s : State) (job : Nat) : Nat := match slotOfJob s job with | some j => (getSlot s j).protect | none => 1

def findCoord (s : State) (job : Nat) : Option Coord := s.epochs.coords.find? fun c => c.job = job

def putCoord (s : State) (c : Coord) : State :=
  modEpochs s fun e => { e with coords := (e.coords.filter fun x => x.job ≠ c.job) ++ [c] }

/-- Send a command to every device of a job. -/
def toJob (s : State) (job kind epoch : Nat) : State :=
  each s (devicesOf s job) fun s d => emit s (.epoch d job kind 0 epoch)

/-- A row of the coordinator acts where this device coordinates the job; any other such packet is discarded. -/
def atCoord (s : State) (job : Nat) (f : State → State) : Result :=
  .next (if !halyard s then s else if coordinates s job then f s else discardCtl s)

/-- A device's answer joins those of the phase in progress; `f` runs once every device of the job has answered. -/
def answered (s : State) (src job phase epoch : Nat) (f : State → Coord → State) : State :=
  match findCoord s job with
  | none => s
  | some c =>
    if c.phase ≠ phase || (epoch ≠ 0 && epoch ≠ c.epoch) || !(devicesOf s job).contains src then s
    else
      let c := { c with answered := if c.answered.contains src then c.answered else c.answered ++ [src] }
      let s := putCoord s c
      if (devicesOf s job).all fun d => c.answered.contains d then f s { c with answered := [] } else s

/-- Start the commit of the epoch after the one recorded. -/
def startCommit (s : State) (c : Coord) : State :=
  let e := c.recorded + 1
  toJob (putCoord s { c with phase := 1, epoch := e, answered := [], wants := false }) c.job 2 e

/-- EPOCH_REQUEST (R287, R296): a commit starts, or the request joins the one in progress; under mirrored protection
it waits until the last epoch is mirrored. -/
def execEpochRequest (_src : W16) (job : W16) (epoch : W64) (s : State) : Result :=
  atCoord s job.toNat fun s =>
    let c : Coord := match findCoord s job.toNat with
      | some c => c
      | none => { job := job.toNat, phase := 0, epoch := 0, recorded := epoch.toNat - 1, mirrored := epoch.toNat - 1 }
    if c.phase ≠ 0 || epoch.toNat ≠ c.recorded + 1 then s
    else if protectOf s job.toNat = 2 && c.mirrored ≠ c.recorded then putCoord s { c with wants := true }
    else startCommit s c

/-- EPOCH_PREPARED (R287): once every device has prepared, the epoch is recorded as committed and COMMIT sent. -/
def execEpochPrepared (src : W16) (job : W16) (epoch : W64) (s : State) : Result :=
  atCoord s job.toNat fun s => answered s src.toNat job.toNat 1 epoch.toNat fun s c =>
    toJob (putCoord s { c with phase := 2, recorded := c.epoch }) c.job 4 c.epoch

/-- EPOCH_COMMITTED (R287). -/
def execEpochCommitted (src : W16) (job : W16) (epoch : W64) (s : State) : Result :=
  atCoord s job.toNat fun s => answered s src.toNat job.toNat 2 epoch.toNat fun s c => putCoord s { c with phase := 0 }

/-- EPOCH_FAULT (R290, R293): a fault resolved by replay starts a rollback to the committed epoch as recorded; one
that moves the job, to the mirrored epoch. A job under protection that does not cover the class has ended. -/
def execEpochFault (_src : W16) (job : W16) (cls : Byte) (s : State) : Result :=
  atCoord s job.toNat fun s =>
    let c : Coord := match findCoord s job.toNat with
      | some c => c
      | none =>
        let at0 := match slotOfJob s job.toNat with | some j => (getSlot s j).committed | none => 0
        { job := job.toNat, phase := 0, epoch := 0, recorded := at0, mirrored := at0 }
    let p := protectOf s job.toNat
    if classEnds p cls.toNat || c.phase = 3 || c.phase = 4 then s
    else
      let t := if 5 ≤ cls.toNat then c.mirrored else c.recorded
      toJob (putCoord s { c with phase := 3, epoch := t, recorded := t, answered := [], wants := false }) c.job 8 0

/-- EPOCH_STOPPED (R290): once every device has stopped, RESTORE names the target. -/
def execEpochStopped (src : W16) (job : W16) (s : State) : Result :=
  atCoord s job.toNat fun s => answered s src.toNat job.toNat 3 0 fun s c =>
    toJob (putCoord s { c with phase := 4 }) c.job 10 c.epoch

/-- EPOCH_RESTORED (R290). -/
def execEpochRestored (src : W16) (job : W16) (s : State) : Result :=
  atCoord s job.toNat fun s => answered s src.toNat job.toNat 4 0 fun s c =>
    toJob (putCoord s { c with phase := 0 }) c.job 12 0

/-- The buddy holds every frame of an epoch: M advances, slots and dispatch states up to it are freed (R295, R296). -/
def mirroredHere (s : State) (j e : Nat) : State :=
  let sl := getSlot s j
  if sl.protect ≠ 2 || e ≤ sl.mirrored || sl.committed < e then s
  else
    let s := forgetUpTo (freeUpTo (modSlot s j fun x => { x with mirrored := e }) j e) j e
    if sl.devices = 1 then s else toCoord s j 13 0 e

/-- EPOCH_MIRRORED (R295): from the buddy, the epoch is mirrored here; at the coordinator, a device has it mirrored,
and a commit that waits may start (R296). -/
def execEpochMirrored (src : W16) (job : W16) (epoch : W64) (s : State) : Result :=
  .next <|
    if !halyard s then s
    else
      let s := match slotOfJob s job.toNat with
        | some j => if (getSlot s j).buddy = src.toNat then mirroredHere s j epoch.toNat else s
        | none => s
      if !coordinates s job.toNat then s
      else
        match findCoord s job.toNat with
        | none => s
        | some c =>
          let c := { c with mirrored := max c.mirrored epoch.toNat }
          if c.wants && c.phase = 0 && c.mirrored = c.recorded then startCommit s c else putCoord s c

/-- EPOCH_STATE (R289): a device that has committed the epoch decides for COMMIT; when all have answered and none has,
ABANDON. -/
def execEpochState (src : W16) (job : W16) (state : Byte) (epoch : W64) (s : State) : Result :=
  atCoord s job.toNat fun s =>
    match findCoord s job.toNat with
    | none => s
    | some c =>
      if c.phase ≠ 5 then s
      else if epoch.toNat = c.epoch then
        toJob (putCoord s { c with phase := 2, recorded := c.epoch, answered := [] }) c.job 4 c.epoch
      else
        let s := putCoord s { c with states := c.states ++ [(src.toNat, state.toNat)] }
        answered s src.toNat job.toNat 5 0 fun s c => toJob (putCoord s { c with phase := 0, states := [] }) c.job 6 c.epoch

/-- A manager that takes over queries the devices of each job whose slot reads committing (R289). -/
def queryJobs (s : State) : State :=
  each s (s.epochs.slots.filter fun p => p.2.state = 2 && p.2.devices ≠ 1) fun s p =>
    toJob (putCoord s { job := p.2.job, phase := 5, epoch := p.2.committed + 1, recorded := p.2.committed,
                        mirrored := p.2.mirrored }) p.2.job 14 (p.2.committed + 1)

/-! ## The silt engine and its pool (R280, R284) -/

/-- SILT_COPY (R280, R281): the first write of an epoch to a preserved frame is held while the frame is copied. -/
def execSiltCopy (frame : BitVec 24) (writer : W16) (s : State) : Result :=
  .next (if running s then siltBefore s frame.toNat writer.toNat else s)

/-- Pool frames for a size in per cent. -/
def poolFrames (pct : Nat) : Nat := 11718750 * pct / 100

/-- A frame in a range other than free. -/
def anyHeld (s : State) (lo hi : Nat) : Bool := s.hbm.own.any fun o => lo ≤ o.1 && o.1 < hi && o.2.state ≠ 0

/-- Change the pool's size: frames that enter become system, frames that leave become free and are zeroed. -/
def poolResize (s : State) (pct : Nat) : State :=
  let a := 5120 + siltP s
  let b := 5120 + poolFrames pct
  let s := modEpochs s fun e => { e with pct := pct }
  let s :=
    if a ≤ b then s else zeroFrames (dropFrames s fun f => b ≤ f && f < a) fun f => b ≤ f && f < a
  let fix (f : Nat) (o : Own) : Own :=
    if a ≤ f && f < b then { state := 3, zero := o.zero, poison := o.poison }
    else if b ≤ f && f < a then { poison := o.poison }
    else o
  modHbm s fun h => { h with own := tmap h.own fix }

def poolCmd (pct : Nat) : Cmd :=
  { index := 0x7010
    sub := 1
    type := 0
    may := fun _ k => k.local2
    check := fun s _ =>
      if pct < 2 || 40 < pct then 3
      else if !s.epochs.silt.isEmpty || anyHeld s (5120 + siltP s) (5120 + poolFrames pct) then 4
      else 0
    apply := fun s _ => poolResize s pct }

/-- SILT_POOL_RESIZE (R284). -/
def execSiltPoolResize (q : Requester) (pct : Byte) (s : State) : Result := .next (command q (poolCmd pct.toNat) s)

/-! ## Migration tracking (R340, R341) -/

def modTrack (s : State) (p : Nat) (f : Track → Track) : State :=
  modDisp s fun d => { d with tracks := tmod d.tracks p {} f }

/-- Records of a partition of a kind. -/
def partRecords (s : State) (p kind : Nat) : List (Nat × Silt) := s.epochs.silt.filter fun r => r.2.part = p && r.2.kind = kind

def trackCmd (p v : Nat) : Cmd :=
  { index := 0x3400 + p
    sub := 1
    type := 6
    may := fun _ k => k.trio
    check := fun _ _ => if 1 < v then 3 else 0
    apply := fun s _ =>
      let s := modTrack s p fun t => { t with on := v = 1 }
      if v = 0 then each s ((partRecords s p 2).map Prod.fst) siltFree else s }

/-- MIGRATION_TRACKING_SET (R340). -/
def execMigrationTrackingSet (q : Requester) (p : Fin 64) (value : Byte) (s : State) : Result :=
  .next (command q (trackCmd p value.toNat) s)

/-- Frames that may hold a harvest buffer (R340). -/
def harvestFrame (s : State) (p f : Nat) : Bool :=
  let o := getOwn s f
  (o.state = 1 && o.part = p) || (4352 ≤ f && f < 5120 && o.state = 3)

/-- List frames into the buffer while it has room: what is left of the capacity. -/
def harvestList (s : State) (pa : Nat) : List (Nat × Silt) → Nat → Nat → State × Nat × Bool
  | [], n, _ => (s, n, false)
  | r :: rest, n, cap =>
    if cap ≤ n then (s, n, true)
    else
      let s := homeWriteAll s byHalyard (pa + 4 * n) (natLe 4 r.2.frame)
      harvestList (if r.2.kind = 2 then siltFree s r.1 else s) pa rest (n + 1) cap

/-- A harvest: the whole-partition mark after an overflow, KIND 2 records, which it frees, then KIND 1 (R341). -/
def harvestRun (s : State) (p pa cap : Nat) : State :=
  let all := (tget s.disp.tracks p {}).overflow && cap ≠ 0
  let s := if all then homeWriteAll s byHalyard pa (natLe 4 0xFFFFFFFF) else s
  let s := if all then modTrack s p fun t => { t with overflow := false } else s
  let (s, n, stopped) := harvestList s pa (partRecords s p 2 ++ partRecords s p 1) (b2n all) cap
  modTrack s p fun t => { t with state := if stopped then 3 else 2, count := n }

def harvestCmd (p w0 w1 : Nat) : Cmd :=
  { index := 0x3400 + p
    sub := 3
    type := 7
    may := fun _ k => k.trio
    check := fun s _ =>
      let cap := bits w1 63 32
      if w0 % 4 ≠ 0 || bits w1 31 0 ≠ 0 || 2 ^ 40 ≤ w0 || !(rangeFrames w0 (max 1 (4 * cap)) (harvestFrame s p)) then 3 else 0
    apply := fun s _ => harvestRun s p w0 (bits w1 63 32) }

/-- HARVEST (R341). -/
def execHarvest (q : Requester) (p : Fin 64) (w0 w1 : W64) (s : State) : Result :=
  .next (command q (harvestCmd p w0.toNat w1.toNat) s)

/-! ## Replica pairs (R301) -/

/-- Stacks that hold the stripes of a range within one region. -/
def stacksIn (s : State) (r : Region) (base size : Nat) : List Nat :=
  let c := chanCount s r
  let n0 := (base - r.base) / 256
  ((List.range (min c (size / 256))).map fun i => (chanAt s r ((n0 + i) % max 1 c)).1).eraseDups

/-- A range lies wholly inside one active region. -/
def insideRegion (s : State) (base size : Nat) : Option Region :=
  (s.hbm.regions.find? fun r => r.2.size ≠ 0 && r.2.base ≤ base && base + size ≤ r.2.base + r.2.size).map Prod.snd

/-- An activation is refused: a range outside a region, or a local replica that shares a stack with its source. -/
def replicaBad (s : State) (x : Replica) : Bool :=
  let dev := x.replica / 2 ^ 48
  let rep := x.replica % 2 ^ 48
  match insideRegion s x.source x.size with
  | none => true
  | some a =>
    if dev ≠ s.fabric.device then false
    else
      match insideRegion s rep x.size with
      | none => true
      | some b => (stacksIn s a x.source x.size).any fun k => (stacksIn s b rep x.size).contains k

def replicaWith (x : Replica) (sub v : Nat) : Replica :=
  match sub with
  | 1 => { x with source := v }
  | 2 => { x with size := v }
  | _ => { x with replica := v }

/-- A value breaks its entry's form. -/
def replicaForm (sub v : Nat) : Bool :=
  match sub with
  | 1 => v % 65536 ≠ 0 || 2 ^ 48 ≤ v
  | 2 => v % 65536 ≠ 0
  | _ => false

def replicaCmd (r sub v : Nat) : Cmd :=
  { index := 0x7400 + r
    sub := sub
    type := 3
    may := fun _ k => k.trio
    check := fun s _ =>
      let x := replicaWith (tget s.epochs.replicas r {}) sub v
      if replicaForm sub v || (x.size ≠ 0 && replicaBad s x) then 3 else 0
    apply := fun s _ => modEpochs s fun e => { e with replicas := tmod e.replicas r {} fun x =>
      let x := replicaWith x sub v
      { x with state := if x.size = 0 then 0 else 1 } } }

/-- A refused activation shows in the pair's state (table "Replica pair entries"). -/
def replicaRefused (q : Requester) (r sub v : Nat) (s : State) : State :=
  let (_, st, _) := cmdStatus q (replicaCmd r sub v) s
  if st = 3 && !replicaForm sub v then
    modEpochs s fun e => { e with replicas := tmod e.replicas r {} fun x =>
      { x with state := if x.state = 1 then 1 else 2 } }
  else s

/-- REPLICA_PAIR_ACTIVATE (R301): sub-indices 01 to 03. -/
def execReplicaPairActivate (q : Requester) (r : Fin 32) (sub : Byte) (value : W64) (s : State) : Result :=
  .next (if 1 ≤ sub.toNat && sub.toNat ≤ 3 && halyard s && reaches s q then
    command q (replicaCmd r sub.toNat value.toNat) (replicaRefused q r sub.toNat value.toNat s) else s)

end Sys2Proof.Machine
end

