-- ==== Sys2Proof/Machine/Flit.lean ====
section
/-! DEFINITION. Flits of Ratline and Shroud: their CRC and their control slot (R231, R232, R255). -/

namespace Sys2Proof.Machine

/-- One bit enters the CRC register. -/
def crcBit (r : Nat) (b : Bool) : Nat :=
  let n := r * 2 % 2 ^ 32
  if r.testBit 31 != b then Nat.xor n 0x04C11DB7 else n

/-- A byte enters the register, bit 0 first. -/
def crcByte (r : Nat) (v : Byte) : Nat := (List.range 8).foldl (fun r i => crcBit r (v.getLsbD i)) r

/-- The CRC of a flit, with the CRC field taken as zero (R232). -/
def flitCrc (f : List Byte) : Nat :=
  2 ^ 32 - 1 - (List.replicate 4 (0 : Byte) ++ f.drop 4).foldl crcByte (2 ^ 32 - 1)

/-- Words 0 and 1 of a flit's control slot. -/
def flitW0 (f : List Byte) : Nat := leNat (f.take 8)
def flitW1 (f : List Byte) : Nat := leNat ((f.drop 8).take 8)

def flitGood (f : List Byte) : Bool := flitCrc f = flitW0 f % 2 ^ 32
def flitSeq (f : List Byte) : Nat := bits (flitW0 f) 63 52
def flitAck (f : List Byte) : Nat := bits (flitW0 f) 51 40
def flitNak (f : List Byte) : Bool := bit (flitW0 f) 39
def flitIdle (f : List Byte) : Bool := bit (flitW0 f) 38

/-- The entries of a replay buffer after an acknowledgement: those sent after it. -/
def afterAck {α : Type} (ack : Nat) (replay : List (Nat × α)) : List (Nat × α) :=
  if replay.any fun r => r.1 = ack then (replay.dropWhile fun r => r.1 ≠ ack).drop 1 else replay

/-- Add returned slots to a virtual channel's credits. -/
def addCredit (cs : List Nat) (vc n : Nat) : List Nat := setNth cs vc (nth cs vc 0 + n)

end Sys2Proof.Machine
end

