-- ==== Sys2Proof/Machine/Resets.lean ====
section
/-! DEFINITION. Function Level Resets and PCI Express resets of functions (R316, R421, R422). -/

namespace Sys2Proof.Machine

def vfKey (p f : Nat) : Nat := 32 * p + f
def getVF (s : State) (v : Nat) : VFunc := tget s.disp.vfs v {}
def modVF (s : State) (v : Nat) (f : VFunc → VFunc) : State := modDisp s fun d => { d with vfs := tmod d.vfs v {} f }

/-- Reset a partition by squash, whether it is active or drains (R311, R313). -/
def squashIf (s : State) (p : Nat) : State :=
  if (getPart s p).state = 1 || (getPart s p).state = 2 then squashPart s p else s

/-- A virtual function's reset: a squash of its partition, after which the reset is complete (R316). -/
def vfReset (s : State) (v : Nat) : State :=
  let f := getVF s v
  let s := if f.part < 64 then squashIf s f.part else s
  modVF s v fun f => { f with flr := false, busMaster := false }

/-- A physical function's reset, by host-port mode (R316). -/
def pfReset (s : State) (p : Nat) : State :=
  let s := modPcie s p fun x => { x with flr := false }
  if s.disp.portMode = 0 then
    each s ((s.disp.parts.filter fun x => x.2.port = p && x.2.state ≠ 0).map Prod.fst) squashIf
  else each s ((s.disp.queues.filter fun q => q.2.func = p).map Prod.fst) queueDelete

/-- Resets that waited for the coherent domain (R422). -/
def pendingResets (s : State) : State :=
  let vs := (s.disp.vfs.filter fun v => v.2.flr).map Prod.fst
  each (each s ((s.pcie.filter fun p => p.2.flr).map Prod.fst) pfReset) vs vfReset

/-- Ask for the reset of functions; a domain that restarts makes them wait. -/
def askResets (s : State) (pf : Option Nat) (vs : List Nat) : State :=
  let s := match pf with | some p => modPcie s p fun x => { x with flr := true } | none => s
  let s := each s vs fun s v => modVF s v fun f => { f with flr := true }
  if domainUp s then pendingResets s else s

end Sys2Proof.Machine
end

