-- ==== Sys2Proof/Machine/Domain.lean ====
section
/-! DEFINITION. Loss and restart of the coherent domain, parity errors of slices, and the timers of snoops, locks and
reservations (R141, R163, R178 to R181, R244, R433). -/

namespace Sys2Proof.Machine

/-! ## Links between dies (chapter 1, Ratline wiring by position) -/

/-- The links a message between two dies crosses: the Inner link of a Loam die and the Spar die, the ring link of
neighbours, two Inner links of opposite dies. -/
def linksBetween (a b : Nat) : List Nat :=
  if a = b then []
  else if a = 4 then [b]
  else if b = 4 then [a]
  else if (a + 1) % 4 = b then [4 + a]
  else if (b + 1) % 4 = a then [4 + b]
  else [a, b]

def linkActive (s : State) (n : Nat) : Bool := (getLink s n).state = 6
def linksActive (s : State) : Bool := (List.range 8).all (linkActive s)

/-- A message can pass between two dies. -/
def pathUp (s : State) (a b : Nat) : Bool := (linksBetween a b).all (linkActive s)

/-- The dies at the two ends of a link: the Loam or clockwise-sending end first. -/
def linkEnds (n : Nat) : Nat × Nat := if n < 4 then (n, 4) else (n - 4, (n - 3) % 4)

/-! ## Going down (R179) -/

/-- A line's newest data cannot be written back: its owner cannot reach the home, or the home its stack. -/
def lineLost (s : State) (ln : Nat) (l : Line) : Bool :=
  let home := sliceDie (homeOf s (ln * 128))
  let stack := match regionOf s (ln * 128) with | some r => (placeIn s r (ln * 128)).1 / 3 | none => home
  l.mod && !pathUp s 4 home || (l.dirty || l.mod) && !pathUp s home stack

/-- Frames that a domain loss marks poisoned, ascending. -/
def lostFrames (s : State) : List Nat :=
  ((s.homes.lines.filter fun p => lineLost s p.1 p.2 || p.2.poison).map fun p => p.1 / 512).eraseDups

/-- Traffic of a link stops and both ends retrain: a link that was active returns to the clock stage, and every
message in flight is discarded with its replay buffer (R179, R252). -/
def retrainLink (s : State) (n : Nat) (lost : Bool) : State :=
  modLink s n fun l => { l with
    state := if lost then 9 else if l.state = 6 then 1 else l.state
    gotA := false
    gotB := false
    creditA := false
    creditB := false
    identA := none
    identB := none
    tries := 0
    trafficHeld := false
    mods := tmap l.mods fun _ m => { m with
      txSeq := 0
      acked := 4095
      rxLast := 4095
      replay := []
      credits := [0, 0, 0, 0, 0, 0]
      owed := [0, 0, 0, 0, 0, 0]
      nakWait := false
      replays := 0
      buffered := 0
      recal := none
      clock := false
      lanes := false } }

/-- The device is at the point where an event of R179 takes the domain down: usable, or starting with every link
active (R433). -/
def domainRuns (s : State) : Bool :=
  match s.life with
  | .usable => true
  | .starting => linksActive s
  | _ => false

/-- The coherent domain goes down (R179): the loss is recorded, cores halt, every context is recorded as torn down,
lines that can be written back are, and the frames of the others are poisoned. An event while the domain restarts joins
the restart (R433). -/
def domainFalls (s : State) (cause ref : Nat) : State :=
  if s.homes.down || s.homes.dead then s
  else
    let s := modHomes s fun h => { h with losses := h.losses + 1, cause := cause, ref := ref }
    let s := alarm (event s 4 (unitId 4 14 0) 0x001 0 cause 0 false) 0
    let s := each s (s.ccs.map Prod.fst) drainCC
    let s := each s (s.disp.ctxs.map Prod.fst) fun s c =>
      let live : Bool := match getCtx s c with | some x => x.state = .live || x.state = .saved | none => false
      if live then tornBy s c 0 else s
    let lost := lostFrames s
    let s := each s lost poisonFrame
    let s := modHomes s fun h => { h with down := true, poisoned := lost.length }
    each s (List.range 8) fun s n => retrainLink s n ((getLink s n).state = 9)

def domainDown (s : State) (cause ref : Nat) : State := if domainRuns s then domainFalls s cause ref else s

/-- A link is lost: it reads lost, and the domain goes down with its number (R181, R247). -/
def loseLink (s : State) (n : Nat) : State :=
  if !linkActive s n then s
  else
    let t := modLink s n fun l => { l with state := 9 }
    if domainRuns s then domainFalls t 2 n else t

/-! ## Coming back -/

/-- Clear the homes: every line, reservation, reduction and transaction goes (R179). -/
def clearHomes (s : State) : State :=
  modHomes s fun h => { h with
    lines := []
    resvs := []
    deferred := []
    tags := []
    rounds := []
    applied := []
    routers := []
    srcs := []
    txns := [] }

/-- Every array of the package is cleared (R179). -/
def clearArrays (s : State) : State := each s (s.cores.map Prod.fst) fun s k => arrayReset (arrayStop s k) k none

/-- A control core restarts in monitor firmware at an address (R27, R179, R390). -/
def restartCC (entry : Nat) (c : CCore) : CCore :=
  { c with
    pc := BitVec.ofNat 64 (0x10000000 + entry)
    level := .monitor
    resv := none
    window := false
    armed := false
    sb := []
    tmoves := []
    xinv := []
    waitIds := []
    results := []
    tlb := []
    icache := []
    inEpoch := false }

/-- A control core as the root of trust releases it, at the boot address (R27, R390). -/
def bootCC (entry : Nat) : CCore := { pc := BitVec.ofNat 64 (0x10000000 + entry), released := true }

/-- The Monitor stage of boot (R390, table "Boot stages"): with every die ready, the HBM stacks are trained, the frames of
firmware and of the silt pool are system frames, and the control cores are released. -/
def monitorStage (s : State) : State :=
  let starting : Bool := match s.life with | .starting => true | _ => false
  if !starting || s.hbm.system || s.homes.down || s.homes.dead ||
      !((List.range 5).all fun d => (getDie s d).startState = 1) then s
  else
    let s := modHbm s fun h => { h with system := true }
    let s := each s (List.range 12) fun s k => modStack s k fun x => if x.state = 0 then { x with state := 1 } else x
    { s with ccs := (List.range 96).map fun n => (n, bootCC s.sec.entry) }

/-- Job slots in use: those with a job number, and those a context is bound to. -/
def slotsInUse (s : State) : List Nat :=
  (List.range 256).filter fun j => (getSlot s j).job ≠ 0 || !(ctxsOfSlot s j).isEmpty

/-- Each job meets a fault of a class (R293, classes 4 and 5). -/
def allJobsFault (s : State) (cls : Nat) : State := each s (slotsInUse s) fun s j => slotFault s j cls 0 0 []

/-- The domain does not come back (R181): the dies concerned record why, and jobs meet class 5. -/
def domainDead (s : State) : State :=
  match s.life with
  | .starting =>
    let s := modHomes s fun h => { h with dead := true }
    let bad := (List.range 8).filter fun n => (getLink s n).state = 7 || (getLink s n).state = 8
    let s := failDies s ((List.range 4).filter fun d => !(getDie s d).clocks) 6
    failDies s (bad.flatMap fun n => [(linkEnds n).1, (linkEnds n).2]) 5
  | _ =>
    let bad := (List.range 8).filter fun n => (getLink s n).state = 7 || (getLink s n).state = 8
    let ends := bad.flatMap fun n => [(linkEnds n).1, (linkEnds n).2]
    let s := each s ((List.range 4).filter fun d => !(getDie s d).clocks) fun s d =>
      modDie s d fun x => { x with startState := 6, lost := true }
    let s := each s ends fun s d => modDie s d fun x => { x with startState := if x.startState ≤ 1 then 5 else x.startState }
    allJobsFault (modHomes s fun h => { h with dead := true }) 5

/-- DOMAIN_DOWN (R179): an event of the list, with the cause and unit it records. A cause of 2 names the link that is
lost. -/
def execDomainDown (cause : Fin 5) (ref : W16) (s : State) : Result :=
  .next (if !halyard s || cause.val = 0 then s
    else if cause.val = 2 then (if ref.toNat < 8 then loseLink s ref.toNat else s)
    else domainDown s cause ref.toNat)

/-- A link will not retrain, or a die has not relocked. -/
def restartFailed (s : State) : Bool :=
  (List.range 8).any (fun n => (getLink s n).state = 7 || (getLink s n).state = 8) ||
  (List.range 5).any fun d => !(getDie s d).clocks

/-- The monitor firmware's frames hold a poisoned line (R390). -/
def monitorPoisoned (s : State) : Bool := (List.range 256).any fun i => (getOwn s (4096 + i)).poison

/-- DOMAIN_USABLE (R179): the restart ends. With every link active, every die locked and the monitor's frames intact
the domain is usable again and the jobs replay (class 4); with a link that will not retrain, a die that has not
relocked, or frames that do not match, it stays down. -/
def execDomainUsable (us : W32) (intact : Bool) (s : State) : Result :=
  .next <|
    if !halyard s || !s.homes.down || s.homes.dead then s
    else if restartFailed s then domainDead s
    else if !linksActive s then s
    else
      let used : Bool := match s.life with | .usable => true | _ => false
      if used && (!intact || monitorPoisoned s) then domainDead s
      else
        let s := clearHomes (clearArrays s)
        let s := { s with ccs := tmap s.ccs fun _ c => if c.released then restartCC s.sec.restart c else c }
        let s := modHomes s fun h => { h with down := false, lastUs := us.toNat }
        let s := event s 4 (unitId 4 14 0) 0x002 0 0 us.toNat false
        let s := pendingResets s
        if used then allJobsFault s 4 else monitorStage s

/-! ## Timers (R141, R163, R244) -/

/-- SNOOP_TIMEOUT (R163): a snoop the home still waits for goes unanswered by an agent. -/
def execSnoopTimeout (line : BitVec 41) (agent : BitVec 9) (s : State) : Result :=
  .next (if halyard s && (getLine s line.toNat).st = .K then domainDown s 1 agent.toNat else s)

/-- RLOCK_TIMEOUT (R244): a lock held for 2 µs. -/
def execRlockTimeout (line : BitVec 41) (s : State) : Result :=
  .next (match halyard s, (getLine s line.toNat).lock with
    | true, some who => domainDown s 1 who
    | _, _ => s)

/-! ## Parity errors of slices (R178, R298) -/

/-- A set-way retires: its line leaves, and its owner's ways in the set are one fewer; 256 set-ways for a slice. -/
def retireWay (s : State) (slice ln : Nat) : State :=
  let l := getLine s ln
  let set := setOf (ln * 128)
  let mine := s.homes.retiredWays.filter fun p => p.1 / 128 / 8192 = slice
  let n := mine.foldl (fun a p => a + p.2) (0 : Nat)
  if 256 ≤ n then s
  else
    let s := evict s ln
    let s := modHomes s fun h => { h with retiredWays := tmod h.retiredWays (wayKey l.ways slice set) 0 fun n => n + 1 }
    retired s (unitId (sliceDie slice) 3 slice)

/-- A data or fill error of a line at its home. -/
def lineParity (s : State) (ln : Nat) (fill : Bool) : State :=
  let l := getLine s ln
  if l.st = .I then s
  else if fill then
    match replicaOf s (ln * 128) with
    | some (r, _) => modEpochs s fun e => { e with replicas := tadj e.replicas r fun x => { x with repaired := x.repaired + 1 } }
    | none => modLine s ln fun x => { x with poison := true }
  else if l.dirty then modLine s ln fun x => { x with poison := true }
  else
    let (s, poison) := fillPoison s ln
    modLine s ln fun x => { x with poison := poison }

/-- SLICE_PARITY_ERROR (R178): refetch, poison, or loss of the domain; counted for the slice, or for the directory. -/
def execSliceParityError (slice : Fin 40) (whr : ParityWhere) (line : BitVec 41) (s : State) : Result :=
  .next <|
    if !domainUp s || !halyard s then s
    else
      let ln := line.toNat
      let unit := unitId (sliceDie slice) 3 slice
      match whr with
      | .data | .fill =>
        let s := lineParity s ln (match whr with | .fill => true | _ => false)
        let (s, lasting) := countError s unit 5
        if lasting then retireWay s slice ln else s
      | .tag =>
        let (s, lasting) := countError s unit 6
        domainDown (if lasting then retireWay s slice ln else s) 4 slice
      | .directory =>
        let (s, lasting) := countError s (unitId 4 16 0) 7
        let none := lasting && s.homes.spareRows = 0
        let s := if !lasting || none then s
          else retired (modHomes s fun h => { h with spareRows := h.spareRows - 1 }) (unitId 4 16 0)
        let s := domainDown s 3 40
        if none then allJobsFault (modHomes s fun h => { h with dead := true }) 5 else s

end Sys2Proof.Machine
end

