-- ==== Sys2Proof/Machine/Messages.lean ====
section
/-! DEFINITION. Ratline's memory and coherence messages at the homes, the HBM controllers and the directory
(R141, R157 to R161, R165, R166, R190 to R192, R238, R244). A request the home serves at once is answered at once;
one that finds its line awaiting a fill or the directory waits in the line's pending buffer. -/

namespace Sys2Proof.Machine

/-! ## Requests -/

/-- Under whose identity a request comes (R191, table "Request header, word 1"). -/
def reqWho (h : ReqHdr) : Who :=
  match h.idk.toNat with
  | 1 => .vf h.part.toNat
  | 2 => if h.src.toNat = agentHalyard then .halyard else .sys
  | _ => .ctx h.ctx h.part.toNat

def reqBy (h : ReqHdr) : By := { who := reqWho h, agent := h.src.toNat, thread := h.thread.toNat }

/-- Opcodes (table "Memory and coherence opcodes"). -/
def opRD : Nat := 0x01
def opWRF : Nat := 0x03
def opWRP : Nat := 0x04
def opAMO : Nat := 0x05
def opRES : Nat := 0x06
def opSCOND : Nat := 0x07
def opRLOCK : Nat := 0x08
def opWUNLOCK : Nat := 0x09
def opFILL : Nat := 0x0A
def opWBK : Nat := 0x0B
def opCRD : Nat := 0x10
def opCRDO : Nat := 0x11
def opCWB : Nat := 0x12
def opCEVN : Nat := 0x13
def opDREQ : Nat := 0x15

/-- A request writes its line. -/
def opWrites (op : Nat) : Bool := op = opWRF || op = opWRP || op = opAMO || op = opSCOND || op = opWUNLOCK || op = opCRDO

/-- Requests a reservation of another thread defers: writes, other LDRES, and the directory's recalls (R141, R161). -/
def opConflicts (op kind : Nat) : Bool :=
  op = opWRF || op = opWRP || op = opAMO || op = opSCOND || op = opWUNLOCK || op = opCRDO || op = opRES ||
  (op = opDREQ && kind ≠ 0)

/-- What a stable line's state calls for of the directory: 0 snoop to S, 1 invalidate, 2 recall (table "Transitions
at the home"). -/
def snoopNeed (l : Line) (op src : Nat) : Option Nat :=
  if !l.hint then none
  else
    match l.st with
    | .S =>
      if op = opCRD || op = opRD || op = opRES || op = opRLOCK then none
      else if op = opCRDO then (if l.sharers.any fun c => c ≠ src then some 1 else none)
      else some 1
    | .X =>
      if op = opCRD then (if l.owner = src then none else some 0)
      else if op = opCRDO then (if l.owner = src then none else some 2)
      else if opWrites op then some 2
      else some 0
    | _ => none

/-- The granules of a mask, as offsets in the line. -/
def maskBytes (s : State) (pa gmask : Nat) : List Byte := (granules gmask).flatMap fun g => memBytes s (pa + 16 * g) 16

/-- First byte a header below a whole granule names. -/
def subOff (h : ReqHdr) : Nat := 16 * ((granules h.gmask.toNat).headD 0) + h.boff.toNat

def subLen (h : ReqHdr) : Nat := 2 ^ h.bsize.toNat

/-- Send a response to a request. -/
def respond (s : State) (op : Nat) (h : ReqHdr) (status : Nat) (poison : Bool) (kind : Nat) (gmask : Nat)
    (data : List Byte) : State :=
  emit s (.rsp op { txn := h.txn, line := h.line, own := 0, status := BitVec.ofNat 4 status,
                    gmask := BitVec.ofNat 8 gmask, poison := poison } kind data)

/-- Write the granules of a mask from data slots, one for each. -/
def writeMask (s : State) (b : By) (pa : Nat) : List Nat → List Byte → State
  | [], _ => s
  | g :: r, bs => writeMask (homeWrite s b (pa + 16 * g) (bs.take 16)) b pa r (bs.drop 16)

/-- Data that came poisoned marks the line it was written to. -/
def markPoison (s : State) (ln : Nat) (p : Bool) : State :=
  if p then modLine s ln fun l => if l.st = .I then l else { l with poison := true } else s

/-- Answer a read with the granules asked for; a poisoned line is delivered poisoned (R178). -/
def readReply (s : State) (b : By) (h : ReqHdr) : State :=
  let ln := h.line.toNat
  let poison := linePoisoned s ln
  let s := naRead s b ln
  let s := if poison then poisonEvent s b ln else s
  let gm := if h.bsize.toNat < 4 then 2 ^ ((granules h.gmask.toNat).headD 0) else h.gmask.toNat
  respond s 0x20 h (if poison then 3 else 0) poison 0 gm (maskBytes s (ln * 128) gm)

/-- An atomic at the home (R57, R172); into a poisoned line it is not applied (R178). -/
def amoReply (s : State) (b : By) (h : ReqHdr) (data : List Byte) : State :=
  let ln := h.line.toNat
  let pa := ln * 128 + subOff h
  match aopOf h.aop.toNat with
  | none => s
  | some (op, dbl) =>
    let n := if dbl then 8 else 4
    if linePoisoned s ln then respond (poisonEvent s b ln) 0x22 h 3 true 0 0 []
    else
      let old := leNat (memBytes s pa n)
      let a := leNat (data.take n)
      let new := if op = .cas then amoApply .cas (8 * n) old (leNat ((data.drop 8).take n)) a else amoApply op (8 * n) old a 0
      let s := homeWrite s b pa (natLe n new)
      let s := if op = .fadd then noteSource s b ln else s
      respond s 0x22 h 0 false 0 0 (natLe 8 old)

/-- A capability missing from the set in force makes adds of a format lock their lines (R243, R244, R305). -/
def addsLock (s : State) : Bool := !capHas s 1 || !capHas s 3

/-- Serve a request on a line that is stable, or that takes no way (table "Transitions at the home"). -/
def perform (s : State) (r : PendReq) : State :=
  let h := r.h
  let b := reqBy h
  let ln := h.line.toNat
  let pa := ln * 128
  let src := h.src.toNat
  let op := r.op
  if op = opRD then readReply s b h
  else if op = opRES then
    let s := readReply s b h
    setResv s b.key ln
  else if op = opRLOCK then
    let s := readReply s b h
    modLine s ln fun l => if l.st = .I then l else { l with rp := true, lock := some src }
  else if op = opWRF then
    respond (markPoison (homeWrite s b pa r.data) ln h.poison) 0x21 h 0 false 0 0 []
  else if op = opWRP then
    let s :=
      if h.bsize.toNat < 4 then homeWrite s b (pa + subOff h) ((r.data.drop h.boff.toNat).take (subLen h))
      else writeMask s b pa (granules h.gmask.toNat) r.data
    respond (markPoison s ln h.poison) 0x21 h 0 false 0 0 []
  else if op = opAMO then amoReply s b h r.data
  else if op = opSCOND then
    let holds := hasResv s b.key ln
    let s := dropResv s b.key
    let s := if holds then homeWrite s b (pa + subOff h) ((r.data.drop h.boff.toNat).take (subLen h)) else s
    respond s 0x23 h (if holds then 0 else 4) false 0 0 []
  else if op = opWUNLOCK then
    let s := writeMask s b pa (granules h.gmask.toNat) r.data
    let s := markPoison s ln h.poison
    let s := if addsLock s then noteSource s b ln else s
    let s := markRp (modLine s ln fun l => { l with lock := none }) ln
    respond s 0x21 h 0 false 0 0 []
  else if op = opCRD then
    let poison := linePoisoned s ln
    let s := ccRead s b src ln
    respond s 0x30 h (if poison then 3 else 0) poison (if (getLine s ln).st = .S then 1 else 0) 0xFF (memBytes s pa 128)
  else if op = opCRDO then
    let poison := linePoisoned s ln
    let s := clearResv (ccOwn s b src ln) b.key ln
    respond s 0x30 h (if poison then 3 else 0) poison 0 0xFF (memBytes s pa 128)
  else s

/-- A request that needs the line brought in when it is absent; a whole-line write allocates without a fill. -/
def opFills (op : Nat) : Bool := op ≠ opWRF && op ≠ opCWB && op ≠ opCEVN

/-- Serve one request on a line that no fill, snoop or lock holds: refuse it, ask for a fill or a snoop, or perform it. -/
def serve (s : State) (r : PendReq) : State :=
  let h := r.h
  let ln := h.line.toNat
  let l := getLine s ln
  if !covered s (ln * 128) then respond s 0x24 h 2 false 0 0 []
  else if !paPass s (reqWho h) (opWrites r.op) (ln * 128) then respond s 0x24 h 1 false 0 0 []
  else if l.st = .I && opFills r.op then
    let (cls, win) := lineClass s (reqBy h) ln
    match install s (reqBy h) ln cls win { st := .F, pend := r :: l.pend } with
    | (s, true) => emit s (.req opFILL h 0 [])
    | (s, false) => perform s r
  else
    match snoopNeed l r.op h.src.toNat with
    | some k => emit (setLine s ln { l with st := .K, snoop := k, pend := r :: l.pend }) (.req opDREQ h k [])
    | none => perform s r

/-- A line's requests wait: a fill or snoop is outstanding, or another holds its lock (R157, R244). -/
def lineHeld (l : Line) (op src : Nat) : Bool :=
  !stable l || (match l.lock with | some w => !(op = opWUNLOCK && w = src) | none => false)

/-- Serve the requests waiting at a line, in arrival order, while it stays free (R157). -/
def drainPend (s : State) (ln : Nat) : Nat → State
  | 0 => s
  | n + 1 =>
    let l := getLine s ln
    match l.pend with
    | [] => s
    | r :: rest =>
      if lineHeld l r.op r.h.src.toNat then s else drainPend (serve (setLine s ln { l with pend := rest }) r) ln n

def drainLine (s : State) (ln : Nat) : State := drainPend s ln ((getLine s ln).pend.length + 1)

/-- Writeback of M and clean eviction notice by a control core, accepted ahead of what waits on a recall of it
(R157, R159, R165, R166). -/
def ownerGives (s : State) (r : PendReq) : State :=
  let ln := r.h.line.toNat
  let src := r.h.src.toNat
  let l := getLine s ln
  let gone : Line := { l with st := .V, dirty := true, mod := false, owner := 0, sharers := [], hint := false }
  if r.op = opCWB then
    let mine := (l.st = .X || (l.st = .K && l.snoop ≠ 1)) && l.owner = src
    let s := if mine then markPoison (setLine (putBytes s (ln * 128) r.data) ln gone) ln r.h.poison else s
    drainLine (respond s 0x21 r.h 0 false 0 0 []) ln
  else
    match l.st with
    | .S =>
      let left := l.sharers.filter fun c => c ≠ src
      setLine s ln { l with sharers := left, st := if left.isEmpty then .V else .S }
    | .X => if l.owner = src then setLine s ln { gone with dirty := l.dirty } else s
    | _ => s

/-- A request waits at its line's holder until a reservation's deferral ends (R141). -/
def deferReq (s : State) (r : PendReq) : State :=
  modHomes s fun h => { h with deferred := tmod h.deferred r.h.line.toNat [] fun l => l ++ [r] }

/-- The directory's work on a line (R159, R160): the holders answer; none where no control core holds it. -/
def directory (s : State) (r : PendReq) : State :=
  let ln := r.h.line.toNat
  let l := getLine s ln
  let held := l.st = .X || l.st = .S || l.st = .K && (!l.sharers.isEmpty || l.hint)
  if !held then respond s 0x32 r.h 0 false 0 0 []
  else
    let s := if r.kind = 0 then s else { s with ccs := tmap s.ccs fun _ c => if c.resv = some ln then { c with resv := none } else c }
    respond s 0x31 r.h 0 l.poison 0 0 (if l.mod then memBytes s (ln * 128) 128 else [])

/-- A request reaches its home. -/
def arrive (s : State) (r : PendReq) : State :=
  let ln := r.h.line.toNat
  let l := getLine s ln
  if r.op = opCWB || r.op = opCEVN then ownerGives s r
  else if opConflicts r.op r.kind && resvDefers s (reqBy r.h).key ln then deferReq s r
  else if r.op = opDREQ then directory s r
  else if l.pend.isEmpty && !lineHeld l r.op r.h.src.toNat then drainLine (serve s r) ln
  else drainLine (setLine s ln { l with pend := l.pend ++ [r] }) ln

/-- Serve requests deferred at a line, in arrival order (R141). -/
def serveDeferred (s : State) (ln : Nat) : State :=
  let rs := tget s.homes.deferred ln []
  let s := modHomes s fun h => { h with deferred := tdel h.deferred ln }
  each s rs arrive

/-- A message row: the transaction opens, the request is served. -/
def message (op : Nat) (h : ReqHdr) (kind : Nat) (data : List Byte) (s : State) : Result :=
  .next <|
    if !domainUp s || !halyard s then s
    else
      let r : PendReq := { op := op, h := h, kind := kind, data := data }
      let opens := op ≠ opCEVN && op ≠ opDREQ
      let s := if opens then modHomes s fun x => { x with txns := tput x.txns h.txn.toNat r } else s
      serveDeferred (arrive s r) h.line.toNat

def execRd (h : ReqHdr) (s : State) : Result := message opRD h 0 [] s
def execWrf (h : ReqHdr) (data : List Byte) (s : State) : Result := message opWRF h 0 data s
def execWrp (h : ReqHdr) (data : List Byte) (s : State) : Result := message opWRP h 0 data s
def execAmo (h : ReqHdr) (data : List Byte) (s : State) : Result := message opAMO h 0 data s
def execRes (h : ReqHdr) (s : State) : Result := message opRES h 0 [] s
def execScond (h : ReqHdr) (data : List Byte) (s : State) : Result := message opSCOND h 0 data s
def execRlock (h : ReqHdr) (s : State) : Result := message opRLOCK h 0 [] s
def execWunlock (h : ReqHdr) (data : List Byte) (s : State) : Result := message opWUNLOCK h 0 data s
def execCrd (h : ReqHdr) (s : State) : Result := message opCRD h 0 [] s
def execCrdo (h : ReqHdr) (s : State) : Result := message opCRDO h 0 [] s
def execCwb (h : ReqHdr) (data : List Byte) (s : State) : Result := message opCWB h 0 data s
def execCevn (h : ReqHdr) (s : State) : Result := message opCEVN h 0 [] s

/-- DREQ (R159): the directory snoops, invalidates or recalls; kinds above 2 ask nothing. -/
def execDreq (h : ReqHdr) (kind : BitVec 4) (s : State) : Result :=
  if 2 < kind.toNat then .next s else message opDREQ h kind.toNat [] s

/-! ## HBM controllers (R185, R190, R191) -/

/-- The OWN field of a fill's data. -/
def ownField (o : Own) : BitVec 25 := BitVec.ofNat 25 (ownWord o / 2 ^ 39)

/-- FILL (R185, R191): the controller reads the 256-byte access and checks its frame; one FILLDATA for each line. -/
def execFill (h : ReqHdr) (s : State) : Result :=
  .next <|
    if !domainUp s || !halyard s then s
    else
      let ln := h.line.toNat / 2 * 2
      let pa := h.line.toNat * 128
      if !covered s pa then respond s 0x24 h 2 false 0 0 []
      else if !ownPass s (reqWho h) false (pa / 65536) then respond s 0x24 h 1 false 0 0 []
      else
        let o := getOwn s (ln / 512)
        emits s ([ln, ln + 1].map fun k =>
          .rsp 0x25 { txn := h.txn, line := BitVec.ofNat 41 k, own := ownField o, status := if o.poison then 3 else 0,
                      gmask := 0xFF, poison := o.poison || o.lost } 0 (memBytes s (k * 128) 128))

/-- WBK (R157, R178): a home's victim is written in the stack; a poisoned one marks its frame. -/
def execWbk (h : ReqHdr) (data : List Byte) (s : State) : Result :=
  .next <|
    if !domainUp s || !halyard s then s
    else
      let ln := h.line.toNat
      if !covered s (ln * 128) then respond s 0x24 h 2 false 0 0 []
      else
        let st := (getLine s ln).st
        let s := if st = .I || st = .W then putBytes s (ln * 128) data else s
        let s := if h.poison then poisonFrame s (ln / 512) else s
        respond s 0x21 h 0 false 0 0 []

/-! ## Responses -/

/-- A response closes its transaction and reaches the agent that asked; one that answers nothing is dropped. -/
def closeTxn (s : State) (h : RspHdr) (data : List Byte) : State :=
  match tfind s.homes.txns h.txn.toNat with
  | none => s
  | some r =>
    emit (modHomes s fun x => { x with txns := tdel x.txns h.txn.toNat })
      (.deliver r.h.src.toNat h.txn.toNat h.status.toNat h.poison data)

def response (f : State → State) (s : State) : Result := .next (if !domainUp s || !halyard s then s else f s)

def execData (h : RspHdr) (d : List Byte) (s : State) : Result := response (fun s => closeTxn s h d) s
def execAmorsp (h : RspHdr) (d : List Byte) (s : State) : Result := response (fun s => closeTxn s h d) s
def execScrsp (h : RspHdr) (s : State) : Result := response (fun s => closeTxn s h []) s

/-- ACK (R238): a write is performed; for a home's victim, the line leaves the slice and its requests are served (R157). -/
def execAck (h : RspHdr) (s : State) : Result :=
  response (fun s =>
    let ln := h.line.toNat
    let l := getLine s ln
    if l.st = .W then drainLine (setLine s ln { pend := l.pend }) ln else closeTxn s h []) s

/-- REFUSE (R183, R192): the request, or the fill a line awaits, moves no byte. -/
def execRefuse (h : RspHdr) (s : State) : Result :=
  response (fun s =>
    let ln := h.line.toNat
    let l := getLine s ln
    match l.st, l.pend with
    | .F, r :: rest => drainLine (respond (setLine s ln { pend := rest }) 0x24 r.h h.status.toNat false 0 0 []) ln
    | _, _ => closeTxn s h []) s

/-- A line of a fill is in place with its data and its frame's mark, unless a replica repairs it (R178, R302). -/
def fillIn (s : State) (ln : Nat) (h : RspHdr) (d : List Byte) : State :=
  let s := putBytes s (ln * 128) (d.take 128)
  let (s, poison) := if h.poison then fillPoison (poisonFrame s (ln / 512)) ln else (s, false)
  modLine s ln fun l => { l with poison := poison }

/-- FILLDATA (R158, R191): the home installs the line; the other line of the access enters as the oldest normal line. -/
def execFilldata (h : RspHdr) (d : List Byte) (s : State) : Result :=
  response (fun s =>
    let ln := h.line.toNat
    match (getLine s ln).st with
    | .F => drainLine (fillIn (modLine s ln settleLine) ln h d) ln
    | .I =>
      if (getLine s (Nat.xor ln 1)).st = .I then s
      else
        let s := installSibling s { who := .sys, agent := 264 } (Nat.xor ln 1)
        if (getLine s ln).st = .I then s else fillIn s ln h d
    | _ => drainLine s ln) s

/-- GRANT (R160): a control core receives the line in E or S. -/
def execGrant (h : RspHdr) (n : Fin 96) (shared : Bool) (d : List Byte) (s : State) : Result :=
  response (fun s =>
    match tfind s.homes.txns h.txn.toNat with
    | some r =>
      if r.h.src.toNat = n.val && (shared || (getLine s h.line.toNat).st = .X) then closeTxn s h d else s
    | none => s) s

/-- DRSP (R157, R159): the holders have answered; returned data is written and sets D. -/
def execDrsp (h : RspHdr) (d : List Byte) (s : State) : Result :=
  response (fun s =>
    let ln := h.line.toNat
    if (getLine s ln).st = .K then
      let s := modLine s ln settleLine
      let s := if d.isEmpty then s else modLine (putBytes s (ln * 128) (d.take 128)) ln fun l => { l with dirty := true }
      drainLine (markPoison s ln h.poison) ln
    else drainLine s ln) s

/-- NOHOLD (R159): no control core holds the line; its hint clears. -/
def execNohold (h : RspHdr) (s : State) : Result :=
  response (fun s =>
    let ln := h.line.toNat
    if (getLine s ln).st = .K then
      drainLine (modLine s ln fun l => { l with st := .V, sharers := [], owner := 0, mod := false, hint := false }) ln
    else s) s

/-- RESERVATION_DEFERRAL_EXPIRY (R141): 512 cycles after the grant the holder serves what it deferred. -/
def execReservationDeferralExpiry (line : BitVec 41) (s : State) : Result :=
  .next <|
    if !domainUp s || !halyard s then s
    else
      let ln := line.toNat
      let s := modHomes s fun h => { h with resvs := h.resvs.map fun r => if r.line = ln then { r with window := false } else r }
      let s := { s with ccs := tmap s.ccs fun _ c => if c.resv = some ln then { c with window := false } else c }
      serveDeferred s ln

end Sys2Proof.Machine
end

