-- ==== Sys2Proof/Machine/Respond.lean ====
section
/-! DEFINITION. What an answer to a request sent off the device does: loads, atomics and reservations finish their
instruction, stores and engine requests are settled, failures are marked (R137, R150, R151, R208, R262, R265). -/

namespace Sys2Proof.Machine

/-! ## An instruction that waited goes on -/

/-- The issuer's view of the instruction it waits at. -/
def waitIss (s : State) (x : Issuer) : Option Iss :=
  match x with
  | .tc d c slot =>
    match getGroup s (coreKey d c) slot with
    | none => none
    | some g =>
      (topRun g.stack).map fun e =>
        { x := x, th := g.th, mask := e.mask, pc := e.pc, level := .user, ctx := g.ctx, part := ctxPart s g.ctx.toNat,
          root := ctxRoot s g.ctx.toNat, word := 0 }
  | .cc n =>
    let c := getCC s n
    some { x := x, th := c.th, mask := 1, pc := c.pc, level := c.level, ctx := c.ctx, part := partOfCC s n,
           root := c.xroot.toNat, word := 0 }

/-- Results an issuer has gathered. -/
def resultsOf (s : State) (x : Issuer) : List (Nat × Nat × W64) :=
  match x with
  | .tc d c slot => match getGroup s (coreKey d c) slot with | some g => g.results | none => []
  | .cc n => (getCC s n).results

/-- A request's values are in: the instruction completes once nothing is left to wait for. -/
def gotResults (s : State) (r : OutReq) (rs : List (Nat × Nat × W64)) : State :=
  if !(waitsOf s r.who).contains r.id then s
  else
    let ids := (waitsOf s r.who).filter fun i => i ≠ r.id
    let all := resultsOf s r.who ++ rs
    if !ids.isEmpty then setWait s r.who ids all
    else
      match waitIss s r.who with
      | none => s
      | some c =>
        let s := setWait s r.who [] []
        finish c 4 (.go (setTh s r.who (putResults c.th all)))

/-- The registers of a lane that a loaded value goes to, by its size and sign (R30). -/
def laneRegs (l : OutLane) (bs : List Byte) : List (Nat × Nat × W64) :=
  let v := leNat (bs.take l.size)
  if l.size = 16 then [(l.lane, l.gd, BitVec.ofNat 64 v), (l.lane, l.gd + 1, BitVec.ofNat 64 (v / 2 ^ 64))]
  else [(l.lane, l.gd, if l.signed then BitVec.ofInt 64 (sext (8 * l.size) v) else BitVec.ofNat 64 v)]

/-- Each lane's old value of a combined atomic (R56, R57). -/
def amoRegs (s : State) (r : OutReq) (bs : List Byte) : State × List (Nat × Nat × W64) :=
  match aopOf r.aop with
  | none => (s, [])
  | some (op, dbl) =>
    let n := if dbl then 8 else 4
    let (s, i) := draw s
    let (_, rets) := amoFold op (8 * n) (leNat (bs.take n)) none r.items
    (s, rets.map fun p => (p.1, (r.lanes.head?.map OutLane.gd).getD 0, amoReg dbl i p.2))

/-! ## Requests that end -/

/-- A request leaves the tracker; a job that waits for its requests may now stop (R290). -/
def outGone (s : State) (r : OutReq) : State := stopCheck (dropOut s r.id) (slotOfCtx s r.ctx.toNat)

/-- A store is settled: a group that waited for it alone may end (R47, R150). -/
def storeGone (s : State) (r : OutReq) : State :=
  match r.who with
  | .tc d c slot => endCheck s (coreKey d c) slot
  | .cc _ => s

/-- The place of the copy of an entry that a request belongs to. -/
def copyPlace (s : State) (r : OutReq) : Option Work :=
  match getEntry s r.entry with
  | none => none
  | some x => x.parts.find? fun w => w.ids.contains r.id

/-! A collective's writes end like a copy's (R267). -/

def treeOf (ws : List Nat) : Nat := bits (dw ws 6) 23 16
/-- The collective running on a tree. -/
def collOn (s : State) (t : Nat) : Option Collective := s.fabric.running.find? fun c => c.tree = t

/-- The part of an entry that a collective runs for. -/
def collPart (s : State) (c : Collective) : Option Work :=
  match getEntry s c.entry with
  | none => none
  | some x => x.parts.find? fun w => w.running && kindOf w.words = 3 && treeOf w.words = c.tree

/-- The last chunk is written: the tree's round counts on, and the descriptor is over. -/
def collEnd (s : State) (t : Nat) : State :=
  match collOn s t with
  | none => s
  | some c =>
    let waits : Bool := match collPart s c with | some w => !w.ids.isEmpty | none => false
    if c.done.length < c.chunks || waits then s
    else
      let s := modFabric s fun f => { f with running := f.running.filter fun x => x.tree ≠ t }
      let s := modTree s t fun x => { x with round := c.round }
      match collPart s c with
      | some w => partDone s c.entry w 0
      | none => s

/-- A copy's request is answered with data, or with the cause that ends its context. -/
def copyAnswer (s : State) (r : OutReq) (data : List Byte) (bad : Option Nat) : State :=
  match copyPlace s r with
  | none => s
  | some w =>
    match bad with
    | none =>
      let reads : Bool := match r.kind with | .copy => true | _ => false
      let w := { w with
        ids := w.ids.filter fun i => i ≠ r.id
        got := if reads then w.got ++ [(r.va, data)] else w.got }
      let s := setPart s r.entry w
      if kindOf w.words = 3 then collEnd s (treeOf w.words) else copyStep s r.entry w.place
    | some c =>
      if c = cOwnership then programFault s r.ctx.toNat (some r.entry) r.va c
      else hardwareFault s r.ctx.toNat (if c = cPoison then 3 else 2) c r.va []

/-- Copies whose requests a failed path ended: their contexts meet a hardware fault. -/
def sweepCopies (s : State) : State :=
  let dead := s.fabric.out.filter fun r => r.failed && (match r.kind with | .copy => true | .copyW => true | _ => false)
  each s dead fun s r => copyAnswer (outGone s r) r [] (if r.orphan then none else some cFabricPath)

/-- A read is answered with data. -/
def readDone (s : State) (r : OutReq) (poison : Bool) (bs : List Byte) : State :=
  match r.kind with
  | .load | .res =>
    if poison then outGone (readTrap s r cPoison (r.va / 128 * 128)) r
    else gotResults (outGone s r) r (r.lanes.flatMap fun l => laneRegs l bs)
  | .amo =>
    if poison then outGone (readTrap s r cPoison (r.va / 128 * 128)) r
    else
      let (s, rs) := amoRegs s r bs
      gotResults (outGone s r) r rs
  | .tile => engineAnswer (outGone s r) r bs (if poison then some cPoison else none)
  | .copy => copyAnswer (outGone s r) r bs (if poison then some cPoison else none)
  | _ => s

/-- A conditional store is answered: gd takes 0, or 1 where the reservation was lost (R140, table "Response status"). -/
def condDone (s : State) (r : OutReq) (lost : Bool) : State :=
  match r.kind with
  | .scond => gotResults (outGone s r) r (r.lanes.map fun l => (l.lane, l.gd, if lost then 1 else 0))
  | _ => s

/-- A write is acknowledged. -/
def writeDone (s : State) (r : OutReq) : State :=
  match r.kind with
  | .store => storeGone (outGone s r) r
  | .tileW | .red => engineAnswer (outGone s r) r [] none
  | .copyW => copyAnswer (outGone s r) r [] none
  | _ => s

/-- A request is refused for its ownership check, status 1. -/
def reqDenied (s : State) (r : OutReq) : State :=
  match r.kind with
  | .load | .amo | .res | .scond => outGone (readTrap s r cOwnership r.va) r
  | .store => storeGone (modOut s r.id fun q => { q with denied := true }) r
  | .tile | .tileW | .red => engineAnswer (outGone s r) r [] (some cOwnership)
  | .copy | .copyW => copyAnswer (outGone s r) r [] (some cOwnership)
  | .replica => outGone s r

/-- A request's target is not available, status 2, or its time is over: it fails as R150 and R151 state. -/
def reqFailed (s : State) (r : OutReq) : State :=
  let s := stopCheck (failReq s r) (slotOfCtx s r.ctx.toNat)
  sweepCopies (storeGone s r)

/-- A path is declared failed: every request on it fails, and groups and jobs that waited go on (R265). -/
def pathLost (s : State) (dst : Nat) : State :=
  let rs := s.fabric.out.filter fun r => r.tgt = 3 && r.dev = dst
  let s := sweepCopies (failPath s dst)
  each s rs fun s r => storeGone (stopCheck s (slotOfCtx s r.ctx.toNat)) r

/-- An orphan's answer is dropped; another's is acted on. -/
def answered0 (s : State) (id : Nat) (f : State → OutReq → State) : State :=
  match findOut s id with
  | none => s
  | some r => if r.failed || r.denied then s else if r.orphan then outGone s r else f s r

/-! ## Requests through PCI Express (R208, R150, R151) -/

def pcieReq (s : State) (id : Nat) (f : State → OutReq → State) : State :=
  answered0 s id fun s r => if r.tgt = 3 then s else f s r

/-- PCIE_COMPLETION (R151): a read or atomic completes with its data. -/
def execPcieCompletion (id : Nat) (poison : Bool) (data : List Byte) (s : State) : Result :=
  .next (if halyard s then pcieReq s id fun s r => readDone s r poison data else s)

/-- PCIE_REQUEST_TIMEOUT (R151): a read that no completion answered in 50 µs raises FABRIC_PATH; a TMOVE's or
copy's request ends its work. -/
def execPcieRequestTimeout (id : Nat) (s : State) : Result :=
  .next <|
    if !halyard s then s
    else pcieReq s id fun s r => match r.kind with | .store => s | _ => reqFailed s r

/-- PCIE_STORE_ACKNOWLEDGE (R150): a store is performed. -/
def execPcieStoreAcknowledge (id : Nat) (s : State) : Result :=
  .next (if halyard s then pcieReq s id writeDone else s)

/-- STORE_TIMEOUT (R150): a store that is not acknowledged in its time counts as failed; on a Shroud path the path
is declared failed (R265). -/
def execStoreTimeout (id : Nat) (s : State) : Result :=
  .next <|
    if !halyard s then s
    else
      answered0 s id fun s r =>
        match r.kind with
        | .store => if r.tgt = 3 then pathLost s r.dev else reqFailed s r
        | _ => s

end Sys2Proof.Machine
end

