-- ==== Sys2Proof/Machine/Fabric.lean ====
section
/-! DEFINITION. Shroud's ports, routing and remote requests: flits, loss, bring-up, forwarding, serving at the homes,
answers, failed paths, route tables (R149, R253 to R265, R276). -/

namespace Sys2Proof.Machine

/-! ## Port states (R257, R276) -/

def unitPort (n : Nat) : Nat := unitId 4 13 n

/-- A port changes state: traced with its partner (event 0x601). -/
def portState (s : State) (n st : Nat) : State :=
  let s := modPort s n fun p => { p with state := st }
  event s 4 (unitPort n) 0x601 0 st (getPort s n).partner false

/-- Report a port event to the manager. -/
def portEvent (s : State) (kind n : Nat) : State := emit s (.portev s.fabric.manager kind n (getPort s n).partner)

/-- A port's link layer starts over: nothing held, no credits. -/
def portClear (s : State) (n : Nat) : State :=
  modPort s n fun p => { p with
    txSeq := 0
    acked := 4095
    rxLast := 4095
    replay := []
    queue := []
    nakWait := false
    replays := 0
    credits := [0, 0, 0, 0, 0, 0, 0, 0]
    chain := []
    chainLen := 0
    chainGood := false
    offerIn := none
    offerOut := none
    confirmIn := false
    confirmOut := false
    keyState := 0 }

/-- A port is lost: what it held goes, the manager learns, training begins again (R257). -/
def losePort (s : State) (n : Nat) : State :=
  if (getPort s n).state < 2 || 5 < (getPort s n).state then s
  else
    let s := portEvent (modPort s n fun p => { p with losses := p.losses + 1 }) 1 n
    portState (portClear s n) n 2

/-- A port with a lasting fault is retired until power-down, and the manager learns (R257, R298). -/
def retirePort (s : State) (n : Nat) : State :=
  let s := alarm (retired (portEvent s 3 n) (unitPort n)) 12
  portState (portClear s n) n 8

/-- Count an error of a port. -/
def portError (s : State) (n : Nat) : State :=
  let (s, lasting) := countError s (unitPort n) 4
  if lasting then retirePort s n else s

/-- SHROUD_PORT_LOSS (R257): a flit's format, silence, an unacknowledged flit, or 32 replays of one SEQ. -/
def execShroudPortLoss (port : Fin 18) (why : PortLoss) (s : State) : Result :=
  .next <|
    let p := getPort s port
    let met : Bool := match why with
      | .replayed32 => decide (32 ≤ p.replays)
      | .unacked => !p.replay.isEmpty
      | _ => true
    if halyard s && met then losePort s port else s

/-! ## Flits (R246, R255, R256) -/

/-- Reserved fields of a Shroud flit's control slot. -/
def sflitBad (f : List Byte) : Bool := bits (flitW0 f) 36 32 ≠ 0 || bits (flitW1 f) 37 0 ≠ 0

/-- Ask the partner for a replay from the last good flit on, once until it arrives. -/
def askReplay (s : State) (n : Nat) : State :=
  let p := getPort s n
  if p.nakWait then s
  else emit (modPort s n fun p => { p with nakWait := true }) (.sflit n p.txSeq p.rxLast true)

/-- Resend what the partner has not received, in its order. -/
def resend (s : State) (n : Nat) : State :=
  let p := getPort s n
  let s := modPort s n fun p => { p with replayed := p.replayed + p.replay.length, replays := p.replays + 1 }
  emits s (p.replay.map fun r => .sflit n r.1 p.rxLast false)

/-- A good flit's acknowledgement, credit returns and key phase take effect. -/
def portControl (s : State) (n : Nat) (f : List Byte) : State :=
  let w1 := flitW1 f
  let s := modPort s n fun p =>
    let left := afterAck (flitAck f) p.replay
    { p with
      acked := flitAck f
      replays := if left.length < p.replay.length then 0 else p.replays
      replay := left
      credits := addCredit (addCredit p.credits (bits w1 63 61) (bits w1 60 51)) (bits w1 50 48) (bits w1 47 38) }

  let s := if flitNak f then resend s n else s
  if 32 ≤ (getPort s n).replays then losePort s n else portFlush s n

/-- SHROUD_FLIT_RECEIVED: CRC and tag, then order, acknowledgement and credits; the packets it carries come as commands
of their own. -/
def execShroudFlitReceived (port : Fin 18) (flit : List Byte) (tagOk : Bool) (s : State) : Result :=
  .next <|
    let n := port.val
    let p := getPort s n
    if !halyard s || p.state < 3 || 5 < p.state then s
    else if !flitGood flit then
      askReplay (portError (modPort s n fun p => { p with badCrc := p.badCrc + 1 }) n) n
    else if p.protect = 1 && p.keyState = 2 && !tagOk then
      askReplay (portError (modPort s n fun p => { p with tagFails := p.tagFails + 1 }) n) n
    else if sflitBad flit then losePort s n
    else
      let next := (p.rxLast + 1) % 4096
      if flitSeq flit ≠ next then askReplay s n
      else
        let s := modPort s n fun p => { p with nakWait := false, rxLast := if flitIdle flit then p.rxLast else next }
        portControl s n flit

/-! ## Bring-up (R276) -/

/-- Initial credits of a port (table "Shroud classes and initial credits per virtual lane"). -/
def portCredits : List Nat := [1024, 1024, 1024, 1024, 512, 512, 64, 64]

/-- A port is up: traffic flows, and the manager learns. -/
def portUp (s : State) (n : Nat) : State :=
  let s := modPort s n fun p => { p with failures := 0 }
  portFlush (portEvent (portState s n 5) 2 n) n

/-- Begin a key exchange on a port: this end sends its chain and its OFFER (R274, R275). -/
def keyStart (s : State) (n : Nat) : State :=
  let p := getPort s n
  let next := !p.kph
  let offer := Config.offerOf n next
  let s := modPort s n fun p => { p with
    keyState := if p.state = 5 then p.keyState else 1
    chain := []
    chainLen := 0
    chainGood := false
    offerIn := none
    offerOut := some offer
    confirmIn := false
    confirmOut := false
    kphNext := next }
  emits s [.keyx n 1, .keyx n 2]

/-- Identities are exchanged: recorded, and the port keys or comes up. -/
def portIdent (s : State) (n : Nat) (i : PortIdent) : State :=
  let s := modPort s n fun p => { p with partner := i.device.toNat, partnerPort := i.port.toNat }
  let s := noteGen s i.gen.toNat
  if (getPort s n).protect = 1 then keyStart (portState s n 4) n else portUp s n

/-- A stage overran: the port trains again, and reads failed after the third time. -/
def portOverrun (s : State) (n : Nat) : State :=
  let k := (getPort s n).failures + 1
  let s := modPort (portClear s n) n fun p => { p with failures := k }
  portState s n (if 3 ≤ k then 7 else 2)

/-- Credits have been granted on a port. -/
def portReady (p : Port) : Bool := p.credits = portCredits

def execPortBringup (port : Fin 18) (stage : PortStage) (s : State) : Result :=
  .next <|
    let n := port.val
    let p := getPort s n
    let used : Bool := match s.life with | .usable => true | _ => false
    if !used || !halyard s then s
    else
      match stage with
      | .noPartner => if p.state = 0 || p.state = 1 || p.state = 2 then portState s n 1 else s
      | .detect => if p.state = 0 || p.state = 1 then portState s n 2 else s
      | .trained => if p.state = 2 then portState (portClear s n) n 3 else s
      | .initialised => if p.state = 3 then modPort s n fun p => { p with credits := portCredits } else s
      | .ident i => if p.state = 3 && portReady p then portIdent s n i else s
      | .keyed => if p.state = 4 && p.keyState = 2 then portUp s n else s
      | .overrun => if 2 ≤ p.state && p.state ≤ 4 then portOverrun s n else s

/-- PORT_FAILED_RETRY (R276): a failed port trains again every 10 s. -/
def execPortFailedRetry (port : Fin 18) (s : State) : Result :=
  .next (if halyard s && (getPort s port).state = 7 then portState (modPort s port fun p => { p with failures := 0 }) port 2 else s)

/-! ## Routing (R259, R260, R262) -/

/-- A packet reaches the device: by a port that is up, or looped back inside the Spar die. -/
def arrives (s : State) (n : Nat) (p : SPkt) : Bool :=
  halyard s && ((getPort s n).state = 5 || (p.src.toNat = s.fabric.device && s.fabric.device ≠ 0xFFFF))

/-- The header of an answer to a request. -/
def answerHdr (s : State) (p : SPkt) (status : Nat) (poison : Bool) (gmask : Nat) : SPkt :=
  { newHdr s p.src.toNat p.tag.toNat p.job.toNat 0 0 0 gmask 0 (if gmask = 0 then 0 else 4) 0 false 0 with
    status := BitVec.ofNat 4 status
    poison := poison }

/-- Answer a request. -/
def reply (s : State) (p : SPkt) (op status : Nat) (poison : Bool) (gmask : Nat) (data : List Byte) : State :=
  sendPkt s op (answerHdr s p status poison gmask) data

def opRefuse : Nat := 0x24

/-- Refuse a packet; only a request has an answer. -/
def refuse (s : State) (op : Nat) (p : SPkt) (status : Nat) : State :=
  if pktClass op = 0 then reply s p opRefuse status false 0 [] else s

/-- An unassigned device refuses what it receives, on the port it came by, with a status the specification leaves
open (R258; assumption 4). -/
def refuseUnassigned (s : State) (n op : Nat) (p : SPkt) : State :=
  if pktClass op = 0 then
    let (s, i) := draw s
    emit s (.packet n opRefuse (answerHdr s p (Config.freeNat i % 7) false 0) [])
  else s

/-- Forward a packet by the bank its generation names, or drop it (R260, R262). -/
def forward (s : State) (op : Nat) (p : SPkt) (data : List Byte) : State :=
  match routeEntry s p.rgen.toNat p.dst.toNat with
  | none => refuse s op p 6
  | some e =>
    match routePort s e p.src.toNat with
    | none => refuse s op p 5
    | some (port, vl) =>
      if p.hops = 0 then refuse s op p 5 else sendOn s port vl op { p with hops := p.hops - 1 } data

/-- PACKET_FORWARD (R260). -/
def execPacketForward (port : Fin 18) (op : BitVec 6) (p : SPkt) (data : List Byte) (s : State) : Result :=
  .next <|
    if !arrives s port p || p.dst.toNat = 0xFFFF then s
    else if s.fabric.device = 0xFFFF then refuseUnassigned s port op.toNat p
    else if p.dst.toNat = s.fabric.device then s
    else forward s op.toNat p data

/-! ## Requests at the homes (R149, R263, R264) -/

/-- The enabled job-table entry of a fabric job (R263). -/
def jobEntry (s : State) (job : Nat) : Option JobEntry :=
  if job = 0 then none else (s.fabric.jobs.find? fun e => e.2.enabled && e.2.job = job).map Prod.snd

/-- A reserved field or code that is not zero (R257). -/
def requestBad (op : Nat) (p : SPkt) : Bool :=
  let x := p.opx.toNat
  p.addr.toNat % 256 ≠ 0 || 4 < p.bsize.toNat || (op = 0x03 && (aopOf p.aop.toNat).isNone) ||
  (if op = 0x06 then !ropAllows (bits x 10 8) (bits x 7 2) || bits x 10 8 = 0 || bits x 1 0 ≠ 0 || bits x 63 11 ≠ 0 else x ≠ 0)

/-- Who a remote request runs as: the context and partition of its job-table entry (R191, R263). -/
def pktBy (p : SPkt) (e : JobEntry) : By :=
  { who := .ctx (BitVec.ofNat 12 e.ctx) e.part, agent := p.sagent.toNat, thread := p.thread.toNat, dev := some p.src.toNat }

/-- The granules of a request. -/
def pktGranules (p : SPkt) : List Nat :=
  let gs := bitsSet 16 p.gmask.toNat
  if p.bsize.toNat < 4 then gs.take 1 else gs

/-- The lines of a request. -/
def pktLines (p : SPkt) : List Nat := ((pktGranules p).map fun g => (p.addr.toNat + 16 * g) / 128).eraseDups

/-- First byte of a request below a whole granule. -/
def pktPa (p : SPkt) : Nat := p.addr.toNat + 16 * ((pktGranules p).headD 0) + p.boff.toNat

/-- Write a line's granules from their slots: a whole line at once, else granule by granule. -/
def writeLine (s : State) (b : By) (ln gm : Nat) (slots : List Byte) : State :=
  if gm = 255 then homeWrite s b (ln * 128) (slots.take 128) else writeMask s b (ln * 128) (granules gm) slots

/-- The mask of one line of a 256-byte access. -/
def halfMask (p : SPkt) (h : Nat) : Nat := p.gmask.toNat / 256 ^ h % 256

def readPkt (s : State) (b : By) (p : SPkt) : State :=
  let sick := (pktLines p).filter (linePoisoned s)
  let s := each s (pktLines p) fun s ln => naRead s b ln
  let s := each s sick fun s ln => poisonEvent s b ln
  let gs := pktGranules p
  reply s p 0x20 (if sick.isEmpty then 0 else 3) (!sick.isEmpty) (maskOf gs) (gs.flatMap fun g => memBytes s (p.addr.toNat + 16 * g) 16)

def writePkt (s : State) (b : By) (p : SPkt) (data : List Byte) : State :=
  let ln := p.addr.toNat / 128
  let s :=
    if p.bsize.toNat < 4 then homeWrite s b (pktPa p) ((data.drop p.boff.toNat).take (2 ^ p.bsize.toNat))
    else
      let n := 16 * popN 8 (halfMask p 0)
      writeLine (writeLine s b ln (halfMask p 0) data) b (ln + 1) (halfMask p 1) (data.drop n)
  let s := each s (pktLines p) fun s ln => markPoison s ln p.poison
  reply s p 0x21 0 false 0 []

def amoPkt (s : State) (b : By) (p : SPkt) (data : List Byte) : State :=
  let pa := pktPa p
  match aopOf p.aop.toNat with
  | none => s
  | some (op, dbl) =>
    let n := if dbl then 8 else 4
    if linePoisoned s (pa / 128) then reply (poisonEvent s b (pa / 128)) p 0x22 3 true 0 []
    else
      let old := leNat (memBytes s pa n)
      let a := leNat (data.take n)
      let new := if op = .cas then amoApply .cas (8 * n) old (leNat ((data.drop 8).take n)) a else amoApply op (8 * n) old a 0
      let s := homeWrite s b pa (natLe n new)
      let s := if op = .fadd then noteSource s b (pa / 128) else s
      reply s p 0x22 0 false 1 (natLe 16 old)

def condPkt (s : State) (b : By) (p : SPkt) (data : List Byte) : State :=
  let pa := pktPa p
  let holds := hasResv s b.key (pa / 128)
  let s := dropResv s b.key
  let s := if holds then homeWrite s b pa ((data.drop p.boff.toNat).take (2 ^ p.bsize.toNat)) else s
  reply s p 0x23 (if holds then 0 else 4) false 0 []

/-- A reduction of one line's granules, laid out as a line. -/
def lineOf (gm : Nat) (slots : List Byte) : List Byte :=
  (List.range 8).flatMap fun g => if bit gm g then (slots.drop (16 * popN g gm)).take 16 else List.replicate 16 0

def redPkt (s : State) (b : By) (p : SPkt) (data : List Byte) : State :=
  let x := p.opx.toNat
  let rop := bits x 10 8
  let fmt := bits x 7 2
  let ln := p.addr.toNat / 128
  let sick := (pktLines p).any (linePoisoned s)
  let one (s : State) (h : Nat) : State :=
    let gm := halfMask p h
    if gm = 0 then s
    else redUntagged s b (ln + h) rop fmt (gm, lineOf gm (if h = 0 then data else data.drop (16 * popN 8 (halfMask p 0))))
  reply (one (one s 0) 1) p 0x21 (if sick then 3 else 0) false 0 []

/-- Perform a request at its homes and answer it. -/
def servePkt (s : State) (h : HeldPkt) : State :=
  match jobEntry s h.p.job.toNat with
  | none => refuse s h.op h.p 1
  | some e =>
    let b := pktBy h.p e
    if h.op = 0x01 then readPkt s b h.p
    else if h.op = 0x02 then writePkt s b h.p h.data
    else if h.op = 0x03 then amoPkt s b h.p h.data
    else if h.op = 0x04 then setResv (readPkt s b h.p) b.key (pktPa h.p / 128)
    else if h.op = 0x05 then condPkt s b h.p h.data
    else redPkt s b h.p h.data

/-- A request waits at its port: for a deferral or a lock, behind an earlier one from its source to its line, or, for a
REL.4, behind any earlier write of its source (R141, R149, R264). -/
def pktWaits (s : State) (before : List HeldPkt) (h : HeldPkt) : Bool :=
  let key := match jobEntry s h.p.job.toNat with | some e => (pktBy h.p e).key | none => 0
  let mine := before.filter fun q => q.p.src = h.p.src && q.port = h.port
  let locked := (pktLines h.p).any fun ln => (getLine s ln).lock.isSome
  let defers := h.op ≠ 0x01 && (pktLines h.p).any (resvDefers s key)
  locked || defers || (mine.any fun q => (pktLines q.p).any fun ln => (pktLines h.p).contains ln) ||
  (h.op = 0x02 && h.p.rel && mine.any fun q => q.op = 0x02 || q.op = 0x06)

/-- Serve the requests at the ports that need not wait, in order of arrival. -/
def serveList (s : State) (kept : List HeldPkt) : List HeldPkt → State × List HeldPkt
  | [] => (s, kept)
  | h :: r => if pktWaits s kept h then serveList s (kept ++ [h]) r else serveList (servePkt s h) kept r

def serveHeld (s : State) : State :=
  let (s, kept) := serveList s [] s.fabric.held
  modFabric s fun f => { f with held := kept }

/-- A request reaches a port: looked up in the job table, checked, and served in its turn (R263, R264). -/
def request (op : Nat) (n : Nat) (p : SPkt) (data : List Byte) (s : State) : Result :=
  .next <|
    if !arrives s n p || p.dst.toNat = 0xFFFF then s
    else if requestBad op p then (if p.src.toNat = s.fabric.device then s else losePort s n)
    else if s.fabric.device = 0xFFFF then refuseUnassigned s n op p
    else if p.dst.toNat ≠ s.fabric.device then forward s op p data
    else
      match jobEntry s p.job.toNat with
      | none => refuse s op p 1
      | some e =>
        if e.rolling || !domainUp s || !covered s p.addr.toNat then refuse s op p 2
        else if !paPass s (pktBy p e).who (op ≠ 0x01 && op ≠ 0x04) p.addr.toNat then refuse s op p 1
        else serveHeld (modFabric s fun f => { f with held := f.held ++ [{ port := n, op := op, p := p, data := data }] })

def execShroudRd (port : Fin 18) (p : SPkt) (s : State) : Result := request 0x01 port p [] s
def execWr (port : Fin 18) (p : SPkt) (data : List Byte) (s : State) : Result := request 0x02 port p data s
def execShroudAmo (port : Fin 18) (p : SPkt) (data : List Byte) (s : State) : Result := request 0x03 port p data s
def execShroudRes (port : Fin 18) (p : SPkt) (s : State) : Result := request 0x04 port p [] s
def execShroudScond (port : Fin 18) (p : SPkt) (data : List Byte) (s : State) : Result := request 0x05 port p data s
def execRed (port : Fin 18) (p : SPkt) (data : List Byte) (s : State) : Result := request 0x06 port p data s

/-! ## Answers (table "Response status") -/

/-- Act on an answer by its status: `done` for 0 and 3. -/
def byStatus (s : State) (r : OutReq) (status : Nat) (done : State → State) : State :=
  match status with
  | 1 => reqDenied s r
  | 2 => reqFailed s r
  | 4 => condDone s r true
  | 5 => pathLost s r.dev
  | 6 => pathLost s r.dev
  | _ => done s

/-- An answer reaches its requester; a reserved status or field loses the port, and another's answer passes on. -/
def reached (op n : Nat) (p : SPkt) (data : List Byte) (done : State → OutReq → State) (s : State) : Result :=
  .next <|
    if !arrives s n p then s
    else if 7 ≤ p.status.toNat || p.opx ≠ 0 then losePort s n
    else if s.fabric.device = 0xFFFF then s
    else if p.dst.toNat ≠ s.fabric.device then forward s op p data
    else
      answered0 s p.tag.toNat fun s r =>
        if r.tgt ≠ 3 then s else byStatus s r p.status.toNat fun s => done s r

def execShroudData (port : Fin 18) (p : SPkt) (data : List Byte) (s : State) : Result :=
  reached 0x20 port p data (fun s r => readDone s r (p.poison || p.status = 3) (data.drop (r.addr % 16))) s
def execShroudAck (port : Fin 18) (p : SPkt) (s : State) : Result := reached 0x21 port p [] writeDone s
def execShroudAmorsp (port : Fin 18) (p : SPkt) (data : List Byte) (s : State) : Result :=
  reached 0x22 port p data (fun s r => readDone s r (p.poison || p.status = 3) data) s
def execShroudScrsp (port : Fin 18) (p : SPkt) (s : State) : Result :=
  reached 0x23 port p [] (fun s r => condDone s r false) s
def execShroudRefuse (port : Fin 18) (p : SPkt) (s : State) : Result := reached opRefuse port p [] (fun s _ => s) s

/-- REMOTE_REQUEST_TIMEOUT (R265): a request passes the timeout; its path is declared failed. -/
def execRemoteRequestTimeout (tag : BitVec 21) (s : State) : Result :=
  .next <|
    if !halyard s then s
    else
      match findOut s tag.toNat with
      | none => s
      | some r => if r.tgt ≠ 3 || r.failed || r.denied then s else pathLost s r.dev

/-! ## Failed paths, route tables, identifier (R258, R262, R265) -/

/-- Write of 0x5010:03: one destination's failed path, or every one. -/
def pathCmd (dest : Nat) : Cmd :=
  { index := 0x5010
    sub := 3
    type := 1
    may := fun _ k => k.local2
    check := fun _ _ => 0
    apply := fun s _ => modFabric s fun f => { f with failed := if dest = 0xFFFF then [] else f.failed.filter fun d => d ≠ dest } }

def execPathClear (q : Requester) (dest : W16) (s : State) : Result := .next (command q (pathCmd dest.toNat) s)

/-- A route-table entry with its reserved bits zero and no reserved port among its alternates. -/
def routeOk (e : W32) : Bool :=
  let v := e.toNat
  !bit v 28 && bits v 23 20 = 0 && (List.range (bits v 30 29 + 1)).all fun a => !bit v 31 || decide (bits v (5 * a + 4) (5 * a) < 18)

def loadRoutes (t : Tab W32) (first : Nat) (es : List W32) : Tab W32 := es.zipIdx.foldl (fun t e => tput t (first + e.2) e.1) t

/-- Write of 0x5200:03: the load of the bank that is not current, whose old generation then serves no more. -/
def routeLoadCmd (first count : Nat) (res : Bool) (es : List W32) : Cmd :=
  { index := 0x5200
    sub := 3
    type := 7
    may := fun _ k => k.trio
    check := fun _ _ =>
      if count = 0 || decide (256 < count) || res || es.length ≠ count || decide (65536 < first + count) || !(es.all routeOk) then 3
      else 0
    apply := fun s _ =>
      modFabric s fun f => { f with
        loaded := false
        bank0 := if f.current = 0 then f.bank0 else loadRoutes f.bank0 first es
        bank1 := if f.current = 0 then loadRoutes f.bank1 first es else f.bank1 } }

def execRouteTableLoad (q : Requester) (first : W16) (count : BitVec 9) (res : Bool) (entries : List W32) (s : State) : Result :=
  .next (command q (routeLoadCmd first.toNat count.toNat res entries) s)

/-- Destinations whose entry differs between the banks and that have requests outstanding (R262). -/
def drainingNow (s : State) : List Nat :=
  let ds := ((s.fabric.out.filter fun r => r.tgt = 3 && !r.failed).map OutReq.dev).eraseDups
  ds.filter fun d => tget s.fabric.bank0 d 0 ≠ tget s.fabric.bank1 d 0

/-- Write of 0x5200:04: the loaded bank becomes current under a higher generation; failed paths are tried again. -/
def routeSwitchCmd (gen : Nat) : Cmd :=
  { index := 0x5200
    sub := 4
    type := 2
    may := fun _ k => k.trio
    check := fun s _ => if s.fabric.routeGen < gen then 0 else 3
    apply := fun s _ =>
      modFabric s fun f => { f with
        current := 1 - f.current
        otherGen := f.routeGen
        routeGen := gen
        loaded := true
        failed := []
        draining := drainingNow s } }

def execRouteGenerationSwitch (q : Requester) (gen : W32) (s : State) : Result := .next (command q (routeSwitchCmd gen.toNat) s)

/-- The identifier may change: no context of a job with a number, no Shroud request outstanding (R258). -/
def deviceQuiet (s : State) : Bool :=
  !(s.disp.ctxs.any fun c => (getSlot s c.2.slot).job ≠ 0) && !(s.fabric.out.any fun r => r.tgt = 3 && !r.failed)

def deviceCmd (id : Nat) : Cmd :=
  { index := 0x5000
    sub := 2
    type := 1
    may := fun _ k => k.trio
    check := fun s _ => if deviceQuiet s then 0 else 4
    apply := fun s _ => modFabric s fun f => { f with device := id } }

def execDeviceIdentifierWrite (q : Requester) (id : W16) (s : State) : Result := .next (command q (deviceCmd id.toNat) s)

end Sys2Proof.Machine
end

