-- ==== Sys2Proof/Machine/Collectives.lean ====
section
/-! DEFINITION. The collective engine and the fabric's roles (R267 to R269, R271, R272, R350). -/

namespace Sys2Proof.Machine

/-! ## Collectives (R267) -/

def collRop (ws : List Nat) : Nat := bits (dw ws 6) 15 13
def collFmt (ws : List Nat) : Nat := bits (dw ws 6) 12 7

def modColl (s : State) (t : Nat) (f : Collective → Collective) : State :=
  modFabric s fun x => { x with running := x.running.map fun c => if c.tree = t then f c else c }

/-- Contribution of a child to a chunk. -/
def contribution (c : Collective) (chunk child : Nat) : Option (List Byte) :=
  (c.got.find? fun g => g.1 = chunk && g.2.1 = child).map fun g => g.2.2

/-- The children's contributions to a chunk in index order, once every one has arrived. -/
def contributions (c : Collective) (chunk : Nat) : List Nat → Option (List (List Byte))
  | [] => some []
  | i :: r =>
    match contribution c chunk i, contributions c chunk r with
    | some x, some xs => some (x :: xs)
    | _, _ => none

/-- Word 3 of a collective packet (table "Collective packet, word 3"). -/
def collWord (c : Collective) (chunk cidx : Nat) : Nat :=
  flds [(56, c.tree), (40, c.round), (16, chunk), (11, cidx), (8, c.rop), (2, c.fmt)]

/-- Send a collective packet to a device. -/
def collSend (s : State) (c : Collective) (op dst chunk cidx : Nat) (data : List Byte) : State :=
  sendPkt s op (newHdr s dst 0 c.job 0 0 0 0xFFFF 0 4 0 false (collWord c chunk cidx)) data

/-- The children of a tree, index 1 first. -/
def childrenOf (t : Tree) : List Nat := (List.range t.children).map fun i => nth t.devices i 0xFFFF

/-- Write a chunk's result to the destination: local pages at their homes, the others sent. The requests sent. -/
def collWrite (s : State) (c : Collective) (chunk : Nat) (data : List Byte) : State × List Nat :=
  let (s, ids) := copyWrites s c.entry c.ctx (copyPieces (c.dst + 256 * chunk) 256) data
  match collPart s c with
  | some w => (setPart s c.entry { w with ids := w.ids ++ ids }, ids)
  | none => (s, ids)

/-- A chunk's result is here: it is written, and passed to the children in index order. -/
def chunkDone (s : State) (t chunk : Nat) (data : List Byte) : State :=
  match collOn s t with
  | none => s
  | some c =>
    let (s, ids) := collWrite s c chunk data
    let s := each s (childrenOf (getTree s t)) fun s d => collSend s c 0x31 d chunk 0 data
    let s := modColl s t fun c => { c with
      done := if c.done.contains chunk then c.done else c.done ++ [chunk]
      got := c.got.filter fun g => g.1 ≠ chunk }
    copyUnsent s ids

/-- Combine a chunk whose contributions are all in: the root has its result, another sends its partial up (R267). -/
def chunkStep (s : State) (t chunk : Nat) : State :=
  match collOn s t with
  | none => s
  | some c =>
    if c.done.contains chunk || c.sent.contains chunk then s
    else
      let tr := getTree s t
      match contributions c chunk ((List.range tr.children).map fun i => i + 1) with
      | none => s
      | some parts =>
        let (s, own, bad) := copySource s c.ctx [] (copyPieces (c.src + 256 * chunk) 256)
        match bad with
        | some va => hardwareFault s c.ctx.toNat 3 cPoison va ((peek s 4 c.ctx.toNat va).map fun pa => pa / 65536).toList
        | none =>
          let acc := parts.foldl (fun a p => reduceBytes c.rop c.fmt p a) own
          let s := modColl s t fun c => { c with sent := c.sent ++ [chunk] }
          if tr.parent = 0xFFFF then chunkDone s t chunk acc else collSend s c 0x30 tr.parent chunk tr.index acc

/-- Every chunk in ascending order. -/
def collStep (s : State) (t : Nat) : State :=
  match collOn s t with
  | none => s
  | some c => collEnd (each s (List.range c.chunks) fun s i => chunkStep s t i) t

/-- COLLECTIVE (R267): an eligible descriptor takes its tree's next round, where the tree is its job's and free. -/
def execCollective (entry : BitVec 10) (s : State) : Result :=
  .next <|
    let e := entry.toNat
    match getEntry s e with
    | none => s
    | some x =>
      if !running s then s
      else
        match startable s x 3 with
        | none => s
        | some w =>
          let t := treeOf w.words
          let tr := getTree s t
          let job := ctxJob s x.ctx.toNat
          if tr.job = 0 || tr.job ≠ job || (collOn s t).isSome then s
          else
            let now := sparTimer s
            let s := modEntry s e fun x => { x with
              phase := .running
              started := match x.started with | some t => some t | none => some now }
            let c : Collective :=
              { tree := t
                entry := e
                ctx := x.ctx
                job := job
                round := (tr.round + 1) % 65536
                rop := collRop w.words
                fmt := collFmt w.words
                src := dw w.words 4
                dst := dw w.words 5
                chunks := lenField w.words / 256 }
            let s := setPart (modFabric s fun f => { f with running := f.running ++ [c] }) e { w with running := true }
            collStep s t

/-- A packet that matches no running collective is discarded and counted for its tree (R269). -/
def collDrop (s : State) (t : Nat) : State := modTree s t fun x => { x with discarded := x.discarded + 1 }

/-- A collective packet of a device: what it names, where it matches the collective running on its tree. -/
def collMatch (s : State) (p : SPkt) : Option (Collective × Nat × Nat) :=
  let x := p.opx.toNat
  match collOn s (bits x 63 56) with
  | none => none
  | some c => if c.round = bits x 55 40 && c.job = p.job.toNat then some (c, bits x 39 16, bits x 15 11) else none

/-- A collective packet is here for this device. -/
def collArrives (s : State) (p : SPkt) : Bool :=
  running s && s.fabric.device ≠ 0xFFFF && p.dst.toNat = s.fabric.device

/-- CONTRIB (R267): a child's chunk. -/
def execContrib (p : SPkt) (data : List Byte) (s : State) : Result :=
  .next <|
    if !collArrives s p then s
    else
      let t := bits p.opx.toNat 63 56
      match collMatch s p with
      | none => collDrop s t
      | some (c, chunk, child) =>
        let fits : Bool := 1 ≤ child && decide (child ≤ (getTree s t).children) && decide (chunk < c.chunks)
        if !fits || (contribution c chunk child).isSome || c.sent.contains chunk then s
        else collEnd (chunkStep (modColl s t fun c => { c with got := c.got ++ [(chunk, child, data)] }) t chunk) t

/-- RESULT (R267): the parent's result for a chunk this device sent up. -/
def execResult (p : SPkt) (data : List Byte) (s : State) : Result :=
  .next <|
    if !collArrives s p then s
    else
      let t := bits p.opx.toNat 63 56
      match collMatch s p with
      | none => collDrop s t
      | some (c, chunk, _) =>
        if !c.sent.contains chunk || c.done.contains chunk then s else collEnd (chunkDone s t chunk data) t

/-- The device a collective waits for: the first missing child of its first open chunk, or its parent. -/
def collWaits (s : State) (c : Collective) : Option Nat :=
  let tr := getTree s c.tree
  match (List.range c.chunks).find? fun i => !c.done.contains i with
  | none => none
  | some chunk =>
    if c.sent.contains chunk then some tr.parent
    else
      (((List.range tr.children).map fun i => i + 1).find? fun i => (contribution c chunk i).isNone).map fun i =>
        nth tr.devices (i - 1) 0xFFFF

/-- COLLECTIVE_TIMEOUT (R269): the path to the device waited for fails, and the context meets a hardware fault. -/
def execCollectiveTimeout (tree : Byte) (s : State) : Result :=
  .next <|
    if !running s then s
    else
      match collOn s tree.toNat with
      | none => s
      | some c =>
        match collWaits s c with
        | none => s
        | some d => hardwareFault (pathMark (pathLost s d) c.ctx.toNat d) c.ctx.toNat 2 cFabricPath 0 []

/-! ## Roles (R271, R272) -/

/-- HEARTBEAT (R272): a standby hears its manager; a manager that hears a higher generation stands by. -/
def execHeartbeat (src : W16) (gen : W32) (s : State) : Result :=
  .next <|
    if !halyard s || s.fabric.device = 0xFFFF then s
    else
      let s := noteGen s gen.toNat
      if s.fabric.role = 2 && src.toNat = s.fabric.manager then modFabric s fun f => { f with lastBeat := sparTimer s } else s

/-- HEARTBEAT_TIMEOUT (R272): a standby takes over with the next generation, and asks after open commits (R289). -/
def execHeartbeatTimeout (s : State) : Result :=
  .next <|
    if !halyard s || s.fabric.role ≠ 2 then s
    else
      let gen := (s.fabric.gen + 1) % 2 ^ 32
      let s := modFabric s fun f => { f with role := 1, gen := gen, manager := f.device }
      queryJobs (emit s (.claim gen))

/-- A CLAIM is accepted from the standby with a higher generation (R272): the state after it, and whether it was. -/
def claim (s : State) (src gen : Nat) : State × Bool :=
  let good := src = s.fabric.standby && decide (s.fabric.gen < gen)
  let s := noteGen s gen
  (if good then modFabric s fun f => { f with manager := src, gen := gen } else s, good)

/-- CLAIM (R272, R350): answered with the manager in force. The response's OP and TAG answer no request's, and are free. -/
def execClaim (src : W16) (gen : W32) (s : State) : Result :=
  .next <|
    if !halyard s then s
    else
      let (s, good) := if s.fabric.device = 0xFFFF then (s, false) else claim s src.toNat gen.toNat
      let (s, i) := draw s
      let (s, j) := draw s
      emit s (.dict (.fabric src gen false) (Config.freeNat i) (Config.freeNat j) 0x5000 3 (if good then 0 else 2) 1
        (natLe 2 s.fabric.manager))

/-- A port event reaches the manager, whose software plans routes by it (R257, R265, R276). -/
def portReport (kind : Nat) (src : W16) (port : Byte) (peer : W16) (s : State) : Result :=
  .next (if halyard s && s.fabric.device ≠ 0xFFFF && s.fabric.role = 1 then emit s (.portevIn src.toNat kind port.toNat peer.toNat) else s)

def execPortevPortLost (src : W16) (port : Byte) (peer : W16) (s : State) : Result := portReport 1 src port peer s
def execPortevPortUp (src : W16) (port : Byte) (peer : W16) (s : State) : Result := portReport 2 src port peer s
def execPortevPortRetired (src : W16) (port : Byte) (peer : W16) (s : State) : Result := portReport 3 src port peer s
def execPortevPathFailed (src : W16) (port : Byte) (peer : W16) (s : State) : Result := portReport 4 src port peer s

end Sys2Proof.Machine
end

