-- ==== Sys2Proof/Machine/Keys.lean ====
section
/-! DEFINITION. Key exchange on a Shroud port (R273 to R275). The P-384, HMAC and certificate engines are constants of
`Config`. -/

namespace Sys2Proof.Machine

/-- An exchange is in progress on a port. -/
def keyOpen (p : Port) : Bool := p.offerOut.isSome

/-- An exchange fails: a port that requires protection carries no traffic and reads refused (R274). -/
def keyFail (s : State) (n : Nat) : State :=
  let s := modPort s n fun p => { p with
    keyState := 3
    chain := []
    chainLen := 0
    chainGood := false
    offerIn := none
    offerOut := none
    confirmIn := false
    confirmOut := false }
  alarm (portState s n 6) 13

/-- An exchange is complete once this end has sent CONFIRM and verified the partner's: the new phase is in force. -/
def keyCheck (s : State) (n : Nat) : State :=
  let p := getPort s n
  if p.confirmIn && p.confirmOut then
    modPort s n fun p => { p with
      keyState := 2
      exchanges := p.exchanges + 1
      kph := p.kphNext
      flits := 0
      chain := []
      chainLen := 0
      chainGood := false
      offerIn := none
      offerOut := none
      confirmIn := false
      confirmOut := false }
  else s

/-- A KEYX packet reaches its port: a reserved field fails the exchange, and the first of a partner's exchange on a port
that is up begins this end's. -/
def keyMsg (n : Nat) (sport : BitVec 5) (res : Bool) (payload : List Byte) (f : State → State) (s : State) : Result :=
  .next <|
    let p := getPort s n
    if !halyard s || p.protect ≠ 1 || !(p.state = 4 || p.state = 5) then s
    else if res || 17 < sport.toNat || payload.length ≠ 192 then keyFail s n
    else f (if keyOpen p then s else keyStart s n)

/-- The chain's bytes, once every chunk is here. -/
def chainBytes (p : Port) : Option (List Byte) :=
  if p.chainLen ≠ 0 && p.chain.length = p.chainLen then some (p.chain.flatMap Prod.snd) else none

/-- CHAIN: a chunk of the partner's certificates; the whole chain must lead to the root the ROM names. -/
def execKeyxChain (port : Fin 18) (chunk nchunk : Byte) (sport : BitVec 5) (_kph res : Bool) (payload : List Byte) (s : State) :
    Result :=
  keyMsg port sport (res || nchunk = 0 || nchunk.toNat ≤ chunk.toNat) payload (fun s =>
    let s := modPort s port fun p => { p with chain := tput p.chain chunk.toNat payload, chainLen := nchunk.toNat }
    match chainBytes (getPort s port) with
    | none => s
    | some c => if Config.chainVerifies c then modPort s port fun p => { p with chainGood := true } else keyFail s port) s

/-- OFFER: the partner's ephemeral key, signed by the identity key of its chain; this end then sends CONFIRM. -/
def execKeyxOffer (port : Fin 18) (sport : BitVec 5) (_kph res : Bool) (payload : List Byte) (s : State) : Result :=
  keyMsg port sport res payload (fun s =>
    match (getPort s port).chainGood, chainBytes (getPort s port) with
    | true, some c =>
      if Config.offerVerifies c payload then
        keyCheck (emit (modPort s port fun p => { p with offerIn := some payload, confirmOut := true }) (.keyx port 3)) port
      else keyFail s port
    | _, _ => keyFail s port) s

/-- CONFIRM: the partner's code over both OFFERs; its unused bytes are zero. -/
def execKeyxConfirm (port : Fin 18) (sport : BitVec 5) (_kph res : Bool) (payload : List Byte) (s : State) : Result :=
  keyMsg port sport (res || !((payload.drop 48).all fun b => b = 0)) payload (fun s =>
    match (getPort s port).offerIn, (getPort s port).offerOut with
    | some i, some o =>
      if Config.confirmVerifies i o (payload.take 48) then keyCheck (modPort s port fun p => { p with confirmIn := true }) port
      else keyFail s port
    | _, _ => keyFail s port) s

/-- KEY_EXCHANGE_TIMEOUT (R274): an exchange is not complete within 100 ms. -/
def execKeyExchangeTimeout (port : Fin 18) (s : State) : Result :=
  .next (if halyard s && keyOpen (getPort s port) then keyFail s port else s)

/-- KEY_EXCHANGE_RETRY (R274): a refused port tries again every 1 s. -/
def execKeyExchangeRetry (port : Fin 18) (s : State) : Result :=
  .next (if halyard s && (getPort s port).state = 6 then keyStart (portState s port 4) port else s)

/-- REKEY (R274): the flits between exchanges have been sent, or the manager asks; the old phase serves meanwhile. -/
def execRekey (port : Fin 18) (s : State) : Result :=
  .next <|
    let p := getPort s port
    if halyard s && p.state = 5 && p.protect = 1 && p.keyState = 2 && !keyOpen p then keyStart s port else s

end Sys2Proof.Machine
end

