-- ==== Sys2Proof/Machine/Links.lean ====
section
/-! DEFINITION. The root PLLs, the position probe and the Ratline links: training, negotiation, flits, the sideband,
recalibration and errors (R9 to R20, R227 to R252). -/

namespace Sys2Proof.Machine

/-! ## Ends of links -/

/-- Links a die terminates. -/
def linksOfDie (d : Nat) : List Nat := if d = 4 then [0, 1, 2, 3] else [d, 4 + d, 4 + (d + 3) % 4]

/-- The die at an end of a link: the Loam, or clockwise-sending, end first. -/
def endDie (n : Nat) (far : Bool) : Nat := if far then (linkEnds n).2 else (linkEnds n).1

/-- Logical port of a link's end on its die (table "Unit classes"). -/
def endPort (n : Nat) (far : Bool) : Nat := if n < 4 then (if far then n else 0) else (if far then 2 else 1)

def unitModule (n : Nat) (far : Bool) (m : Nat) : Nat := unitId (endDie n far) 6 (64 * endPort n far + m)

/-- Modules of a link in each direction (R227). -/
def moduleCount (n : Nat) : Nat := if n < 4 then 50 else 40

def modKey (far : Bool) (m : Nat) : Nat := 64 * b2n far + m
def getMod (s : State) (n : Nat) (far : Bool) (m : Nat) : Module := tget (getLink s n).mods (modKey far m) {}
def modMod (s : State) (n : Nat) (far : Bool) (m : Nat) (f : Module → Module) : State :=
  modLink s n fun l => { l with mods := tmod l.mods (modKey far m) {} f }

/-- Start-up is in progress, or the domain retrains its links. -/
def trains (s : State) : Bool :=
  match s.life with
  | .starting => true
  | .usable => true
  | .failed => true
  | _ => false

/-- A failure of a link: at start-up the dies at both ends record it (R13); later it is a link lost (R16, R181). -/
def linkFails (s : State) (n code : Nat) : State :=
  match s.life with
  | .starting => failDies s [(linkEnds n).1, (linkEnds n).2] code
  | .usable => domainDown s 2 n
  | _ => s

/-! ## Readiness of dies (R14) -/

def firmwareGood (s : State) : Bool := s.sec.boot = 2 || s.sec.boot = 3

def dieReady (s : State) (d : Nat) : Bool :=
  let x := getDie s d
  x.clocks && (linksOfDie d).all (linkActive s) && (if d = 4 then firmwareGood s else x.position < 4)

/-- Dies whose own start-up is complete read so; with every die ready the Monitor stage follows. -/
def readyCheck (s : State) : State :=
  monitorStage (each s (List.range 5) fun s d =>
    if (getDie s d).startState = 0 && dieReady s d then modDie s d fun x => { x with startState := 1 } else s)

/-! ## Root PLLs (R10, R11, R17, R18, R20) -/

/-- ROOT_PLL_LOCK: a die's root locks for the first time; its timer starts from zero, straps are latched, links train. -/
def execRootPllLock (d : Fin 5) (loc : BitVec 3) (s : State) : Result :=
  .next <|
    let x := getDie s d
    let powered : Bool := match s.life with | .unpowered => false | .tripped => false | _ => true
    if !powered || x.everLocked then s
    else
      let s := modDie s d fun x => { x with
        everLocked := true
        clocks := true
        timer := 0
        straps := if d.val = 4 then 0 else loc.toNat
        position := if d.val = 4 then 4 else x.position }
      each s (linksOfDie d) fun s n => modLink s n fun l => if l.state = 0 then { l with state := 1 } else l

/-- PLL_LOCK_TIMEOUT (R13, R418): a Loam die's root has not locked 400 ms after T0; the Spar die's leaves silence. -/
def execPllLockTimeout (d : Fin 5) (s : State) : Result :=
  .next <|
    let starts : Bool := match s.life with | .starting => true | _ => false
    if (getDie s d).everLocked || !starts || d.val = 4 then s
    else failDies (modDie s d fun x => { x with lost := true }) [d.val] 6

/-- LOSS_OF_LOCK (R18, R181): a die's clocks stop, its links are lost, and the domain goes down naming the lowest. -/
def execLossOfLock (d : Fin 5) (s : State) : Result :=
  .next <|
    if !(getDie s d).clocks then s
    else
      let ref := if d.val = 4 then 0 else d.val
      let runs := domainRuns s
      let s := modDie s d fun x => { x with lockLosses := x.lockLosses + 1 }
      let s := each s (linksOfDie d) fun s n => modLink s n fun l => if l.state = 6 then { l with state := 9 } else l
      let s := if runs then domainFalls s 2 ref else each s (linksOfDie d) fun s n => retrainLink s n true
      modDie s d fun x => { x with clocks := false }

/-- PLL_RELOCK (R18): the clocks run again, and the timer goes on from its value. -/
def execPllRelock (d : Fin 5) (s : State) : Result :=
  .next <|
    let x := getDie s d
    let powered : Bool := match s.life with | .unpowered => false | .tripped => false | _ => true
    if !powered || !x.everLocked || x.clocks || x.lost then s
    else
      let s := modDie s d fun x => { x with clocks := true }
      each s (linksOfDie d) fun s n => modLink s n fun l => if l.state = 9 then { l with state := 1 } else l

/-! ## Position probe (R9 to R12) -/

/-- Port map value of a position (table "Physical Ratline interface to logical port, by position"). -/
def portMapOf (pos : Nat) : Nat :=
  match pos with
  | 0 => 0x24
  | 1 => 0x12
  | 2 => 0x24
  | _ => 0x09

/-- Role of a physical interface under a port map: 0 Inner, 1 Clockwise, 2 Counterclockwise, 3 none. -/
def roleOf (map phy : Nat) : Nat := map / 4 ^ phy % 4

/-- Identities exchanged on both ends of a link in its identity stage: the capability stage follows (R241). -/
def identCheck (s : State) (n : Nat) : State :=
  modLink s n fun l => if l.state = 3 && l.identA.isSome && l.identB.isSome then { l with state := 4 } else l

/-- Record an end's identity, as its partner received it. -/
def identPut (s : State) (n : Nat) (fromFar : Bool) (v : Nat) : State :=
  identCheck (modLink s n fun l => if fromFar then { l with identB := some v } else { l with identA := some v }) n

/-- A Loam die receives a Spar answer on an interface (R10, R11, R13). -/
def sparAnswer (s : State) (d phy port : Nat) : State :=
  let x := getDie s d
  if x.answered.contains phy then identPut s d true port
  else
    let s := modDie s d fun x => { x with answered := x.answered ++ [phy] }
    if !x.answered.isEmpty then (match s.life with | .starting => failDies s [d] 3 | _ => s)
    else
      let s := modDie s d fun x => { x with position := port }
      if roleOf (portMapOf port) phy ≠ 0 || 3 < port then (match s.life with | .starting => failDies s [d] 8 | _ => s)
      else
        let s := modDie s d fun x => { x with portMap := portMapOf port, strapWarn := x.straps ≠ port }
        let s := if x.straps ≠ port then alarm s 2 else s
        identPut s d true port

/-- A ring partner's position arrives: it must be the neighbour that the own position calls for (R12). -/
def ringIdent (s : State) (d phy pos : Nat) : State :=
  let x := getDie s d
  if 3 < x.position || 3 < pos then s
  else
    match roleOf x.portMap phy with
    | 1 =>
      let n := 4 + x.position
      if pos = (x.position + 1) % 4 then identPut s n true pos
      else linkFails (emits (modLink s n fun l => { l with state := 7 }) [.ctl n false 4 1, .ctl n true 4 1]) n 4
    | 2 =>
      let n := 4 + (x.position + 3) % 4
      if pos = (x.position + 3) % 4 then identPut s n false pos
      else linkFails (emits (modLink s n fun l => { l with state := 7 }) [.ctl n false 4 1, .ctl n true 4 1]) n 4
    | _ => s

/-- IDENT: received by a die on a physical interface; on the Spar die, on an Inner port site. -/
def execIdent (d : Fin 5) (phy : Fin 4) (spar : Bool) (port : Byte) (_rev : W16) (s : State) : Result :=
  .next <|
    if !(getDie s d).clocks || !trains s then s
    else if d.val = 4 then (if spar then s else identPut s phy false port.toNat)
    else if phy.val = 3 then s
    else if spar then sparAnswer s d phy port.toNat
    else ringIdent s d phy port.toNat

/-- POSITION_PROBE_TIMEOUT (R13): no Spar answer within 200 ms of lock. -/
def execPositionProbeTimeout (d : Fin 4) (s : State) : Result :=
  .next <|
    let x := getDie s d
    match s.life with
    | .starting => if x.everLocked && x.answered.isEmpty then failDies s [d.val] 2 else s
    | _ => s

/-! ## Training stages (R241) -/

/-- Every module of both ends satisfies a test. -/
def allModules (l : Link) (n : Nat) (p : Module → Bool) : Bool :=
  (List.range (moduleCount n)).all fun m => p (tget l.mods (modKey false m) {}) && p (tget l.mods (modKey true m) {})

/-- A link fails to train. -/
def trainFails (s : State) (n : Nat) : State := linkFails (modLink s n fun l => { l with state := 8 }) n 5

/-- FORWARDED_CLOCK_DETECTED (R229, R241): a module has its partner's clock, on its spare pair where the first fails;
with both pairs failed the link fails. -/
def execForwardedClockDetected (link : Fin 8) (far : Bool) (m : Fin 50) (pairFailed : Bool) (s : State) : Result :=
  .next <|
    let n := link.val
    let l := getLink s n
    if !(getDie s (endDie n far)).clocks || moduleCount n ≤ m.val || !(l.state = 1 || l.state = 9 || (pairFailed && l.state = 6)) then s
    else if pairFailed then
      let s := modMod s n far m fun x => { x with pairs := x.pairs + 1 }
      if (getMod s n far m).pairs < 2 then s
      else if l.state = 6 then loseLink s n
      else trainFails s n
    else
      let s := modMod (modLink s n fun l => { l with state := 1 }) n far m fun x => { x with clock := true }
      if allModules (getLink s n) n Module.clock then modLink s n fun l => { l with state := 2 } else s

/-- Physical lanes a module excludes: retired ones, and those recalibration has out. -/
def excludedOf (m : Module) : List Nat := (m.retired ++ m.excluded).eraseDups

/-- LANE_TRAINING_COMPLETE (R241): a module's lanes are centred; a lane with errors is excluded, a fifth exclusion fails
the link. -/
def execLaneTrainingComplete (link : Fin 8) (far : Bool) (m : Fin 50) (failing : List (Fin 84)) (s : State) : Result :=
  .next <|
    let n := link.val
    let l := getLink s n
    if !(getDie s (endDie n far)).clocks || moduleCount n ≤ m.val || l.state ≠ 2 then s
    else
      let s := modMod s n far m fun x => { x with excluded := (failing.map Fin.val).filter fun i => !x.retired.contains i }
      if 4 < (excludedOf (getMod s n far m)).length then trainFails s n
      else
        let s := modMod s n far m fun x => { x with lanes := true }
        if allModules (getLink s n) n Module.lanes then modLink s n fun l => { l with state := 3 } else s

/-- TRAINING_STAGE_TIMEOUT (R241): the stage is retried from lane training, 8 times in all. -/
def execTrainingStageTimeout (link : Fin 8) (s : State) : Result :=
  .next <|
    let n := link.val
    let l := getLink s n
    if l.state < 1 || 5 < l.state || !trains s then s
    else if 8 ≤ l.tries then trainFails s n
    else
      modLink s n fun l => { l with
        state := 2
        tries := l.tries + 1
        identA := none
        identB := none
        gotA := false
        gotB := false
        creditA := false
        creditB := false
        mods := tmap l.mods fun _ m => { m with lanes := false } }

/-! ## Negotiation (R15, R16, R242) -/

/-- A link is refused: both sides send REFUSE and stop. -/
def refuseLink (s : State) (n reason : Nat) : State :=
  linkFails (emits (modLink s n fun l => { l with state := 7 }) [.ctl n false 4 reason, .ctl n true 4 reason]) n
    (if reason = 1 then 4 else 5)

/-- Both advertisements are in: the intersection takes force, unless an in-band retrain changed it (R16). -/
def capsCheck (s : State) (n : Nat) : State :=
  let l := getLink s n
  if !(l.gotA && l.gotB) then s
  else
    let inter := l.advA &&& l.advB
    match l.before with
    | some old =>
      if inter = old then modLink s n fun l => { l with state := 5, before := none }
      else loseLink (modLink s n fun l => { l with state := 6, before := none, inter := inter }) n
    | none => emits (modLink s n fun l => { l with state := 5, inter := inter }) [.ctl n false 3 0, .ctl n true 3 0]

/-- CAPS: the advertisement of one end of a link. -/
def execCaps (link : Fin 8) (far : Bool) (major minor : Byte) (mask : W64) (s : State) : Result :=
  .next <|
    let n := link.val
    if (getLink s n).state ≠ 4 || !trains s then s
    else
      let s := modLink s n fun l =>
        if far then { l with advB := mask, minorB := minor.toNat, gotB := true }
        else { l with advA := mask, minorA := minor.toNat, gotA := true }
      if major ≠ 1 then refuseLink s n 2
      else if !mask.getLsbD 0 then refuseLink s n 3
      else capsCheck s n

/-- Credits of a CREDIT message: 8 bits for each channel, in units of 2 slots. -/
def creditsOf (w : W64) : List Nat := (List.range 6).map fun v => 2 * bits w.toNat (8 * v + 7) (8 * v)

/-- Traffic flows on a link. -/
def linkUp (s : State) (n : Nat) : State :=
  readyCheck (modLink s n fun l => { l with state := 6, tries := 0, trafficHeld := false, before := none })

/-- CREDIT: one end grants its receive slots to the other's transmitters; SEQ and ACK start at 0. -/
def execCredit (link : Fin 8) (far : Bool) (credits : W64) (s : State) : Result :=
  .next <|
    let n := link.val
    if (getLink s n).state ≠ 5 || !trains s then s
    else
      let grant (s : State) (m : Nat) : State :=
        modMod s n (!far) m fun x => { x with credits := creditsOf credits, txSeq := 0, acked := 4095, rxLast := 4095, replay := [] }
      let s := each s (List.range (moduleCount n)) grant
      let s := modLink s n fun l => if far then { l with creditB := true } else { l with creditA := true }
      let l := getLink s n
      if l.creditA && l.creditB then linkUp s n else s

/-- LINK_REFUSE: the partner refuses the link. -/
def execLinkRefuse (link : Fin 8) (_far : Bool) (reason : Byte) (s : State) : Result :=
  .next <|
    let n := link.val
    let l := getLink s n
    if !trains s || l.state < 1 || 5 < l.state || reason = 0 || 3 < reason.toNat then s
    else linkFails (modLink s n fun l => { l with state := 7 }) n (if reason = 1 then 4 else 5)

/-- RETRAIN (R16): a module, or every module for 0xFF, retrains in-band; both sides advertise again. -/
def execRetrain (link : Fin 8) (module : Byte) (s : State) : Result :=
  .next <|
    let n := link.val
    let l := getLink s n
    if l.state ≠ 6 || (module ≠ 0xFF && moduleCount n ≤ module.toNat) then s
    else
      modLink s n fun l => { l with
        state := 4
        before := some l.inter
        gotA := false
        gotB := false
        creditA := false
        creditB := false
        trafficHeld := true }

/-! ## Loss (R247, R248) -/

/-- LINK_LOSS_TIMEOUT (R247): 1 µs with no good flit, or with a flit unacknowledged. -/
def execLinkLossTimeout (link : Fin 8) (_why : LinkLoss) (s : State) : Result := .next (loseLink s link)

def sideOf (l : Link) (far : Bool) : Sideband := if far then l.sideB else l.sideA
def setSide (l : Link) (far : Bool) (b : Sideband) : Link := if far then { l with sideB := b } else { l with sideA := b }

/-- SIDEBAND_FRAME (R248): valid with the marker, a state that is not reserved, and the next count; three in a row align
the receiver, which then takes a lost or refused state as the link's loss. -/
def execSidebandFrame (link : Fin 8) (far : Bool) (frame : W16) (s : State) : Result :=
  .next <|
    let n := link.val
    let v := frame.toNat
    if !(getDie s (endDie n far)).clocks then s
    else
      let b := sideOf (getLink s n) far
      let form : Bool := bits v 15 8 = 0x7E && decide (bits v 7 4 < 5)
      let valid := form && decide (bits v 3 0 = (b.count + 1) % 16)
      let good := if valid then min 3 (b.good + 1) else 0
      let b' : Sideband := { count := if form then bits v 3 0 else b.count, good := good, aligned := b.aligned || good = 3 }
      let s := modLink s n fun l => setSide l far b'
      if b'.aligned && valid && (bits v 7 4 = 3 || bits v 7 4 = 4) then loseLink s n else s

/-- SIDEBAND_TIMEOUT (R248): no valid frame for 64 ticks on an aligned receiver. -/
def execSidebandTimeout (link : Fin 8) (far : Bool) (s : State) : Result :=
  .next <|
    let n := link.val
    if (getDie s (endDie n far)).clocks && (sideOf (getLink s n) far).aligned then
      loseLink (modLink s n fun l => setSide l far {}) n
    else s

/-! ## Lanes: errors, retirement, recalibration (R229, R249 to R251) -/

/-- A lane is retired until power-down; a fifth exclusion loses the link (R229, R250). -/
def retireLane (s : State) (n : Nat) (far : Bool) (m lane : Nat) : State :=
  let s := alarm (modMod s n far m fun x => { x with
    retired := if x.retired.contains lane then x.retired else x.retired ++ [lane]
    excluded := x.excluded.filter fun i => i ≠ lane }) 9
  if 4 < (excludedOf (getMod s n far m)).length then loseLink s n else s

/-- Count an error of a module; a lasting fault retires its worst lane. -/
def moduleError (s : State) (n : Nat) (far : Bool) (m lane : Nat) : State :=
  let (s, lasting) := countError s (unitModule n far m) 8
  if lasting then retireLane s n far m lane else s

/-- RATLINE_PARITY_ERROR (R250, R251): counted; in a header or flit control the link is lost, in a data slot the message
it stands in carries POISON. -/
def execRatlineParityError (link : Fin 8) (far : Bool) (m : Fin 50) (header : Bool) (worst : Fin 84) (s : State) : Result :=
  .next <|
    let n := link.val
    if !linkActive s n || moduleCount n ≤ m.val then s
    else
      let s := moduleError s n far m worst
      if header then loseLink s n else s

/-- RATLINE_RECALIBRATION (R249): a lane is out of service for 20 µs; without bit 7, or with no exclusion left, the
module holds its traffic once for the pass. -/
def execRatlineRecalibration (link : Fin 8) (far : Bool) (m : Fin 50) (lane : Fin 84) (s : State) : Result :=
  .next <|
    let n := link.val
    let x := getMod s n far m
    if !linkActive s n || moduleCount n ≤ m.val || x.recal.isSome then s
    else if (getLink s n).inter.getLsbD 7 && decide ((excludedOf x).length < 4) then
      modMod s n far m fun x => { x with excluded := x.excluded ++ [lane.val], recal := some lane.val }
    else modLink s n fun l => { l with holds := l.holds + 1 }

/-- RECALIBRATION_LANE_RETURN (R249): the lane returns to service, unless it has been retired. -/
def execRecalibrationLaneReturn (link : Fin 8) (far : Bool) (m : Fin 50) (lane : Fin 84) (s : State) : Result :=
  .next <|
    let n := link.val
    if (getMod s n far m).recal ≠ some lane.val then s
    else modMod s n far m fun x => { x with excluded := x.excluded.filter fun i => i ≠ lane.val, recal := none }

/-! ## Flits (R228, R231 to R237, R246) -/

/-- Data slots of an event or debug message (table "Event and debug messages"), where NDATA agrees with them. -/
def eventSlots (dbg : Bool) (w0 : Nat) : Option (List Nat) :=
  let count : Option Nat :=
    match dbg, bits w0 63 58 with
    | false, 1 => some (bits w0 23 23)
    | false, 2 => some 4
    | false, 3 => some 0
    | false, 4 => some 2
    | false, 5 => some 2
    | false, 6 => some 0
    | false, 7 => some 0
    | true, 1 => some 2
    | true, 2 => some 0
    | true, 3 => some 1
    | _, _ => none
  match count with
  | some n => if bits w0 27 24 = n then some [n] else none
  | none => none

/-- Bits of ARG and ARG2 that the table "Event and debug messages" does not name, not zero (R240). -/
def eventRes (dbg : Bool) (w0 w1 : Nat) : Bool :=
  match dbg, bits w0 63 58 with
  | false, 1 => if bit w0 23 then bits w0 22 4 ≠ 0 || w1 ≠ 0 else bits w0 22 14 ≠ 0 || bits w1 63 41 ≠ 0
  | false, 2 => bits w0 18 0 ≠ 0 || bits w1 63 10 ≠ 0
  | false, 3 => bits w0 23 13 ≠ 0
  | false, 4 => bits w0 11 0 ≠ 0 || w1 ≠ 0
  | false, 5 => (if bit w0 23 then bits w0 22 10 ≠ 0 else bits w0 10 0 ≠ 0) || w1 ≠ 0
  | false, 6 => w1 ≠ 0
  | false, 7 =>
    let kind := bits w0 23 20
    bits w0 19 19 ≠ 0 || bits w0 11 0 ≠ 0 || (kind ≠ 3 && bits w0 18 12 ≠ 0) ||
      (if kind = 1 || kind = 4 then bits w1 63 32 ≠ 0 else kind ≠ 2 && w1 ≠ 0)
  | true, 1 => bits w0 23 0 ≠ 0 || w1 ≠ 0
  | _, _ => false

/-- Word of a byte string, little-endian. -/
def flitWord (data : List Byte) (i : Nat) : Nat := leNat ((data.drop (8 * i)).take 8)

/-- Unnamed bits of an event or debug message's data slots, not zero: of a launch placement, of counter data (R240). -/
def eventDataRes (dbg : Bool) (w0 : Nat) (data : List Byte) : Bool :=
  match dbg, bits w0 63 58 with
  | false, 2 => bits (flitWord data 3) 25 0 ≠ 0 || bits (flitWord data 4) 31 0 ≠ 0 || bits (flitWord data 6) 31 0 ≠ 0
  | true, 3 => bits (flitWord data 1) 63 4 ≠ 0
  | _, _ => false

/-- Data slots a message of a slot tag may have, by its header's words (tables "Slot tags", "Memory and coherence
opcodes", "Event and debug header"); none for an opcode that is reserved there. -/
def slotsAllowed (tag w0 w1 : Nat) : Option (List Nat) :=
  let op := bits w0 63 58
  let gm := popN 8 (bits w1 34 27)
  let part := if bits w1 22 20 < 4 then 1 else gm
  match tag with
  | 2 =>
    if [0x01, 0x06, 0x08, 0x0A].contains op then some [0]
    else if op = 0x03 || op = 0x0B then some [8]
    else if op = 0x04 || op = 0x09 then some [part]
    else if op = 0x05 || op = 0x07 then some [1]
    else none
  | 3 =>
    if op = 0x20 then some [gm]
    else if [0x21, 0x23, 0x24].contains op then some [0]
    else if op = 0x22 then some [1]
    else if op = 0x25 then some [8]
    else none
  | 4 => if [0x10, 0x11, 0x13, 0x15].contains op then some [0] else if op = 0x12 then some [8] else none
  | 5 =>
    if op = 0x21 || op = 0x32 then some [0]
    else if op = 0x30 then some [8]
    else if op = 0x31 then some [0, 8]
    else none
  | 6 => eventSlots false w0
  | 7 => eventSlots true w0
  | 8 => some [8]
  | 9 => if 1 ≤ bits w0 63 56 && bits w0 63 56 ≤ 5 then some [0] else none
  | _ => none

/-- Reserved bits of a header, or of a link control message, that are not zero. -/
def headerRes (tag w0 w1 : Nat) : Bool :=
  match tag with
  | 2 => bits w1 1 0 ≠ 0
  | 4 => bits w1 1 0 ≠ 0
  | 3 => bits w1 26 20 ≠ 0 || bits w1 18 0 ≠ 0 || (bits w0 63 58 ≠ 0x25 && bits w1 63 39 ≠ 0)
  | 5 => bits w1 26 20 ≠ 0 || bits w1 14 0 ≠ 0 || bits w1 63 39 ≠ 0 || (bits w0 63 58 ≠ 0x30 && bits w1 18 15 ≠ 0)
  | 6 => eventRes false w0 w1
  | 7 => eventRes true w0 w1
  | 8 => bits w0 1 0 ≠ 0 || bits w1 19 0 ≠ 0
  | 9 =>
    (match bits w0 63 56 with
     | 1 => bits w0 23 0 ≠ 0
     | 2 => bits w0 39 0 ≠ 0
     | 3 => bits w0 55 0 ≠ 0
     | _ => false)
  | _ => false

/-- Slot tag of a slot. -/
def slotTag (f : List Byte) (k : Nat) : Nat := bits (flitW1 f) (4 * k + 27) (4 * k + 24)

/-- The form of the slots from `k` on, `open0` being the counts the message so far may still take; an invalid form is a
reserved tag, data with no header, or data that disagrees with its opcode. -/
def slotsGood (f : List Byte) : Nat → Nat → Option (Nat × List Nat) → Bool
  | 0, _, cur => (match cur with | some (n, cs) => cs.contains n | none => true)
  | fuel + 1, k, cur =>
    let ends : Bool := match cur with | some (n, cs) => cs.contains n | none => true
    let t := slotTag f k
    let w0 := leNat ((f.drop (16 * k)).take 8)
    let w1 := leNat ((f.drop (16 * k + 8)).take 8)
    if t = 0 then ends && slotsGood f fuel (k + 1) none
    else if t = 1 then
      match cur with
      | some (n, cs) => slotsGood f fuel (k + 1) (some (n + 1, cs))
      | none => false
    else
      match slotsAllowed t w0 w1 with
      | none => false
      | some cs =>
        let dataRes : Bool := (t = 6 || t = 7) && eventDataRes (t = 7) w0 (f.drop (16 * (k + 1)))
        ends && !headerRes t w0 w1 && !dataRes && slotsGood f fuel (k + 1) (some (0, cs))

/-- An invalid format under a good CRC (R233, R234). -/
def flitBad (f : List Byte) : Bool :=
  bits (flitW0 f) 37 32 ≠ 0 || bits (flitW1 f) 9 0 ≠ 0 || decide (5 < bits (flitW1 f) 27 25) || decide (5 < bits (flitW1 f) 18 16) ||
  (if flitIdle f then bits (flitW1 f) 63 28 ≠ 0 else !slotsGood f 9 1 none)

/-- Ask for a replay, once until it arrives. -/
def modAskReplay (s : State) (n : Nat) (far : Bool) (m : Nat) : State :=
  let x := getMod s n far m
  if x.nakWait then s
  else emit (modMod s n far m fun x => { x with nakWait := true }) (.flit n far m x.txSeq x.rxLast true [])

/-- Slots a flit's messages take of each virtual channel, owed back to the sender once freed. -/
def flitOwes (f : List Byte) : List Nat :=
  let vcOf (t : Nat) : Option Nat := if 2 ≤ t && t ≤ 7 then some (t - 2) else if t = 8 then some 0 else none
  ((List.range 9).foldl (fun (acc : List Nat × Option Nat) i =>
    let t := slotTag f (i + 1)
    let vc := if t = 1 then acc.2 else vcOf t
    (match vc with | some v => addCredit acc.1 v 1 | none => acc.1, vc)) ([0, 0, 0, 0, 0, 0], none)).1

/-- A good flit's acknowledgement and credit returns take effect; a NAK replays from the buffer. -/
def modControl (s : State) (n : Nat) (far : Bool) (m : Nat) (f : List Byte) : State :=
  let w1 := flitW1 f
  let x := getMod s n far m
  let left := afterAck (flitAck f) x.replay
  let s := modMod s n far m fun x => { x with
    acked := flitAck f
    replays := if left.length < x.replay.length then 0 else x.replays
    replay := left
    credits := addCredit (addCredit x.credits (bits w1 27 25) (bits w1 24 19)) (bits w1 18 16) (bits w1 15 10) }
  if !flitNak f then s
  else
    let s := modMod s n far m fun x => { x with replays := x.replays + 1 }
    let s := modLink s n fun l => { l with replayed := l.replayed + left.length }
    let s := emits s (left.map fun r => .flit n far m r.1 x.rxLast false [])
    if 32 ≤ (getMod s n far m).replays then loseLink s n else s

/-- RATLINE_FLIT_RECEIVED: CRC, form, order, acknowledgement and credits; the messages it carries come as commands of
their own. Which lane had the most errors is free where the fault is lasting (assumption 4). -/
def execRatlineFlitReceived (link : Fin 8) (far : Bool) (m : Fin 50) (flit : List Byte) (s : State) : Result :=
  .next <|
    let n := link.val
    let x := getMod s n far m
    if !linkActive s n || moduleCount n ≤ m.val then s
    else if !flitGood flit then
      let s := modLink s n fun l => { l with badCrc := l.badCrc + 1 }
      let (s, i) := draw s
      modAskReplay (moduleError s n far m (Config.freeNat i % 84)) n far m
    else if flitBad flit then loseLink s n
    else
      let next := (x.rxLast + 1) % 4096
      if flitSeq flit ≠ next then modAskReplay s n far m
      else
        let owes := if flitIdle flit then [0, 0, 0, 0, 0, 0] else flitOwes flit
        let s := modMod s n far m fun x => { x with
          nakWait := false
          rxLast := if flitIdle flit then x.rxLast else next
          owed := (List.range 6).map fun v => nth x.owed v 0 + nth owes v 0 }
        modControl s n far m flit

/-- An idle flit of a module: the SEQ of its next flit, and up to two credit returns. -/
def idleFlit (s : State) (n : Nat) (far : Bool) (m : Nat) (returns : Bool) : State :=
  let x := getMod s n far m
  let vcs := ((List.range 6).filter fun v => nth x.owed v 0 ≠ 0).take 2
  let vcs := if returns then vcs else []
  let give (v : Nat) : Nat := if vcs.contains v then min 63 (nth x.owed v 0) else 0
  let s := modMod s n far m fun x => { x with owed := (List.range 6).map fun v => nth x.owed v 0 - give v }
  emit s (.flit n far m x.txSeq x.rxLast x.nakWait ((List.range 6).map give))

/-- CREDIT_RETURN_IDLE (R235): no flit left for 16 flit times while returns are owed. -/
def execCreditReturnIdle (link : Fin 8) (far : Bool) (m : Fin 50) (s : State) : Result :=
  .next <|
    let n := link.val
    if linkActive s n && decide (m.val < moduleCount n) && (getMod s n far m).owed.any (fun v => v ≠ 0) then idleFlit s n far m true
    else s

/-- IDLE_FLIT (R228): at least one idle flit in every 2,048 flit times. -/
def execIdleFlit (link : Fin 8) (far : Bool) (m : Fin 50) (s : State) : Result :=
  .next <|
    let n := link.val
    if linkActive s n && decide (m.val < moduleCount n) then idleFlit s n far m true else s

end Sys2Proof.Machine
end

