-- ==== Sys2Proof/Machine/Observe.lean ====
section
/-! DEFINITION. The trace engine, its destinations, the log and the counters (R401 to R412). -/

namespace Sys2Proof.Machine

/-! ## Records (R402 to R405) -/

/-- The 32 bytes of an observation record. -/
def obsBytes (r : ObsRec) : List Byte :=
  natLe 8 (flds [(48, r.unit.toNat), (36, r.event.toNat), (24, r.ctx.toNat), (22, r.kind.toNat), (0, r.arg.toNat)]) ++
  natLe 8 r.timer.toNat ++ natLe 8 r.param.toNat ++ natLe 8 (flds [(32, r.seq.toNat), (0, r.count.toNat)])

/-- A gap record for a die's lost records. -/
def gapRec (s : State) (d whr first n : Nat) : ObsRec := obsRec (unitId d 0 0) 0 0 1 whr (sparTimer s) 0 first n

/-- Records a record stands for in a drop: itself, or the range of a gap record. -/
def spanOf (r : ObsRec) : Nat := if r.kind = 1 then r.count.toNat else 1

/-- A pending gap with one more record lost. -/
def gapGrow (g : Option (Nat × Nat)) (r : ObsRec) : Option (Nat × Nat) :=
  match g with
  | none => some (r.seq.toNat, spanOf r)
  | some (first, n) => some (first, n + spanOf r)

/-- Copy a record into a destination queue of 32,768: the queue, the die's pending gap, and whether it was dropped. -/
def queuePut (s : State) (d whr : Nat) (gap : Option (Nat × Nat)) (q : List ObsRec) (r : ObsRec) :
    List ObsRec × Option (Nat × Nat) × Bool :=
  let q' := match gap with | some (first, n) => if q.length < 32768 then q ++ [gapRec s d whr first n] else q | none => q
  let gap' := if q'.length = q.length then gap else none
  if q'.length < 32768 && gap'.isNone then (q' ++ [r], none, false) else (q', gapGrow gap' r, r.kind ≠ 1)

/-- The trace ring is set. -/
def traceRingOn (s : State) : Bool := s.obs.ring.base ≠ 0 && s.obs.ring.size ≠ 0

/-- The engine copies a record into both destinations (R405). -/
def traceCopy (s : State) (d : Nat) (r : ObsRec) : State :=
  let x := getDie s d
  let (rq, rg, rdrop) := if traceRingOn s then queuePut s d 3 x.ringGap s.obs.ringQueue r else (s.obs.ringQueue, x.ringGap, false)
  let (lq, lg, ldrop) := if s.obs.lanesOn = 1 then queuePut s d 4 x.laneGap s.obs.laneQueue r else (s.obs.laneQueue, x.laneGap, false)
  let s := modObs s fun o => { o with ringQueue := rq, laneQueue := lq }
  let s := modDie s d fun x => { x with
    ringGap := rg
    laneGap := lg
    traceRingDrop := x.traceRingDrop + b2n rdrop
    traceLaneDrop := x.traceLaneDrop + b2n ldrop }
  if rdrop || ldrop then alarm s 15 else s

/-- TRACE_RECORD (R404): the engine checks a die's sequence, writes a gap record for what is missing, and copies the
record. -/
def execTraceRecord (d : Fin 5) (r : ObsRec) (s : State) : Result :=
  .next <|
    if !halyard s then s
    else
      let x := getDie s d
      let miss := (r.seq.toNat + 2 ^ 32 - x.traceNext % 2 ^ 32) % 2 ^ 32
      let s := modDie s d fun x => { x with
        traceBuf := x.traceBuf.erase r
        traceNext := (r.seq.toNat + spanOf r) % 2 ^ 32
        traceLost := x.traceLost + miss }
      let s := if miss = 0 then s else alarm (traceCopy s d (gapRec s d 2 x.traceNext miss)) 15
      traceCopy s d r

/-! ## Destinations (R406, R407) -/

/-- TRACE_RING_WRITE (R406): eight records in one access, where the mode lets the ring take them. -/
def execTraceRingWrite (s : State) : Result :=
  .next <|
    let g := s.obs.ring
    let room : Bool := g.mode = 0 || decide (g.tail + 8 ≤ g.head + g.size)
    if !halyard s || !domainUp s || !traceRingOn s || decide (s.obs.ringQueue.length < 8) || !room then s
    else
      let bs := (s.obs.ringQueue.take 8).flatMap obsBytes
      let s := homeWriteAll s byTrace (g.base + 32 * (g.tail % g.size)) bs
      modObs s fun o => { o with
        ringQueue := o.ringQueue.drop 8
        ring := { o.ring with
          tail := g.tail + 8
          lost := if g.mode = 0 && decide (g.size < g.tail + 8) then g.lost + 8 else g.lost } }

/-- The lanes carry one record in a block time. -/
def laneSend (s : State) : State :=
  match s.obs.laneQueue with
  | [] => s
  | r :: rest =>
    if (getDie s 4).clocks && s.obs.lanesOn = 1 then
      emit (modObs s fun o => { o with laneQueue := rest, lanesSent := o.lanesSent + 1 }) (.lanes r)
    else s

/-- TRACE_ALIGNMENT_BLOCK (R407): every 16,384 block times, on all four lanes. -/
def execTraceAlignmentBlock (s : State) : Result := .next (if halyard s then emit s .align else s)

/-! ## Rings (R406, R409) -/

/-- Frames of a ring. -/
def ringFrames (base size : Nat) : List Nat :=
  if base = 0 || size = 0 then []
  else (List.range ((32 * size + 65535) / 65536)).map fun i => base / 65536 + i

def powerIn (v lo hi : Nat) : Bool := (List.range (hi + 1 - lo)).any fun i => v = 2 ^ (lo + i)

def obsRingWith (g : ObsRing) (sub v : Nat) : ObsRing :=
  if sub = 1 then { base := v, size := g.size, mode := g.mode } else { base := g.base, size := v, mode := g.mode }

/-- What refuses a ring's new base or size. -/
def obsRingCheck (s : State) (g : ObsRing) (maxLog sub v : Nat) : Nat :=
  let n := obsRingWith g sub v
  let form : Bool := if sub = 1 then v % 65536 = 0 && decide (v < 2 ^ 40) else powerIn v 11 maxLog
  let free := (ringFrames n.base n.size).all fun f => (getOwn s f).state = 0 && covered s (f * 65536)
  if !form then 3
  else if s.obs.level ≠ 0 || !s.obs.ringQueue.isEmpty || !s.obs.laneQueue.isEmpty || !free then 4
  else 0

/-- The new ring's frames become system, those the old ring leaves free. -/
def obsRingFrames (s : State) (old new : ObsRing) : State :=
  let left := ringFrames old.base old.size
  let now := ringFrames new.base new.size
  let s := each s (left.filter fun f => !now.contains f) fun s f => setEntry s f { zero := false }
  each s now fun s f => setEntry s f { state := 3, zero := false }

def traceRingCmd (sub v : Nat) : Cmd :=
  { index := 0x9020
    sub := sub
    type := if sub = 1 then 3 else 2
    may := fun _ k => k.trio
    check := fun s _ => obsRingCheck s s.obs.ring 26 sub v
    apply := fun s _ =>
      let n := obsRingWith s.obs.ring sub v
      modObs (obsRingFrames s s.obs.ring n) fun o => { o with ring := n } }

/-- TRACE_RING_SET: sub-indices 01 and 02 of 0x9020. -/
def execTraceRingSet (q : Requester) (sub : Byte) (value : W64) (s : State) : Result :=
  .next (if sub = 1 || sub = 2 then command q (traceRingCmd sub.toNat value.toNat) s else s)

/-- Write the log records that the ring has room for (R409). -/
def logFlush (s : State) : State :=
  let g := s.obs.log
  if !halyard s || !domainUp s || g.base = 0 || g.size = 0 then s
  else
    let n := min s.obs.logBuf.length (g.head + g.size - g.tail)
    let put (s : State) (p : ObsRec × Nat) : State := homeWriteAll s byHalyard (g.base + 32 * ((g.tail + p.2) % g.size)) (obsBytes p.1)
    let s := each s (s.obs.logBuf.take n).zipIdx put
    modObs s fun o => { o with logBuf := o.logBuf.drop n, log := { o.log with tail := g.tail + n } }

def logRingCmd (sub v : Nat) : Cmd :=
  { index := 0x9100
    sub := sub
    type := if sub = 1 then 3 else 2
    may := fun _ k => k.trio
    check := fun s _ => obsRingCheck s s.obs.log 20 sub v
    apply := fun s _ =>
      let n := obsRingWith s.obs.log sub v
      logFlush (modObs (obsRingFrames s s.obs.log n) fun o => { o with log := { n with mode := 1 } }) }

/-- LOG_RING_SET: sub-indices 01 and 02 of 0x9100. -/
def execLogRingSet (q : Requester) (sub : Byte) (value : W64) (s : State) : Result :=
  .next (if sub = 1 || sub = 2 then command q (logRingCmd sub.toNat value.toNat) s else s)

/-- LOG_WINDOW_CLOSE (R408, R409): a window that counted events leaves a count record; with the buffer full it stays
open. -/
def execLogWindowClose (unit : W16) (s : State) : Result :=
  .next <|
    if !halyard s then s
    else
      match tfind s.obs.logWins unit.toNat with
      | none => s
      | some w =>
        let gone (s : State) : State := modObs s fun o => { o with logWins := tdel o.logWins unit.toNat }
        if w.count = 0 then gone s
        else
          match logPut s unit.toNat 0 0 3 0 (sparTimer s) 0 w.count with
          | (s, true) => logFlush (gone s)
          | (s, false) => s

/-! ## Markers and counters (R411, R412) -/

def markerCmd (v : Nat) : Cmd :=
  { index := 0x9000
    sub := 1
    type := 2
    may := fun _ k => k.trio
    check := fun _ _ => 0
    apply := fun s _ => event s 4 (unitId 4 0 0) 0x901 0 0 v false }

def execMarker (q : Requester) (value : W32) (s : State) : Result := .next (command q (markerCmd value.toNat) s)

/-- A counter of a throughput core (table "Observation counters"). -/
def coreCounter (s : State) (k sub : Nat) : Option Nat :=
  let c := getCore s k
  match sub with
  | 1 => some c.array.rows
  | 2 => some c.array.holds
  | 3 => some c.array.nans
  | 4 => some c.issued
  | _ => none

/-- A die's trace counter. -/
def dieCounter (s : State) (d sub : Nat) : Option Nat :=
  let x := getDie s d
  match sub with
  | 1 => some x.traceGen
  | 2 => some x.traceDrop
  | 3 => some x.traceCap
  | 4 => some x.traceRingDrop
  | 5 => some x.traceLaneDrop
  | 6 => some x.traceLost
  | _ => none

/-- A counter by its entry. -/
def counterAt (s : State) (index sub : Nat) : Option Nat :=
  if 0x9040 ≤ index && index < 0x9045 then dieCounter s (index - 0x9040) sub
  else if 0x9200 ≤ index && index < 0x9260 then coreCounter s (index - 0x9200) sub
  else if 0x9300 ≤ index && index < 0x9400 then (if sub = 1 then some (getTree s (index - 0x9300)).discarded else none)
  else none

/-- The die a counter is read from. -/
def counterDie (index : Nat) : Nat :=
  if 0x9040 ≤ index && index < 0x9045 then index - 0x9040
  else if 0x9200 ≤ index && index < 0x9260 then (index - 0x9200) / 24
  else 4

/-- COUNTER_READ (R239, R240): a die answers with its counter, or that it has none such. -/
def execCounterRead (d : Fin 5) (index : W16) (sub : Byte) (tag : W64) (s : State) : Result :=
  .next <|
    if !(getDie s d).clocks || !halyard s then s
    else
      match (if counterDie index.toNat = d.val then counterAt s index.toNat sub.toNat else none) with
      | some v => emit s (.counterData index.toNat sub.toNat tag.toNat v 0)
      | none => emit s (.counterData index.toNat sub.toNat tag.toNat 0 1)

/-- What a window read returns of a slot's value: all 8 bytes, or the half asked for (R355). -/
def halfOf (v half size : Nat) : W64 := BitVec.ofNat 64 (if size = 8 then v else v / 2 ^ (32 * half) % 2 ^ 32)

/-- COUNTER_DATA (R240, R411): the Halyard controller answers the read that asked. -/
def execCounterData (index : W16) (sub : Byte) (tag : W64) (value : W64) (status : BitVec 4) (s : State) : Result :=
  .next <|
    let mine (r : CtrRead) : Bool := r.tag = tag.toNat && r.index = index.toNat && r.sub = sub.toNat
    match s.obs.reads.find? mine with
    | none => s
    | some r =>
      if !halyard s then s
      else
        let s := modObs s fun o => { o with reads := o.reads.filter fun x => !mine x }
        let s :=
          if status = 0 then respondTo s r.q r.op r.dtag r.index r.sub 0 3 (natLe 8 value.toNat)
          else respondTo s r.q r.op r.dtag r.index r.sub 1 0 []
        match windowPort r.q with
        | some p => emit s (.window p (if status = 0 then halfOf value.toNat r.half r.size else 0))
        | none => s

end Sys2Proof.Machine
end

