-- ==== Sys2Proof/Machine/Power.lean ====
section
/-! DEFINITION. Rails, the current estimator and its ceilings, power modes, droop, ageing, temperature and energy (R373
to R386), and the supplies (R413 to R416). -/

namespace Sys2Proof.Machine

/-! ## Rails (table "Supply rails") -/

/-- The die that estimates a rail, and throttles by it. -/
def railDie (r : Nat) : Nat :=
  if r < 4 then r
  else if r < 8 then r - 4
  else if r < 11 then 4
  else if r < 23 then (r - 11) % 4
  else 4

/-- Limit over 2 µs in force, in mA: 0 for the rail that is not estimated (R373, R380). -/
def railLimit (s : State) (r : Nat) : Nat :=
  if r < 4 then (if s.power.mode = 2 then 460000 else 760000)
  else if r < 8 then 110000
  else if r = 8 then 120000
  else if r = 9 then 340000
  else if r = 10 then 90000
  else if r < 15 then 120000
  else if r < 19 then 80000
  else if r < 23 then 8000
  else 0

/-- Setpoint in force, in mV. The HBM rails have the setpoints JEDEC gives for the stacks fitted. -/
def railSetpoint (s : State) (r : Nat) : Nat :=
  if r < 4 then (getDie s r).setpoint
  else if r < 9 then 800
  else if r = 9 then (getDie s 4).setpoint
  else if r = 10 then 850
  else if r < 23 then Config.hbmSetpoint r
  else 1800

/-- ASCII codes of a rail's name. -/
def railName (r : Nat) : List Byte :=
  let digit (n : Nat) : Byte := BitVec.ofNat 8 (48 + n)
  let vdd : List Byte := [86, 68, 68]
  let hbm : List Byte := [95, 72, 66, 77]
  if r < 4 then vdd ++ [95, 76, digit r]
  else if r < 9 then vdd ++ [95, 83, 82, 65, 77, 95, digit (r - 4)]
  else if r = 9 then vdd ++ [95, 83, 80, 65, 82]
  else if r = 10 then vdd ++ [65, 95, 80, 72, 89]
  else if r < 15 then vdd ++ [67] ++ hbm ++ [digit (r - 11)]
  else if r < 19 then vdd ++ [81] ++ hbm ++ [digit (r - 15)]
  else if r < 23 then [86, 80, 80] ++ hbm ++ [digit (r - 19)]
  else vdd ++ [95, 73, 79]

def railUnit (r : Nat) : Nat := unitId (railDie r) 17 r

/-- Rails of a die. -/
def dieRails (d : Nat) : List Nat := (List.range 23).filter fun r => railDie r = d

/-! ## Energy (R385) -/

/-- Unit classes whose activity a rail carries, as the die and the class: key 8 × die + class. -/
def railClasses (r : Nat) : List Nat :=
  if r < 4 then [8 * r + 1, 8 * r + 2, 8 * r + 4]
  else if r < 9 then [8 * (r - 4) + 3]
  else if r = 9 then [8 * 4 + 4, 8 * 4 + 6, 8 * 4 + 7]
  else if r = 10 then [8 * 4 + 7, 4, 8 + 4, 16 + 4, 24 + 4, 32 + 4]
  else [8 * railDie r + 5]

/-- Share an amount among keys: the specification leaves the shares to activity it does not model, so each is free; they
add up to the amount. -/
def shareFree (s : State) (t : Tab Nat) (amount : Nat) : List Nat → State × Tab Nat
  | [] => (s, t)
  | [k] => (s, tmod t k 0 fun n => n + amount)
  | k :: r =>
    let (s, i) := draw s
    let part := Config.freeNat i % (amount + 1)
    shareFree s (tmod t k 0 fun n => n + part) (amount - part) r

/-- Add a sample's energy, in units of 1 mV × 1 mA × 8 ns, to the package, the classes of its rail, and the throughput
cores whose activity formed it. -/
def addEnergy (s : State) (r e : Nat) : State :=
  let s := modPower s fun p => { p with energy := p.energy + e }
  let (s, t) := shareFree s s.power.classes e (railClasses r)
  let s := modPower s fun p => { p with classes := t }
  if r < 8 then
    let d := r % 4
    let (s, i) := draw s
    let (s, c) := shareFree s s.power.coreEnergy (Config.freeNat i % (e + 1)) ((List.range 24).map fun k => 24 * d + k)
    modPower s fun p => { p with coreEnergy := c }
  else s

/-- An energy in mJ. -/
def milliJoules (e : Nat) : Nat := e / 125000000000

/-! ## The estimator (R375, R376) -/

/-- Mean of the last 250 samples; samples before power-up count as 0. -/
def railEstimate (x : Rail) : Nat := x.samples.foldl (fun n v => n + v) (0 : Nat) / 250

/-- 250 times the projected current: the rate of the newest sample held for 100 ns. -/
def railProjected (x : Rail) : Nat :=
  let sum := x.samples.foldl (fun n v => n + v) (0 : Nat)
  let oldest := ((x.samples.drop 237).take 13).foldl (fun n v => n + v) (0 : Nat)
  sum - oldest + 13 * x.samples.headD 0

/-- Lower a rail's ceiling by 1, where it is above 2. -/
def railDown (s : State) (r : Nat) : State :=
  if 2 < (getRail s r).ceil then
    let s := modRail s r fun x => { x with ceil := x.ceil - 1, throttles := x.throttles + 1 }
    event s (railDie r) (railUnit r) 0x701 0 r (getRail s r).ceil true
  else s

def railUp (s : State) (r : Nat) : State :=
  if (getRail s r).ceil < 16 then
    let s := modRail s r fun x => { x with ceil := x.ceil + 1 }
    event s (railDie r) (railUnit r) 0x701 0 r (getRail s r).ceil true
  else s

/-- ESTIMATOR_SAMPLE (R375, R376, R385): a sample enters the window and moves the rail's ceiling. -/
def execEstimatorSample (rail : Fin 24) (milliamps : W32) (s : State) : Result :=
  .next <|
    let r := rail.val
    if r = 23 || !(getDie s (railDie r)).clocks then s
    else
      let v := milliamps.toNat
      let s := modRail s r fun x => { x with samples := (v :: x.samples).take 250 }
      let est := railEstimate (getRail s r)
      let s := modRail s r fun x => { x with estimate := est, peak := max x.peak est }
      let s := addEnergy s r (railSetpoint s r * v)
      let proj := railProjected (getRail s r)
      let limit := railLimit s r
      if 250 * limit < proj then alarm (railDown (modRail s r fun x => { x with calm := 0 }) r) 16
      else if 20 * proj < 19 * 250 * limit then
        let s := modRail s r fun x => { x with calm := min 64 (x.calm + 1) }
        if (getRail s r).calm = 64 then railUp s r else s
      else modRail s r fun x => { x with calm := 0 }

/-! ## Power modes (R380, R381) -/

/-- Package cap in force, in W. -/
def packageCap (s : State) : Nat :=
  match s.power.mode with
  | 0 => 3600
  | 1 => s.power.cap
  | _ => 2400

/-- PACKAGE_CEILING_UPDATE (R380): a millisecond's power against the cap. -/
def execPackageCeilingUpdate (watts : W32) (s : State) : Result :=
  .next <|
    if !halyard s then s
    else
      let w := watts.toNat
      let s := modPower s fun p => { p with watts := w }
      let cap := packageCap s
      modPower s fun p =>
        if cap < w then
          { p with
            calm := 0
            ceil := max 2 (p.ceil - 1)
            stepsDown := if 2 < p.ceil then p.stepsDown + 1 else p.stepsDown }
        else if 20 * w < 19 * cap then
          if p.calm = 3 then { p with calm := 0, ceil := min 16 (p.ceil + 1) } else { p with calm := p.calm + 1 }
        else { p with calm := 0 }

/-- The setpoint a die asks its regulator for: the mode's base and the trim (R380, R383). -/
def wantedSetpoint (s : State) (d : Nat) : Nat :=
  let base : Int := if d < 4 && s.power.mode = 2 then 720 else 750
  (base + (getDie s d).trim).toNat

/-- Write a die's setpoint over its AVSBus. -/
def avsWrite (s : State) (d : Nat) : State :=
  let mv := wantedSetpoint s d
  emit (modDie s d fun x => { x with avsPending := some mv }) (.avsbus d mv)

/-- Change the power mode: into efficiency the ceilings fall before the setpoints; out of it they rise once a setpoint is
acknowledged (R381). -/
def modeApply (s : State) (mode : Nat) : State :=
  let old := s.power.mode
  let s := modPower s fun p => { p with mode := mode }
  if (old = 2) = (mode = 2) then s
  else
    each s (List.range 4) fun s d =>
      avsWrite (if mode = 2 then modDie s d fun x => { x with modeCeil := 8 } else s) d

def modeCmd (mode : Nat) : Cmd :=
  { index := 0x2100
    sub := 1
    type := 6
    may := fun _ k => k.trio
    check := fun _ _ => if 2 < mode then 3 else 0
    apply := fun s _ => modeApply s mode }

/-- POWER_MODE_CHANGE (R365, R381). -/
def execPowerModeChange (q : Requester) (mode : Byte) (s : State) : Result := .next (command q (modeCmd mode.toNat) s)

/-- AVSBUS_ACKNOWLEDGE (R381): the setpoint is in force; outside efficiency mode the die's array ceiling is 16 again. -/
def execAvsbusAcknowledge (d : Fin 5) (s : State) : Result :=
  .next <|
    let x := getDie s d
    match x.avsPending with
    | none => s
    | some mv =>
      if !x.clocks then s
      else modDie s d fun x => { x with
        setpoint := mv
        avsPending := none
        modeCeil := if s.power.mode = 2 then x.modeCeil else 16 }

/-- AVSBUS_TIMEOUT (R383): 10 ms unacknowledged; the setpoint counts as not applied. -/
def execAvsbusTimeout (d : Fin 5) (s : State) : Result :=
  .next <|
    let x := getDie s d
    if x.avsPending.isNone || !x.clocks then s else modDie s d fun x => { x with avsPending := none, avsFault := true }

/-- AGEING_MEASURE (R383): a monitor inside its guard band raises the trim by 5 mV, up to +20 mV. -/
def execAgeingMeasure (d : Fin 5) (inside : Bool) (s : State) : Result :=
  .next <|
    let x := getDie s d
    if !x.clocks then s
    else
      let s :=
        if !inside then s
        else if x.trim + 5 ≤ 20 then modDie s d fun x => { x with trim := x.trim + 5 }
        else modDie s d fun x => { x with ageLimit := true }
      if (getDie s d).setpoint = wantedSetpoint s d then s else avsWrite s d

/-! ## Droop (R382) -/

/-- DROOP_TRIP: the die's stretched clocks begin a stretch. -/
def execDroopTrip (d : Fin 5) (s : State) : Result :=
  .next <|
    let x := getDie s d
    if !x.clocks || x.stretching then s
    else alarm (modDie s d fun x => { x with stretching := true, stretches := x.stretches + 1 }) 17

/-- DROOP_END: every detector has read above the threshold for 16 root cycles. -/
def execDroopEnd (d : Fin 5) (roots : W32) (s : State) : Result :=
  .next <|
    let x := getDie s d
    if !x.stretching then s
    else
      let s := modDie s d fun x => { x with stretching := false, rootsAdded := x.rootsAdded + roots.toNat }
      event s d (unitId d 17 255) 0x702 0 0 roots.toNat true

/-- LONG_STRETCH: past 256 root cycles every rail ceiling of the die falls by 1. -/
def execLongStretch (d : Fin 5) (s : State) : Result :=
  .next (if (getDie s d).stretching then each s (dieRails d) railDown else s)

/-! ## Temperature (R384) -/

/-- THERMAL_READING: the thermal ceiling follows the reading; at 110 °C the package trips. -/
def execThermalReading (d : Fin 5) (celsius : Int) (s : State) : Result :=
  .next <|
    if !(getDie s d).clocks then s
    else
      let s := modDie s d fun x => { x with temp := some celsius }
      let s :=
        if 100 ≤ celsius then alarm (modDie s d fun x => { x with thermal := max 2 (x.thermal - 1) }) 18
        else if celsius < 97 then modDie s d fun x => { x with thermal := min 16 (x.thermal + 1) }
        else s
      if 110 ≤ celsius then
        { s with thermTrip := true, life := .tripped, dies := tmap s.dies fun _ x => { x with clocks := false } }
      else s

/-- Lowest ceiling in force on a die (0x6200 + d:07): of its arrays, schedulers, control cores and memory controllers. -/
def dieCeil (s : State) (d : Nat) : Nat :=
  let x := getDie s d
  let rails := (dieRails d).filter fun r => r ≠ 10 && !(19 ≤ r && r < 23)
  let base := ((rails.map fun r => (getRail s r).ceil) ++ [faultCeil s d, x.thermal]).foldl min 16
  if d < 4 then (((List.range 24).map fun k => (getCore s (24 * d + k)).array.ramp) ++ [base, x.modeCeil, s.power.ceil]).foldl min 16
  else base

/-! ## Supplies (R413 to R416) -/

/-- Powered down: everything is lost but the fuses, the levels on the board's reset lines and supplies, and what waits
outside the device. -/
def powerDown (s : State) : State :=
  { State.reset with
    pending := s.pending
    outbox := s.outbox
    freeCtr := s.freeCtr
    power := { rails := s.power.rails.map fun p => (p.1, { valid := p.2.valid }) }
    sec := { minimums := s.sec.minimums, revoked := s.sec.revoked }
    pcie := s.pcie.map fun p => (p.1, { perst := p.2.perst }) }

def allValid (s : State) : Bool := (List.range 24).all fun r => (getRail s r).valid

/-- SUPPLY_VALID (R415): with the last rail valid start-up begins. -/
def execSupplyValid (rail : Fin 24) (s : State) : Result :=
  .next <|
    let s := modRail s rail fun x => { x with valid := true }
    match s.life with
    | .unpowered => if allValid s then { s with life := .starting } else s
    | _ => s

/-- SUPPLY_LOSS (R415, R416): start-up is abandoned, or the device powers down. -/
def execSupplyLoss (rail : Fin 24) (s : State) : Result :=
  .next (powerDown (modRail s rail fun x => { x with valid := false }))

end Sys2Proof.Machine
end

