-- ==== Sys2Proof/Machine/Boot.lean ====
section
/-! DEFINITION. The root of trust: slots and manifests, boot, readiness, security versions and firmware update (R387 to
R392, R415, R419). -/

namespace Sys2Proof.Machine

/-! ## Manifests (R387, R388) -/

/-- Fused minimum SVN in force: of the manifest at 0, of component IDs 1 to 5 (R391). -/
def minSvn (s : State) (i : Nat) : Nat := max (Config.fusedSvn i % 64) (nth s.sec.minimums i 0)

/-- A component entry that breaks its form (table "Component entry"). -/
def compBad (c : FwComp) : Bool :=
  let monitor := c.id = 4
  c.res0 || c.offset.toNat % 4096 ≠ 0 || decide (2 ^ 25 < c.offset.toNat + c.length.toNat) || decide (63 < c.svn.toNat) ||
  (monitor && (decide (2 ^ 24 < c.length.toNat) || c.entry.toNat % 4 ≠ 0 || c.restart.toNat % 4 ≠ 0)) ||
  (!monitor && (c.entry ≠ 0 || c.restart ≠ 0))

def compOf (f : FwSlot) (id : Nat) : Option FwComp := f.comps.find? fun c => c.id.toNat = id

/-- IDs 1 to 5 each appear exactly once. -/
def idsOnce (f : FwSlot) : Bool := [1, 2, 3, 4, 5].all fun i => (f.comps.filter fun c => c.id.toNat = i).length = 1

/-- Why a manifest is not valid, by the codes of 0x8000:02; 0 for a valid one (R388). -/
def manifestFault (s : State) (f : FwSlot) : Nat :=
  if !f.readable then 6
  else if f.magic ≠ 0x5A564D46 || f.format ≠ 1 || f.ncomp ≠ 5 || f.comps.length ≠ 5 || f.res0 || decide (63 < f.svn.toNat) ||
      f.comps.any compBad || !idsOnce f then 1
  else
    match f.signer with
    | none => 2
    | some k =>
      if bit s.sec.revoked k then 2
      else if !f.signed then 3
      else if decide (f.svn.toNat < minSvn s 0) || f.comps.any (fun c => decide (c.svn.toNat < minSvn s c.id.toNat)) then 4
      else 0

/-- A slot's components match their digests as read. -/
def compsGood (f : FwSlot) : Bool := f.comps.all fun c => c.matched

/-- Why a slot is not good; 0 for a good one. -/
def slotFaultCode (s : State) (f : FwSlot) : Nat :=
  let m := manifestFault s f
  if m ≠ 0 then m else if compsGood f then 0 else 5

/-! ## Boot (R389, R390) -/

/-- Record a rejection: the last one shows. -/
def rejectSlot (s : State) (slot code : Nat) : State := modSec s fun x => { x with rejection := code, rejected := slot }

/-- Run a good slot: its values become the running firmware's, and the monitor firmware is copied to its frames. -/
def runSlot (s : State) (slot : Nat) (f : FwSlot) : State :=
  let comp (i : Nat) : FwComp := (compOf f i).getD
    { id := 0, svn := 0, res0 := false, offset := 0, length := 0, entry := 0, restart := 0, digest := [], matched := false }
  let s := modSec s fun x => { x with
    boot := 2 + slot
    version := f.version.toNat
    svn := f.svn.toNat
    compSvn := [1, 2, 3, 4, 5].map fun i => (comp i).svn.toNat
    signer := match f.signer with | some k => k.val | none => 0
    manifest := f.manifest
    digests := [1, 2, 3, 4, 5].map fun i => (comp i).digest
    entry := (comp 4).entry.toNat
    restart := (comp 4).restart.toNat }
  let s := putBytes s 0x10000000 (f.monitor.take (256 * 65536))
  readyCheck s

/-- No slot is good: start-up fails, and the ROM service stays (R13, R389). -/
def noSlot (s : State) : State :=
  let s := modSec s fun x => { x with boot := 4 }
  failDies s [4] 7

/-- Try slots in an order, each as its number with its contents: those whose manifest is valid, and the first good one
runs. -/
def trySlots (s : State) : List (Nat × FwSlot) → State
  | [] => noSlot s
  | (n, f) :: r => if compsGood f then runSlot s n f else trySlots (rejectSlot s n 5) r

/-- ROOT_OF_TRUST_BOOT (R389): manifests are checked, slot A first; of two valid ones the higher VERSION is tried first, and
which of two equal ones the specification leaves open. -/
def execRootOfTrustBoot (a b : FwSlot) (s : State) : Result :=
  .next <|
    let started : Bool := match s.life with | .starting => true | .failed => true | _ => false
    if !halyard s || !started || s.sec.boot ≠ 0 then s
    else
      let fa := manifestFault s a
      let fb := manifestFault s b
      let s := if fa ≠ 0 then rejectSlot s 0 fa else s
      let s := if fb ≠ 0 then rejectSlot s 1 fb else s
      let (s, i) := draw s
      let first := b.version.toNat < a.version.toNat || (a.version = b.version && Config.freeBool i)
      let order := if first then [(0, fa, a), (1, fb, b)] else [(1, fb, b), (0, fa, a)]
      trySlots s ((order.filter fun x => x.2.1 = 0).map fun x => (x.1, x.2.2))

/-- DEVICE_USABLE (R419, table "Boot stages"): the monitor's initialisation is complete; each trained port tells its host. -/
def execDeviceUsable (s : State) : Result :=
  .next <|
    let starting : Bool := match s.life with | .starting => true | _ => false
    if !halyard s || !starting || !domainUp s then s
    else
      let ports := (List.range 2).filter fun p => (getPcie s p).up
      emits { s with life := .usable } (ports.map fun p => .drs p)

/-! ## Security versions and keys (R391) -/

def svnOf (s : State) (i : Nat) : Nat := if i = 0 then s.sec.svn else nth s.sec.compSvn (i - 1) 0

def raiseCmd (id : Nat) : Cmd :=
  { index := 0x8010
    sub := 2
    type := 0
    may := fun _ k => k.isBmc
    check := fun _ _ => if 5 < id then 3 else 0
    apply := fun s _ => modSec s fun x => { x with minimums := setNth x.minimums id (max (nth x.minimums id 0) (svnOf s id)) } }

def execRaiseMinimumSvn (q : Requester) (id : Byte) (s : State) : Result := .next (command q (raiseCmd id.toNat) s)

def revokeCmd (key : Nat) : Cmd :=
  { index := 0x8010
    sub := 3
    type := 0
    may := fun _ k => k.isBmc
    check := fun s _ => if 3 < key || key = s.sec.signer || Nat.lor s.sec.revoked (2 ^ key) = 15 then 3 else 0
    apply := fun s _ => modSec s fun x => { x with revoked := Nat.lor x.revoked (2 ^ key) } }

def execRevokeKey (q : Requester) (key : Byte) (s : State) : Result := .next (command q (revokeCmd key.toNat) s)

/-! ## Firmware update (R392) -/

/-- An update is in progress and bound to another transport. -/
def boundElsewhere (s : State) (q : Requester) : Bool :=
  (s.sec.update = 1 || s.sec.update = 2) && s.sec.binding ≠ some (transport q)

/-- A chunk: the first one of an update binds it to its transport. -/
def chunkCmd (q : Requester) (offset : Nat) (data : List Byte) : Cmd :=
  { index := 0x8020
    sub := 1
    type := 7
    may := fun _ k => k.local2
    check := fun s _ =>
      if offset % 1024 ≠ 0 || data.isEmpty || decide (1024 < data.length) || decide (2 ^ 25 < offset + data.length) then 3
      else if boundElsewhere s q then 4
      else 0
    apply := fun s _ =>
      let s := if s.sec.update = 1 || s.sec.update = 2 then s else modSec s fun x => { x with binding := some (transport q) }
      emit (modSec s fun x => { x with update := 1 }) (.flash offset data) }

def execUpdateChunk (q : Requester) (offset : W64) (data : List Byte) (s : State) : Result :=
  .next (command q (chunkCmd q offset.toNat data) s)

/-- An action at 0x8020:02, with the state its end leaves at 0x8020:03. -/
def updateCmd (q : Requester) (value : Nat) (ends : State → Nat) : Cmd :=
  { index := 0x8020
    sub := 2
    type := 6
    may := fun _ k => k.local2
    check := fun s _ => if value ≠ 1 && value ≠ 2 then 3 else if boundElsewhere s q then 4 else 0
    apply := fun s _ => let u := ends s; modSec s fun x => { x with update := u, binding := none } }

/-- CHECK_AND_ACTIVATE: the inactive slot is checked as for a boot. -/
def execCheckAndActivate (q : Requester) (inactive : FwSlot) (s : State) : Result :=
  .next (command q (updateCmd q 1 fun s => if slotFaultCode s inactive = 0 then 3 else 4) s)

def execAbandon (q : Requester) (s : State) : Result := .next (command q (updateCmd q 2 fun _ => 5) s)

end Sys2Proof.Machine
end

