-- ==== Sys2Proof/Machine/Pcie.lean ====
section
/-! DEFINITION. The PCI Express ports and their functions, and the management endpoints: link, reset, configuration, BAR 2, IDE,
MCTP and SPDM (R314 to R316, R360, R393 to R396, R419 to R423). -/

namespace Sys2Proof.Machine

/-! ## Links and resets (R314, R419, R421) -/

/-- Start-up failed, or the device was first usable: configuration requests complete normally (R419). -/
def served (s : State) : Bool :=
  match s.life with
  | .usable => true
  | .failed => true
  | _ => false

/-- A port takes part in the device's host-port mode: port 1 does not under mode 2 (R314). -/
def portUsed (s : State) (p : Nat) : Bool := p = 0 || s.disp.portMode ≠ 2

/-- PCIE_LINK_UP (R419): a port out of reset trains once the Spar die's root has locked. -/
def execPcieLinkUp (port : Fin 2) (s : State) : Result :=
  .next (if (getDie s 4).clocks && !(getPcie s port).perst && portUsed s port && halyard s then
    modPcie s port fun x => { x with up := true } else s)

/-- PERST_DEASSERT (R419): the port may train. -/
def execPerstDeassert (port : Fin 2) (s : State) : Result := .next (modPcie s port fun x => { x with perst := false })

/-- What an assertion does to a port that has trained: its link and streams drop, its functions are reset, and its virtual
functions, each of which is reset whether it was enabled or not, are no longer enabled (R421, R422). -/
def perstReset (s : State) (p : Nat) : State :=
  let s := modPcie s p fun x => { x with up := false, eid := 0, ideLink := 0, ideSel := [], waiting := [] }
  let vs := (s.disp.vfs.filter fun v => v.1 / 32 = p).map Prod.fst
  let s := each s vs fun s v => modVF s v fun f => { f with enabled := false, busMaster := false }
  askResets s (some p) vs

/-- PERST_ASSERT (R421): an assertion that is taken holds the port in reset; one shorter than 100 µs may be ignored. -/
def execPerstAssert (port : Fin 2) (taken : Bool) (s : State) : Result :=
  .next <|
    if !taken || !portUsed s port then s
    else
      let was := (getPcie s port).up
      let s := modPcie s port fun x => { x with perst := true }
      if was then perstReset s port else s

/-- FUNCTION_LEVEL_RESET (R316). -/
def execFunctionLevelReset (f : Func) (s : State) : Result :=
  .next <|
    if !halyard s || !served s then s
    else
      match f with
      | .pf p => if (getPcie s p).up then askResets s (some p.val) [] else s
      | .vf p f => if (getPcie s p).up && (getVF s (vfKey p f)).enabled then askResets s none [vfKey p f] else s

/-! ## Requests of hosts (R183, R192, R315, R396, R419) -/

/-- A port answers its host: trained, and its link stream not Insecure (R396). -/
def answers (s : State) (p : Nat) : Bool := halyard s && (getPcie s p).up && (getPcie s p).ideLink ≠ 2

/-- Effect of a configuration request. -/
def configApply (s : State) (p : Nat) (r : CfgReq) : State :=
  match r with
  | .enableVfs n =>
    each s (List.range 32) fun s f =>
      let on := decide (f < n.val)
      if (getVF s (vfKey p f)).enabled = on then s
      else modVF s (vfKey p f) fun v => { v with enabled := on, busMaster := if on then v.busMaster else false }
  | .busMaster f on => if (getVF s (vfKey p f)).enabled then modVF s (vfKey p f) fun v => { v with busMaster := on } else s
  | .other => s

/-- CONFIGURATION_REQUEST (R419): completed with retry status until the device is first usable, normally afterwards and after
a start-up failure. -/
def execConfigurationRequest (port : Fin 2) (r : CfgReq) (s : State) : Result :=
  .next <|
    if !answers s port then s
    else if served s then emit (configApply s port r) (.config port false)
    else emit s (.config port true)

/-- Port and identity of a function's memory requests: none for a virtual function that is not enabled or not mapped
(R191, R315). -/
def funcWho (s : State) (f : Func) : Nat × Option Who :=
  match f with
  | .pf p => (p, some .sys)
  | .vf p f =>
    let v := getVF s (vfKey p f)
    (p, if v.enabled && !v.flr && v.part < 64 then some (.vf v.part) else none)

def bumpRefused (s : State) (f : Func) : State :=
  match f with
  | .pf _ => s
  | .vf p f => modVF s (vfKey p f) fun v => { v with refused := v.refused + 1 }

/-- Lines a byte range touches. -/
def spanLines (pa n : Nat) : List Nat := if n = 0 then [] else (List.range ((pa + n - 1) / 128 + 1 - pa / 128)).map fun i => pa / 128 + i

/-- Read a range at its homes: the bytes, and whether any is delivered poisoned. -/
def spanRead (s : State) (b : By) (pa n : Nat) : State × List Byte × Bool :=
  let sick := (spanLines pa n).any (linePoisoned s)
  (each s (spanLines pa n) fun s ln => (homeRead s b (ln * 128) 128).1, memBytes s pa n, sick)

/-- The device has been usable and its coherent domain is down (R179, R181). -/
def domainLost (s : State) : Bool := (match s.life with | .usable => true | _ => false) && (s.homes.down || s.homes.dead)

/-- Complete a read that cannot be served with a status; a posted write has no completion. -/
def bar2Fail (s : State) (r : HostReq) (status : Nat) : State :=
  match r.data with
  | some _ => s
  | none => emit s (.bar2 r.f status false [])

/-- Serve a host's memory request at a port (R192, R315): Unsupported Request where no region covers the address or the
function is unmapped, Completer Abort where ownership forbids it. A write that fails is discarded, and one that ownership
forbids is reported. -/
def bar2Serve (s : State) (p : Nat) (who : Option Who) (r : HostReq) : State :=
  if domainLost s then
    match r.data with
    | some _ => modPcie s p fun x => { x with discarded := x.discarded + 1 }
    | none => bar2Fail s r 2
  else
    match who with
    | none => bar2Fail s r 1
    | some w =>
      let b : By := { who := w, agent := agentPcie p }
      if !((spanLines r.pa r.n).all fun ln => covered s (ln * 128)) then bar2Fail s r 1
      else if !rangePass s w r.data.isSome r.pa r.n then
        let s := bumpRefused s r.f
        match r.data with
        | some _ => modPcie s p fun x => { x with caErrors := x.caErrors + 1 }
        | none => bar2Fail s r 2
      else
        match r.data with
        | some d => homeWriteAll s b r.pa d
        | none => let (s, bs, sick) := spanRead s b r.pa r.n; emit s (.bar2 r.f 0 sick bs)

/-- A host's request waits: a line of it is locked, or a reservation defers the write (R141, R244). -/
def bar2Waits (s : State) (p : Nat) (who : Option Who) (r : HostReq) : Bool :=
  match who with
  | none => false
  | some w =>
    let key := ({ who := w, agent := agentPcie p } : By).key
    (spanLines r.pa r.n).any fun ln => (getLine s ln).lock.isSome || (r.data.isSome && resvDefers s key ln)

/-- Serve the requests that wait at a port, in order, up to one that still waits. -/
def hostDrain (s : State) (p : Nat) : List HostReq → State
  | [] => modPcie s p fun x => { x with waiting := [] }
  | r :: rest =>
    let (_, who) := funcWho s r.f
    if bar2Waits s p who r && !domainLost s then modPcie s p fun x => { x with waiting := r :: rest }
    else hostDrain (bar2Serve s p who r) p rest

/-- BAR2_ACCESS (R179, R192, R315): a host reads, or writes with `data`, the HBM window through a function. While the domain
is down a read completes with Completer Abort and a posted write is discarded and counted. A request that must wait holds up
the later ones of its port (R148). -/
def execBar2Access (f : Func) (pa : BitVec 40) (size : Byte) (data : Option (List Byte)) (s : State) : Result :=
  .next <|
    let (p, who) := funcWho s f
    let n := match data with | some d => d.length | none => size.toNat
    let r : HostReq := { f := f, pa := pa.toNat, n := n, data := data }
    if !answers s p || n = 0 || !(running s || domainLost s) then s
    else if !domainLost s && (!(getPcie s p).waiting.isEmpty || bar2Waits s p who r) then
      modPcie s p fun x => { x with waiting := x.waiting ++ [r] }
    else bar2Serve s p who r

/-- IDE_INTEGRITY_FAILURE (R396): a stream in Secure goes to Insecure; stream 0 is the link stream. -/
def execIdeIntegrityFailure (port : Fin 2) (stream : Fin 9) (s : State) : Result :=
  .next <|
    let x := getPcie s port
    let now := if stream.val = 0 then x.ideLink else tget x.ideSel stream.val 0
    if !x.up || now ≠ 1 then s
    else modPcie s port fun x =>
      let x := { x with ideFails := x.ideFails + 1 }
      if stream.val = 0 then { x with ideLink := 2 } else { x with ideSel := tput x.ideSel stream.val 2 }

/-! ## MCTP and I3C (R360, R423) -/

/-- I3C_DYNAMIC_ADDRESS_ASSIGNMENT (R423). -/
def execI3cDynamicAddressAssignment (address : Byte) (s : State) : Result :=
  .next (if halyard s then { s with i3cAddr := address.toNat } else s)

/-- An MCTP endpoint answers: 0 on I3C, 1 and 2 on the ports. -/
def epUp (s : State) (ep : Nat) : Bool := halyard s && (ep = 0 || ((getPcie s (ep - 1)).up && (getPcie s (ep - 1)).ideLink ≠ 2))

def eidOf (s : State) (ep : Nat) : Nat := if ep = 0 then s.i3cEid else (getPcie s (ep - 1)).eid

/-- SET_ENDPOINT_ID: identifiers 0 and 0xFF name no endpoint and are not taken (DMTF MCTP base specification). The answer
carries the identifier in force. -/
def execSetEndpointId (ep : Fin 3) (eid : Byte) (s : State) : Result :=
  .next <|
    if !epUp s ep then s
    else
      let ok := eid ≠ 0 && eid ≠ 0xFF
      let s := if !ok then s
        else if ep.val = 0 then { s with i3cEid := eid.toNat }
        else modPcie s (ep.val - 1) fun x => { x with eid := eid.toNat }
      emit s (.mctp ep 1 (eidOf s ep))

def execGetEndpointId (ep : Fin 3) (s : State) : Result :=
  .next (if epUp s ep then emit s (.mctp ep 2 (eidOf s ep)) else s)
def execGetMctpVersionSupport (ep : Fin 3) (s : State) : Result :=
  .next (if epUp s ep then emit s (.mctp ep 4 Config.mctpVersions) else s)
/-- GET_MESSAGE_TYPE_SUPPORT: the types as little-endian bytes, 0x05 SPDM, 0x06 SPDM in a session, 0x7E the dictionary (R346). -/
def execGetMessageTypeSupport (ep : Fin 3) (s : State) : Result :=
  .next (if epUp s ep then emit s (.mctp ep 5 0x7E0605) else s)

/-! ## SPDM (R393 to R395) -/

/-- Place of a responder among those of the device. -/
def responderKey : Responder → Nat
  | .doePf p => p.val
  | .mctp ep => 4 + ep.val
  | .doeVf p f => 8 + vfKey p f

/-- A responder serves: a mailbox from the first configuration request that completes normally, the I3C endpoint from the end of
the Halyard stage of boot (R419). -/
def responderUp (s : State) (r : Responder) : Bool :=
  match r with
  | .doePf p => halyard s && answers s p && served s
  | .doeVf p f => halyard s && answers s p && served s && (getVF s (vfKey p f)).enabled
  | .mctp ep => epUp s ep && s.sec.boot ≠ 0

/-- Fused minimum SVNs and revocation fuses as 0x8010:01 and measurement 8 hold them. -/
def fuseBytes (s : State) : List Byte :=
  ((List.range 6).map fun i => BitVec.ofNat 8 (minSvn s i)) ++ [BitVec.ofNat 8 s.sec.revoked, 0]

/-- Sub-indices 02 to 06 of a partition's entries (R308). -/
def partBytes (s : State) (p : Nat) : List Byte :=
  let x := getPart s p
  natLe 12 x.cores ++ natLe 12 x.ccores ++ natLe 8 (flds [(40, x.ways), (0, x.slices)]) ++
    natLe 4 (flds [(16, x.watchQuota), (0, x.watches)]) ++ natLe 4 (flds [(16, x.ctxQuota), (0, x.contexts)])

/-- Measurements (table "SPDM measurements"); a virtual function's responder has indices 1 to 9 alone. -/
def measurement (s : State) (r : Responder) (n : Nat) : Option (List Byte) :=
  let vf : Option Nat := match r with | .doeVf p f => some (getVF s (vfKey p f)).part | _ => none
  match n with
  | 0 => none
  | 1 => some (sha384 Config.rom)
  | 2 => some (sha384 s.sec.manifest)
  | 8 => some (sha384 (fuseBytes s))
  | 9 => some (sha384 (match vf with | some p => partBytes s p | none => natLe 8 (capSet s).toNat ++ unitMap s))
  | 10 => (match vf with | some _ => none | none => some (natLe 8 (signature s).toNat))
  | k => if k ≤ 7 then some (nth s.sec.digests (k - 3) []) else none

/-- Certificate slot 0: its alias certificate is over measurements 1 to 7 (R393). -/
def certificate (s : State) : List Byte :=
  Config.certificates ((List.range 7).map fun i => (measurement s (.mctp 0) (i + 1)).getD [])

def modSessions (s : State) (r : Responder) (f : Nat → Nat) : State :=
  modSec s fun x => { x with sessions := tmod x.sessions (responderKey r) 0 f }
def sessionsOf (s : State) (r : Responder) : Nat := tget s.sec.sessions (responderKey r) 0

/-- SPDM error codes (DMTF DSP0274): invalid request, invalid session, session limit, version mismatch. -/
def spdmInvalid : Nat := 0x01
def spdmNoSession : Nat := 0x02
def spdmLimit : Nat := 0x0A
def spdmVersion : Nat := 0x41

/-- Serve a request: the state after it, the error code or 0, and the response's contents. -/
def spdmServe (s : State) (r : Responder) (m : SpdmReq) : State × Nat × List Byte :=
  let live := sessionsOf s r ≠ 0
  let needs (t : State) (v : List Byte) : State × Nat × List Byte := if live then (t, 0, v) else (s, spdmNoSession, [])
  match m with
  | .negotiate version listed =>
    if version ≠ 0x13 then (s, spdmVersion, []) else if listed then (s, 0, [0x13]) else (s, spdmInvalid, [])
  | .digests => (s, 0, sha384 (certificate s))
  | .certificate => (s, 0, certificate s)
  | .challenge => (s, 0, Config.spdmSigned 0 (certificate s))
  | .measurement n =>
    (match measurement s r n.toNat with
     | some v => (s, 0, v ++ Config.spdmSigned 1 v)
     | none => (s, spdmInvalid, []))
  | .keyExchange =>
    if 4 ≤ sessionsOf s r then (s, spdmLimit, [])
    else (modSessions s r fun n => n + 1, 0, Config.spdmSigned 2 (certificate s))
  | .finish => needs s []
  | .heartbeat => needs s []
  | .endSession => needs (modSessions s r fun n => n - 1) []
  | .ideKeyProg stream =>
    (match r with
     | .doePf p =>
       needs (modPcie s p fun x =>
         if stream.val = 0 then { x with ideLink := 1 } else { x with ideSel := tput x.ideSel stream.val 1 }) []
     | _ => (s, spdmInvalid, []))

/-- SPDM_REQUEST (R395): served in arrival order, and counted. -/
def execSpdmRequest (r : Responder) (m : SpdmReq) (s : State) : Result :=
  .next <|
    if !responderUp s r then s
    else
      let (s, err, v) := spdmServe s r m
      emit (modSec s fun x => { x with spdm := x.spdm + 1 }) (.spdm r err v)

end Sys2Proof.Machine
end

