-- ==== Sys2Proof/Machine/Clock.lean ====
section
/-! DEFINITION. What one tick of the management clock does: timers count, and what waits for room, for a reservation or a lock,
a path to be cleared, or for its turn goes on (R20, R127, R141, R256, R272, R293, R407; assumption 1). -/

namespace Sys2Proof.Machine

/-- A die's timer counts while its clocks run (R20). -/
def tickDie (d : Die) : Die := if d.clocks then { d with timer := d.timer + 1 } else d

def tickDies (s : State) : State := each s [0, 1, 2, 3, 4] fun s d => modDie s d tickDie

/-- Stores accepted by memory ports and store buffers are performed (R124, R127). -/
def tickStores (s : State) : State :=
  let s := each s ((s.cores.filter fun p => !p.2.port.isEmpty).map Prod.fst) fun s k => drainPort s k fun _ => true
  each s ((s.ccs.filter fun p => !p.2.sb.isEmpty).map Prod.fst) drainCC

/-- Copies whose writes a line deferred go on (R141). -/
def tickCopies (s : State) : State :=
  let held := s.disp.entries.flatMap fun e =>
    (e.2.parts.filter fun w => w.running && kindOf w.words = 2 && w.ids.isEmpty).map fun w => (e.1, w.place)
  each s held fun s p => copyStep s p.1 p.2

/-- Requests held at homes and ports are served where nothing holds them any more (R141, R157, R244, R264). -/
def tickHomes (s : State) : State :=
  let s := each s (s.homes.deferred.map Prod.fst) serveDeferred
  let s := each s ((s.homes.lines.filter fun p => !p.2.pend.isEmpty && stable p.2).map Prod.fst) drainLine
  tickCopies (sweepCopies (serveHeld s))

/-- Requests of hosts that wait at a PCI Express port go on (R141, R148). -/
def tickHosts (s : State) : State :=
  each s ((s.pcie.filter fun p => !p.2.waiting.isEmpty).map Prod.fst) fun s p => hostDrain s p (getPcie s p).waiting

/-- Ports send what waits for room in their replay buffers (R256). -/
def tickPorts (s : State) : State := each s ((s.fabric.ports.filter fun p => !p.2.queue.isEmpty).map Prod.fst) portFlush

/-- A manager sends HEARTBEAT to the standby once every interval (R272). -/
def tickBeat (s : State) : State :=
  let f := s.fabric
  let now := sparTimer s
  if f.role = 1 && f.standby ≠ 0xFFFF && decide (f.heartbeatUs ≤ usOf (now.toNat - f.lastBeat.toNat)) then
    emit (modFabric s fun f => { f with lastBeat := now }) (.heartbeat f.standby)
  else s

/-- One tick of the management clock on every die whose clocks run. -/
def tick (s : State) : State :=
  let s := tickDies s
  let s := if running s then tickHomes (tickStores s) else s
  let s := if running s || domainLost s then tickHosts s else s
  if halyard s then logFlush (laneSend (tickBeat (tickPorts (tickRestores s)))) else s

end Sys2Proof.Machine
end

