-- ==== Sys2Proof/Machine/Entries.lean ====
section
/-! DEFINITION. The entries of the object dictionary: which exist, what each reads as, and who may read it (R14, R118, R171,
R181, R184, R187, R199, R217, R245, R258 to R277, R284, R298 to R301, R306 to R316, R323, R340 to R345, R361 to R365, R386, R399,
R406 to R412). -/

namespace Sys2Proof.Machine

/-! ## Blocks (R363) -/

/-- Blocks of indices in ascending order: first index, number of indices, sub-indices 1 to n of each. The index range of link
protection lies within that of the job table and is served as link protection. -/
def blocks : List (Nat × Nat × Nat) :=
  [(0x1000, 1, 8), (0x1010, 1, 2), (0x1100, 1, 6), (0x1400, 1, 2), (0x1401, 8, 8), (0x2000, 1, 1), (0x2100, 1, 1), (0x2200, 1, 1),
    (0x2300, 1, 1), (0x2310, 1, 5), (0x2500, 1, 2), (0x3000, 64, 9), (0x3100, 1, 1), (0x3101, 1, 2), (0x3110, 1, 1), (0x3111, 1, 2)] ++
  [(0x3120, 1, 1), (0x3121, 1, 5), (0x3300, 64, 3), (0x3400, 64, 5), (0x4000, 1, 6), (0x4010, 1, 1), (0x4011, 1, 2), (0x4100, 256, 7),
    (0x4200, 64, 1), (0x4300, 12, 9), (0x4400, 64, 7), (0x4480, 1, 5), (0x4500, 64, 5), (0x5000, 1, 8), (0x5010, 1, 4)] ++
  [(0x5100, 18, 8), (0x5200, 1, 5), (0x5300, 256, 6), (0x5400, 256, 4), (0x5500, 18, 5), (0x5512, 750, 4), (0x6000, 1, 3), (0x6010, 1, 2),
    (0x6100, 24, 6), (0x6200, 5, 8), (0x6300, 5, 7), (0x6400, 96, 1), (0x7000, 1, 3), (0x7010, 1, 7), (0x7020, 1, 3)] ++
  [(0x7030, 1, 1), (0x7040, 1, 1), (0x7200, 256, 14), (0x7400, 32, 5), (0x8000, 1, 3), (0x8010, 1, 3), (0x8020, 1, 3), (0x8100, 1, 3),
    (0x8200, 2, 3), (0x9000, 1, 1), (0x9020, 1, 6), (0x9030, 1, 2), (0x9040, 5, 6), (0x9100, 1, 7), (0x9200, 96, 4), (0x9300, 256, 1)] ++
  [(0xA000, 1, 9), (0xA100, 1, 9), (0xA200, 1, 9), (0xA300, 1, 9), (0xA400, 1, 9)]

/-- An entry exists at an index and sub-index. -/
def entryThere (index sub : Nat) : Bool :=
  blocks.any fun b => decide (b.1 ≤ index) && decide (index < b.1 + b.2.1) && decide (1 ≤ sub) && decide (sub ≤ b.2.2)

/-- Every entry's index and sub-index, ascending. -/
def allEntries : List (Nat × Nat) :=
  blocks.flatMap fun b => (List.range b.2.1).flatMap fun i => (List.range b.2.2).map fun j => (b.1 + i, j + 1)

/-! ## Values (R343) -/

/-- A value: its type code and its bytes. -/
abbrev Val := Nat × List Byte

def vU8 (n : Nat) : Val := (0, natLe 1 n)
def vU16 (n : Nat) : Val := (1, natLe 2 n)
def vU32 (n : Nat) : Val := (2, natLe 4 n)
def vU64 (n : Nat) : Val := (3, natLe 8 n)
def vI32 (n : Int) : Val := (4, natLe 4 (BitVec.ofInt 32 n).toNat)
def vBool (b : Bool) : Val := (5, natLe 1 (b2n b))
def vEnum (n : Nat) : Val := (6, natLe 1 n)
def vBlob (bs : List Byte) : Val := (7, bs)
def vStr (bs : List Byte) : Val := (8, bs)
/-- A write-only entry reads as zeros of its length (R3, R347). -/
def vZero (type n : Nat) : Val := (type, List.replicate n 0)

/-- Identity, firmware, communication and links (R245, R361). -/
def val1 (s : State) (i j : Nat) : Val :=
  if i = 0x1000 then
    match j with
    | 1 => vU16 Config.pciVendor.toNat
    | 2 => vU16 Config.pciDevice.toNat
    | 3 => vStr [90, 85, 45, 52, 56, 48, 48]
    | 4 => vStr [85, 108, 109, 111, 114]
    | 5 => vU64 Config.serial.toNat
    | 6 => vU16 0x0100
    | 7 => vEnum (packageState s)
    | _ => vU16 0x0100
  else if i = 0x1010 then (if j = 1 then vU32 s.sec.version else vStr (Config.buildLabel.take 32))
  else if i = 0x1100 then
    match j with
    | 1 => vU8 s.i3cEid
    | 2 => vU8 (getPcie s 0).eid
    | 3 => vU8 (getPcie s 1).eid
    | 4 => vU8 s.i3cAddr
    | 5 => vU64 s.obs.ok
    | _ => vU64 s.obs.bad
  else if i = 0x1400 then
    let minor := (List.range 8).foldl (fun m n => min m (min (getLink s n).minorA (getLink s n).minorB)) 255
    if j = 1 then vU64 (capSet s).toNat else vU16 (0x0100 + minor)
  else
    let l := getLink s (i - 0x1401)
    match j with
    | 1 => vU64 l.advA.toNat
    | 2 => vU64 l.advB.toNat
    | 3 => vU64 l.inter.toNat
    | 4 => vEnum l.state
    | 5 => vU16 (l.mods.foldl (fun n m => n + m.2.retired.length) (0 : Nat))
    | 6 => vU64 l.badCrc
    | 7 => vU64 l.replayed
    | _ => vU32 l.holds

/-- Device-wide modes, dispatcher, arithmetic defaults (R118, R314, R342, R365). -/
def val2 (s : State) (i j : Nat) : Val :=
  if i = 0x2000 then vU8 (activeParts s).length
  else if i = 0x2100 then vEnum s.power.mode
  else if i = 0x2200 then vEnum s.obs.level
  else if i = 0x2300 then vEnum s.disp.portMode
  else if i = 0x2310 then
    match j with
    | 1 => vU32 s.disp.waitUs
    | 2 => vU32 s.disp.entries.length
    | 3 => vU32 s.disp.watches.length
    | 4 => vU64 s.disp.completed
    | _ => vU64 s.disp.swapped
  else if j = 1 then vEnum s.defRm
  else vEnum s.defOvf

/-- A result entry, as the transport that reads it sees it (R313). The specification gives the number no type. -/
def valResult (s : State) (q : Requester) (kind j : Nat) : Val :=
  let r := tget s.disp.results (128 * kind + transport q) (0, 0)
  if j = 1 then vEnum r.1 else vU16 r.2

/-- Partitions, commands, functions and tracking (R308, R313, R315, R323, R340). -/
def val3 (s : State) (q : Requester) (i j : Nat) : Val :=
  if i < 0x3100 then
    let p := getPart s (i - 0x3000)
    match j with
    | 1 => vEnum p.state
    | 2 => vBlob (natLe 12 p.cores)
    | 3 => vBlob (natLe 12 p.ccores)
    | 4 => vU64 (flds [(40, p.ways), (0, p.slices)])
    | 5 => vU32 (flds [(16, p.watchQuota), (0, p.watches)])
    | 6 => vU32 (flds [(16, p.ctxQuota), (0, p.contexts)])
    | 7 => vEnum p.port
    | 8 => vU64 p.jobs
    | _ => vU16 p.guaranteed
  else if i = 0x3100 then vZero 7 104
  else if i = 0x3101 then valResult s q 0 j
  else if i = 0x3110 then vZero 7 72
  else if i = 0x3111 then valResult s q 1 j
  else if i = 0x3120 then vZero 7 64
  else if i = 0x3121 then
    match j with
    | 3 => vZero 1 2
    | 4 => vEnum (match getQueue s s.disp.selected with | some q => q.state | none => 0)
    | 5 => vU64 (match getQueue s s.disp.selected with | some q => q.head | none => 0)
    | _ => valResult s q 2 j
  else if i < 0x3400 then
    let v := getVF s (i - 0x3300)
    match j with
    | 1 => vU8 v.part
    | 2 => vEnum (if v.flr then 3 else if !v.enabled then 0 else if v.part < 64 then 2 else 1)
    | _ => vU64 v.refused
  else
    let t := tget s.disp.tracks (i - 0x3400) {}
    match j with
    | 1 => vEnum (b2n t.on)
    | 2 => vBool t.overflow
    | 3 => vZero 7 16
    | 4 => vEnum t.state
    | _ => vU32 t.count

/-- Lines of a Reef window present in class persist, over all slices (R170). -/
def reefPresent (s : State) (w : Nat) : Nat :=
  (s.homes.lines.filter fun l => l.2.st ≠ .I && l.2.cls = .persist && l.2.win = some w).length

/-- HBM, regions, stacks, Reef windows, domain, fault rings (R171, R181, R184, R187, R193, R199, R217). -/
def val4 (s : State) (i j : Nat) : Val :=
  if i = 0x4000 then
    match j with
    | 1 => vU8 12
    | 2 => vU64 768000000000
    | 3 => vU64 0x010000000000
    | 4 => vU32 4096
    | 5 => vU32 ((coveredFrames s).filter fun f => (getOwn s f).state = 0).length
    | _ => vU64 ((coveredFrames s).filter fun f => (getOwn s f).zero).length
  else if i = 0x4010 then vZero 7 24
  else if i = 0x4011 then (if j = 1 then vEnum s.hbm.cmdResult else vU32 s.hbm.cmdDone)
  else if i < 0x4200 then
    let r := tget s.hbm.regions (i - 0x4100) {}
    match j with
    | 1 => vU64 r.base
    | 2 => vU64 r.size
    | 3 => vEnum r.cls
    | 4 => vU8 r.target
    | 5 => vU32 r.cb
    | 6 => vU16 (if r.size = 0 then 0 else chanCount s r)
    | _ => vU32 (stripesOf s r)
  else if i < 0x4300 then vBlob (natLe 48 (getPart s (i - 0x4200)).channels)
  else if i < 0x4400 then
    let k := i - 0x4300
    let x := getStack s k
    match j with
    | 1 => vEnum x.state
    | 2 => vU32 x.retired
    | 3 => vI32 (x.temp.getD (Config.firstTemp k))
    | 4 => vEnum x.refresh
    | 5 => vU64 x.corrections
    | 6 => vU64 x.uncorrectable
    | 7 => vU64 x.reissues
    | 8 => vU32 x.spares
    | _ => vU32 x.passes
  else if i < 0x4480 then
    let w := i - 0x4400
    let r := tget s.homes.reef w {}
    match j with
    | 1 => vU64 r.base
    | 2 => vU64 r.size
    | 3 => vEnum r.cls
    | 4 => vU8 r.quota
    | 5 => vU8 r.part
    | 6 => vU64 r.demotions
    | _ => vU64 (reefPresent s w)
  else if i = 0x4480 then
    match j with
    | 1 => vU32 s.homes.losses
    | 2 => vEnum s.homes.cause
    | 3 => vU16 s.homes.ref
    | 4 => vU32 s.homes.poisoned
    | _ => vU32 s.homes.lastUs
  else
    let r := getRing s (i - 0x4500)
    match j with
    | 1 => vU64 r.base
    | 2 => vU32 r.n
    | 3 => vU8 r.core
    | 4 => vU64 r.written
    | _ => vU64 r.joined

/-- Shroud (R257 to R276). -/
def val5 (s : State) (i j : Nat) : Val :=
  let f := s.fabric
  if i = 0x5000 then
    match j with
    | 1 => vEnum f.role
    | 2 => vU16 f.device
    | 3 => vU16 f.manager
    | 4 => vU32 f.gen
    | 5 => vU16 f.standby
    | 6 => vU32 f.heartbeatUs
    | 7 => vU8 f.missed
    | _ => vU8 f.hops
  else if i = 0x5010 then
    match j with
    | 1 => vU32 f.timeoutUs
    | 2 => vU32 f.failed.length
    | 3 => vZero 1 2
    | _ => vU64 f.failures
  else if i < 0x5200 then
    let p := getPort s (i - 0x5100)
    match j with
    | 1 => vEnum p.state
    | 2 => vU16 p.partner
    | 3 => vU8 p.partnerPort
    | 4 => vU64 p.badCrc
    | 5 => vU64 p.replayed
    | 6 => vU64 p.fecCorrected
    | 7 => vU64 p.fecUncorrectable
    | _ => vU32 p.losses
  else if i = 0x5200 then
    match j with
    | 1 => vU8 f.current
    | 2 => vU32 f.routeGen
    | 3 => vZero 7 12
    | 4 => vZero 2 4
    | _ => vU16 f.draining.length
  else if i < 0x5400 then
    let t := getTree s (i - 0x5300)
    match j with
    | 1 => vU16 t.job
    | 2 => vU16 t.parent
    | 3 => vU8 t.index
    | 4 => vU8 t.children
    | 5 => vBlob ((List.range 16).flatMap fun k => natLe 2 (nth t.devices k 0xFFFF))
    | _ => vU16 t.round
  else if 0x5500 ≤ i && i < 0x5512 then
    let p := getPort s (i - 0x5500)
    match j with
    | 1 => vEnum p.protect
    | 2 => vEnum p.keyState
    | 3 => vU64 p.rekeyAfter
    | 4 => vU64 p.tagFails
    | _ => vU32 p.exchanges
  else
    let e := getJob s (i - 0x5400)
    match j with
    | 1 => vU16 e.job
    | 2 => vU16 e.ctx
    | 3 => vU8 e.part
    | _ => vBool e.enabled

/-- Power (R386). -/
def val6 (s : State) (i j : Nat) : Val :=
  if i = 0x6000 then
    match j with
    | 1 => vU32 s.power.watts
    | 2 => vU64 (milliJoules s.power.energy)
    | _ => vU64 s.power.stepsDown
  else if i = 0x6010 then vU32 (if j = 1 then s.power.cap else 3600)
  else if i < 0x6200 then
    let r := i - 0x6100
    let x := getRail s r
    match j with
    | 1 => vStr (railName r)
    | 2 => vU32 (railSetpoint s r)
    | 3 => vU32 (railLimit s r)
    | 4 => vU32 x.estimate
    | 5 => vU32 x.peak
    | _ => vU64 x.throttles
  else if i < 0x6300 then
    let d := i - 0x6200
    let x := getDie s d
    match j with
    | 1 => vI32 (if x.avsFault && d < 4 then 0 else x.trim)
    | 2 => vBool x.ageLimit
    | 3 => vI32 (x.temp.getD (Config.firstTemp (12 + d)))
    | 4 => vU64 x.stretches
    | 5 => vU64 x.rootsAdded
    | 6 => vU8 x.droopThreshold
    | 7 => vU8 (dieCeil s d)
    | _ => vBool x.avsFault
  else if i < 0x6400 then vU64 (milliJoules (tget s.power.classes (8 * (i - 0x6300) + j) 0))
  else vU64 (milliJoules (tget s.power.coreEnergy (i - 0x6400) 0))

/-- Alarms, silt pool, counting, signature, job slots and replicas (R277, R284, R298, R299, R301, R306, R362). -/
def val7 (s : State) (i j : Nat) : Val :=
  let e := s.epochs
  if i = 0x7000 then (if j = 1 then vU64 s.obs.alarms.toNat else if j = 2 then vZero 3 8 else vU64 s.obs.firstAlarm.toNat)
  else if i = 0x7010 then
    match j with
    | 1 => vU8 e.pct
    | 2 => vU64 siltBase
    | 3 => vU32 (siltN s)
    | 4 => vU32 e.silt.length
    | 5 => vU64 e.written
    | 6 => vU64 e.fills
    | _ => vU64 e.overflows
  else if i = 0x7020 then (if j = 1 then vU8 e.threshold else if j = 2 then vU32 e.retired else vU32 e.closed)
  else if i = 0x7030 then vU64 (signature s).toNat
  else if i = 0x7040 then vBlob (unitMap s)
  else if i < 0x7400 then
    let k := i - 0x7200
    let x := getSlot s k
    match j with
    | 1 => vU16 x.job
    | 2 => vEnum x.protect
    | 3 => vEnum x.cls
    | 4 => vU16 x.devices
    | 5 => vU16 x.buddy
    | 6 => vU64 x.mirror
    | 7 => vEnum x.holdNext
    | 8 => vU64 x.committed
    | 9 => vU64 x.mirrored
    | 10 => vEnum x.state
    | 11 => vU64 x.commits
    | 12 => vU64 x.rollbacks
    | 13 => vU32 (e.silt.filter fun r => r.2.slot = k && r.2.kind = 1).length
    | _ => vBlob (natLe 12 x.cset)
  else
    let x := tget e.replicas (i - 0x7400) {}
    match j with
    | 1 => vU64 x.source
    | 2 => vU64 x.size
    | 3 => vU64 x.replica
    | 4 => vEnum x.state
    | _ => vU64 x.repaired

/-- Security and identity (R399). -/
def val8 (s : State) (i j : Nat) : Val :=
  if i = 0x8000 then (if j = 1 then vEnum s.sec.boot else if j = 2 then vEnum s.sec.rejection else vU8 s.sec.rejected)
  else if i = 0x8010 then (if j = 1 then vBlob (fuseBytes s) else vZero 0 1)
  else if i = 0x8020 then (if j = 1 then vZero 7 9 else if j = 2 then vZero 6 1 else vEnum s.sec.update)
  else if i = 0x8100 then
    (if j = 1 then vBlob Config.identityKey else if j = 2 then vBlob (sha384 (certificate s)) else vU64 s.sec.spdm)
  else
    let p := getPcie s (i - 0x8200)
    match j with
    | 1 => vEnum p.ideLink
    | 2 => vU8 (p.ideSel.filter fun x => x.2 = 1).length
    | _ => vU64 p.ideFails

/-- Trace, log and counters (R406 to R411). -/
def val9 (s : State) (i j : Nat) : Val :=
  let o := s.obs
  if i = 0x9000 then vZero 2 4
  else if i = 0x9020 then
    match j with
    | 1 => vU64 o.ring.base
    | 2 => vU32 o.ring.size
    | 3 => vEnum o.ring.mode
    | 4 => vU64 o.ring.tail
    | 5 => vU64 o.ring.head
    | _ => vU64 o.ring.lost
  else if i = 0x9030 then (if j = 1 then vEnum o.lanesOn else vU64 o.lanesSent)
  else if i = 0x9100 then
    match j with
    | 1 => vU64 o.log.base
    | 2 => vU32 o.log.size
    | 3 => vU64 o.log.tail
    | 4 => vU64 o.log.head
    | 5 => vU8 o.logW
    | 6 => vU64 o.logCounted
    | _ => vU16 o.logBuf.length
  else vU64 ((counterAt s i j).getD 0)

/-- A die's block (R14). -/
def valA (s : State) (i j : Nat) : Val :=
  let d := (i - 0xA000) / 256
  let x := getDie s d
  match j with
  | 1 => vEnum (if d = 4 then 1 else 0)
  | 2 => vU16 (Config.dieRevision d).toNat
  | 3 => vEnum x.position
  | 4 => vU8 x.straps
  | 5 => vBool x.strapWarn
  | 6 => vU16 x.portMap
  | 7 => vEnum x.startState
  | 8 => vU32 x.lockLosses
  | _ => vU64 x.timer.toNat

/-- Value of an entry that exists, as a requester reads it. -/
def entryVal (s : State) (q : Requester) (i j : Nat) : Val :=
  match i / 4096 with
  | 1 => val1 s i j
  | 2 => val2 s i j
  | 3 => val3 s q i j
  | 4 => val4 s i j
  | 5 => val5 s i j
  | 6 => val6 s i j
  | 7 => val7 s i j
  | 8 => val8 s i j
  | 9 => val9 s i j
  | _ => valA s i j

/-! ## Who may read (R345) -/

/-- The partition an entry describes, or an object it names does: none for the device as a whole, 255 for no partition. -/
def entryPart (s : State) (i j : Nat) : Option Nat :=
  if 0x3000 ≤ i && i < 0x3040 then some (i - 0x3000)
  else if i = 0x3121 && 4 ≤ j then some (match getQueue s s.disp.selected with | some q => partOfCtx s q.ctx.toNat | none => 255)
  else if 0x3300 ≤ i && i < 0x3340 then some (getVF s (i - 0x3300)).part
  else if 0x3400 ≤ i && i < 0x3440 then some (i - 0x3400)
  else if 0x4100 ≤ i && i < 0x4200 then
    let r := tget s.hbm.regions (i - 0x4100) {}
    if r.cls = 3 then some r.target else none
  else if 0x4200 ≤ i && i < 0x4240 then some (i - 0x4200)
  else if 0x4400 ≤ i && i < 0x4440 then some (if j ≤ 4 then (tget s.homes.reef (i - 0x4400) {}).part else 255)
  else if 0x4500 ≤ i && i < 0x4540 then some (i - 0x4500)
  else if 0x5400 ≤ i && i < 0x5800 && !(0x5500 ≤ i && i < 0x5512) then some (getJob s (i - 0x5400)).part
  else if 0x9000 ≤ i && i < 0xA000 then some 255
  else none

def mayRead (s : State) (k : Cls) (i j : Nat) : Bool :=
  match k with
  | .part p => (match entryPart s i j with | some e => e = p | none => true)
  | _ => true

end Sys2Proof.Machine
end

