-- ==== Sys2Proof/Machine/Dictionary.lean ====
section
/-! DEFINITION. The object dictionary at work: writes of every writable entry, messages, the BAR 0 window, and directed
control packets (R270, R271, R343 to R362). -/

namespace Sys2Proof.Machine

/-! ## Writes of entries that have no row of their own -/

/-- A write that only needs a class and a test of its value. -/
def plainCmd (index sub type : Nat) (may : Cls → Bool) (bad : Bool) (apply : State → State) : Cmd :=
  { index := index
    sub := sub
    type := type
    may := fun _ k => may k
    check := fun _ _ => if bad then 3 else 0
    apply := fun s _ => apply s }

def outside (v lo hi : Nat) : Bool := decide (v < lo) || decide (hi < v)

/-- Host-port mode (R314): refused while a virtual function is enabled; in mode 2 port 1 exposes no function. -/
def portModeCmd (v : Nat) : Cmd :=
  { index := 0x2300
    sub := 1
    type := 6
    may := fun _ k => k.local2
    check := fun s _ => if 2 < v then 3 else if s.disp.vfs.any (fun f => f.2.enabled) then 4 else 0
    apply := fun s _ =>
      let s := modDisp s fun d => { d with portMode := v }
      if v = 2 then modPcie s 1 fun x => { x with up := false } else s }

/-- A mapping that the table "Host-port modes" allows. -/
def mapAllowed (s : State) (n part : Nat) : Bool :=
  match s.disp.portMode with
  | 0 => (getPart s part).port = n || (getPart s part).port = 2
  | 1 => true
  | _ => n = 0

/-- Mapping of a virtual function (R315). -/
def vfMapCmd (v part : Nat) : Cmd :=
  { index := 0x3300 + v
    sub := 1
    type := 0
    may := fun s k => k.isBmc || k.isManager || (match k with | .host p => p = v / 32 || s.disp.portMode = 1 | _ => false)
    check := fun s _ =>
      if part ≠ 0xFF && (63 < part || !mapAllowed s (v / 32) part) then 3 else if (getVF s v).busMaster then 4 else 0
    apply := fun s _ => modVF s v fun f => { f with part := part } }

def reefWith (r : Reef) (sub v : Nat) : Reef :=
  match sub with
  | 1 => { r with base := v }
  | 2 => { r with size := v }
  | 3 => { r with cls := v }
  | 4 => { r with quota := v }
  | _ => { r with part := v }

def reefBad (s : State) (w sub v : Nat) : Bool :=
  let old := tget s.homes.reef w {}
  let new := reefWith old sub v
  match sub with
  | 1 => v % 65536 ≠ 0 || decide (2 ^ 48 ≤ v) || decide (2 ^ 48 < new.base + new.size)
  | 2 => v % 65536 ≠ 0 || decide (2 ^ 48 < new.base + new.size)
  | 3 => decide (2 < v)
  | 4 => outside v 1 12
  | _ => v ≠ 0xFF && (decide (63 < v) || decide (16 < 1 + (s.homes.reef.filter fun r => r.1 ≠ w && r.2.part = v).length))

/-- A Reef window (R171): a partition writes sub-indices 01 to 04 of its own windows. -/
def reefCmd (w sub v : Nat) : Cmd :=
  { index := 0x4400 + w
    sub := sub
    type := match sub with
      | 1 => 3
      | 2 => 3
      | 3 => 6
      | _ => 0
    may := fun s k => k.trio || (match k with | .part p => sub ≤ 4 && (tget s.homes.reef w {}).part = p | _ => false)
    check := fun s _ => if reefBad s w sub v then 3 else 0
    apply := fun s _ => modHomes s fun h => { h with reef := tmod h.reef w {} fun r => reefWith r sub v } }

/-- The fabric role (R258, R271, R364): only with no job bound. -/
def roleCmd (v : Nat) : Cmd :=
  { index := 0x5000
    sub := 1
    type := 6
    may := fun _ k => k.trio
    check := fun s _ => if 2 < v then 3 else if deviceQuiet s then 0 else 4
    apply := fun s _ => modFabric s fun f => { f with role := v } }

def treeWith (t : Tree) (sub v : Nat) (bs : List Byte) : Tree :=
  match sub with
  | 1 => { t with job := v }
  | 2 => { t with parent := v }
  | 3 => { t with index := v }
  | 4 => { t with children := v }
  | _ => { t with devices := (List.range 16).map fun k => leNat ((bs.drop (2 * k)).take 2) }

/-- A collective tree (R268): refused while a collective runs on it. -/
def treeCmd (t sub v : Nat) (bs : List Byte) : Cmd :=
  { index := 0x5300 + t
    sub := sub
    type := match sub with
      | 1 => 1
      | 2 => 1
      | 5 => 7
      | _ => 0
    may := fun _ k => k.fabric2
    check := fun s _ =>
      if (sub = 3 || sub = 4) && 16 < v then 3 else if s.fabric.running.any (fun c => c.tree = t) then 4 else 0
    apply := fun s _ => modTree s t fun x => treeWith x sub v bs }

def jobWith (e : JobEntry) (sub v : Nat) : JobEntry :=
  match sub with
  | 1 => { e with job := v }
  | 2 => { e with ctx := v }
  | 3 => { e with part := v }
  | _ => { e with enabled := v = 1 }

def jobBad (s : State) (j sub v : Nat) : Bool :=
  let new := jobWith (getJob s j) sub v
  (sub = 2 && decide (4096 ≤ v)) || (sub = 3 && decide (63 < v)) || (sub = 4 && decide (1 < v)) ||
  (new.enabled && new.job ≠ 0 && s.fabric.jobs.any fun e => e.1 ≠ j && e.2.enabled && e.2.job = new.job)

/-- A job-table entry (R263). -/
def jobCmd (j sub v : Nat) : Cmd :=
  { index := 0x5400 + j
    sub := sub
    type := match sub with
      | 1 => 1
      | 2 => 1
      | 3 => 0
      | _ => 5
    may := fun _ k => k.fabric2
    check := fun s _ => if jobBad s j sub v then 3 else 0
    apply := fun s _ => modJob s j fun e => jobWith e sub v }

/-- Link protection of a port (R273): its mode changes only while the port is not up and sends nothing. -/
def protectCmd (n sub v : Nat) : Cmd :=
  { index := 0x5500 + n
    sub := sub
    type := if sub = 1 then 6 else 3
    may := fun _ k => k.local2
    check := fun s _ =>
      if sub = 1 then
        (if 1 < v then 3 else if (getPort s n).state = 5 || !(getPort s n).queue.isEmpty then 4 else 0)
      else if outside v (2 ^ 20) (2 ^ 36) then 3
      else 0
    apply := fun s _ => modPort s n fun p => if sub = 1 then { p with protect := v } else { p with rekeyAfter := v } }

/-- Clearing alarms (R354, R362). -/
def alarmCmd (mask : Nat) : Cmd :=
  plainCmd 0x7000 2 3 Cls.trio (decide (2 ^ 19 ≤ mask)) fun s =>
    modObs s fun o => { o with alarms := o.alarms &&& ~~~(BitVec.ofNat 64 mask) }

/-- ALARM_CLEAR (R362). -/
def execAlarmClear (q : Requester) (mask : W64) (s : State) : Result := .next (command q (alarmCmd mask.toNat) s)

def slotWith (x : JobSlot) (sub v : Nat) : JobSlot :=
  match sub with
  | 1 => { x with job := v }
  | 2 => { x with protect := v }
  | 3 => { x with cls := v }
  | 4 => { x with devices := v }
  | 5 => { x with buddy := v }
  | 6 => { x with mirror := v }
  | 7 => { x with holdNext := v }
  | _ => { x with cset := v }

/-- A job slot (R277): its RWQ entries change only while no context is bound to it. -/
def slotCmd (j sub v : Nat) : Cmd :=
  { index := 0x7200 + j
    sub := sub
    type := match sub with
      | 1 => 1
      | 2 => 6
      | 3 => 6
      | 4 => 1
      | 5 => 1
      | 6 => 3
      | 7 => 6
      | _ => 7
    may := fun _ k => k.trio
    check := fun s _ =>
      let bad : Bool := match sub with
        | 2 => decide (2 < v)
        | 3 => decide (2 < v)
        | 4 => v = 0
        | 6 => v % 65536 ≠ 0 || decide (2 ^ 48 ≤ v)
        | 7 => decide (1 < v)
        | _ => false
      if bad then 3 else if sub ≠ 7 && !(ctxsOfSlot s j).isEmpty then 4 else 0
    apply := fun s _ => modSlot s j fun x => slotWith x sub v }

/-- Words of a command's value. -/
def wordsIn (n : Nat) (bs : List Byte) : List W64 := (wordsOf n bs).map fun v => BitVec.ofNat 64 v

/-- A partition command by its OP; OP 0 and OPs above 4 are reserved. -/
def anyPartCmd (q : Requester) (ws : List W64) : Cmd :=
  let c := partCmd ws (match opOf ws with
    | 1 => partApply q ws
    | 2 => drainApply q ws
    | 3 => fun s => squashPart (setResult s 0 q 1 (partNum ws)) (partNum ws)
    | _ => partDestroy q ws)
  { c with check := fun s k => if outside (opOf ws) 1 4 then 3 else c.check s k }

/-- A context command by its OP. -/
def anyCtxCmd (q : Requester) (ws : List W64) : Cmd :=
  let c := ctxCmd ws (match opOf ws with
    | 1 => ctxCreate q ws
    | 2 => fun s => setResult (ctxSquash s (ctxNum ws)) 1 q 0 (ctxNum ws)
    | 3 => fun s => setResult (destroyCtx s (ctxNum ws)) 1 q 0 (ctxNum ws)
    | _ => ctxPreempt q (ctxNum ws))
  { c with check := fun s k => if outside (opOf ws) 1 4 then 3 else c.check s k }

/-- A queue command by its OP. -/
def anyQueueCmd (q : Requester) (ws : List W64) : Cmd :=
  let c := queueCmd ws (match opOf ws with
    | 1 => queueCreate q ws
    | _ => fun s => setResult (queueDelete s (queueHandle ws)) 2 q 0 (queueHandle ws))
  { c with check := fun s k => if outside (opOf ws) 1 2 then 3 else c.check s k }

/-- A route-table load from its bytes. -/
def loadOf (bs : List Byte) : Cmd :=
  let w := leNat (bs.take 8)
  let n := (bs.length - 8) / 4
  routeLoadCmd (bits w 15 0) (bits w 24 16) (bits w 63 25 ≠ 0)
    ((List.range n).map fun i => BitVec.ofNat 32 (leNat ((bs.drop (8 + 4 * i)).take 4)))

/-- What an action at 0x8020:02 leaves: the outcome of a check depends on the inactive slot's contents, which the request
does not carry, so it is free. -/
def updateEnds (value : Nat) (s : State) : Nat := if value = 1 then (if Config.freeBool s.freeCtr then 3 else 4) else 5

/-- The write of an entry with a value's bytes; none for an entry that no class may write. -/
def entryCmd (s : State) (q : Requester) (i j : Nat) (bs : List Byte) : Option Cmd :=
  let v := leNat bs
  match i with
  | 0x2100 => some (modeCmd v)
  | 0x2200 => some (plainCmd i j 6 Cls.trio (decide (2 < v)) fun s => modObs s fun o => { o with level := v })
  | 0x2300 => some (portModeCmd v)
  | 0x2310 =>
    if j = 1 then some (plainCmd i j 2 Cls.local2 (outside v 10 1000000) fun s => modDisp s fun d => { d with waitUs := v }) else none
  | 0x2500 =>
    if j = 1 then some (plainCmd i j 6 Cls.trio (decide (3 < v)) fun s => { s with defRm := v })
    else some (plainCmd i j 6 Cls.trio (decide (1 < v)) fun s => { s with defOvf := v })
  | 0x3100 => some (anyPartCmd q (wordsIn 13 bs))
  | 0x3110 => some (anyCtxCmd q (wordsIn 9 bs))
  | 0x3120 => some (anyQueueCmd q (wordsIn 8 bs))
  | 0x3121 => if j = 3 then some (selectCmd v) else none
  | 0x4010 => some (frameCmd (leNat (bs.take 8)) (leNat ((bs.drop 8).take 8)) (leNat ((bs.drop 16).take 8)))
  | 0x5000 =>
    match j with
    | 1 => some (roleCmd v)
    | 2 => some (deviceCmd v)
    | 5 => some (plainCmd i j 1 Cls.trio false fun s => modFabric s fun f => { f with standby := v })
    | 6 => some (plainCmd i j 2 Cls.trio (outside v 100 100000) fun s => modFabric s fun f => { f with heartbeatUs := v })
    | 7 => some (plainCmd i j 0 Cls.trio (outside v 2 100) fun s => modFabric s fun f => { f with missed := v })
    | 8 => some (plainCmd i j 0 Cls.trio (outside v 1 31) fun s => modFabric s fun f => { f with hops := v })
    | _ => none
  | 0x5010 =>
    if j = 1 then some (plainCmd i j 2 Cls.local2 (outside v 5 200) fun s => modFabric s fun f => { f with timeoutUs := v })
    else if j = 3 then some (pathCmd v)
    else none
  | 0x5200 => if j = 3 then some (loadOf bs) else if j = 4 then some (routeSwitchCmd v) else none
  | 0x6010 =>
    if j = 1 then some (plainCmd i j 2 Cls.trio (outside v 1200 3600) fun s => modPower s fun p => { p with cap := v }) else none
  | 0x7000 => if j = 2 then some (alarmCmd v) else none
  | 0x7010 => if j = 1 then some (poolCmd v) else none
  | 0x7020 =>
    if j = 1 then some (plainCmd i j 0 Cls.local2 (outside v 2 15) fun s => modEpochs s fun e => { e with threshold := v }) else none
  | 0x8010 => if j = 2 then some (raiseCmd v) else if j = 3 then some (revokeCmd v) else none
  | 0x8020 =>
    if j = 1 then some (chunkCmd q (leNat (bs.take 8)) (bs.drop 8))
    else if j = 2 then
      let c := updateCmd q v (updateEnds v)
      some { c with apply := fun s k => (draw (c.apply s k)).1 }
    else none
  | 0x9000 => some (markerCmd v)
  | 0x9020 =>
    match j with
    | 1 => some (traceRingCmd 1 v)
    | 2 => some (traceRingCmd 2 v)
    | 3 => some (plainCmd i j 6 Cls.trio (decide (1 < v)) fun s => modObs s fun o => { o with ring := { o.ring with mode := v } })
    | 5 => some (plainCmd i j 3 Cls.trio (decide (s.obs.ring.tail < v)) fun s =>
        modObs s fun o => { o with ring := { o.ring with head := v } })
    | _ => none
  | 0x9030 =>
    if j = 1 then some (plainCmd i j 6 Cls.trio (decide (1 < v)) fun s => modObs s fun o => { o with lanesOn := v }) else none
  | 0x9100 =>
    match j with
    | 1 => some (logRingCmd 1 v)
    | 2 => some (logRingCmd 2 v)
    | 4 => some (plainCmd i j 3 Cls.trio (decide (s.obs.log.tail < v)) fun s =>
        logFlush (modObs s fun o => { o with log := { o.log with head := v } }))
    | 5 => some (plainCmd i j 0 Cls.trio (outside v 20 34) fun s => modObs s fun o => { o with logW := v })
    | _ => none
  | _ =>
    if 0x3300 ≤ i && i < 0x3340 then (if j = 1 then some (vfMapCmd (i - 0x3300) v) else none)
    else if 0x3400 ≤ i && i < 0x3440 then
      (if j = 1 then some (trackCmd (i - 0x3400) v)
       else if j = 3 then some (harvestCmd (i - 0x3400) (leNat (bs.take 8)) (leNat ((bs.drop 8).take 8)))
       else none)
    else if 0x4100 ≤ i && i < 0x4200 then (if j ≤ 5 then some (regionCmd (i - 0x4100) j v) else none)
    else if 0x4400 ≤ i && i < 0x4440 then (if j ≤ 5 then some (reefCmd (i - 0x4400) j v) else none)
    else if 0x4500 ≤ i && i < 0x4540 then (if j ≤ 3 then some (ringCmd (i - 0x4500) j v) else none)
    else if 0x5300 ≤ i && i < 0x5400 then (if j ≤ 5 then some (treeCmd (i - 0x5300) j v bs) else none)
    else if 0x5500 ≤ i && i < 0x5512 then (if j = 1 || j = 3 then some (protectCmd (i - 0x5500) j v) else none)
    else if 0x5400 ≤ i && i < 0x5800 then some (jobCmd (i - 0x5400) j v)
    else if 0x6200 ≤ i && i < 0x6205 then
      (if j = 6 then some (plainCmd i j 0 Cls.trio (outside v 30 100) fun s => modDie s (i - 0x6200) fun x => { x with droopThreshold := v })
       else none)
    else if 0x7200 ≤ i && i < 0x7300 then (if j ≤ 7 || j = 14 then some (slotCmd (i - 0x7200) j v) else none)
    else if 0x7400 ≤ i && i < 0x7420 then (if j ≤ 3 then some (replicaCmd (i - 0x7400) j v) else none)
    else none

/-- A write's length fits its entry: fixed, but for a route-table load and an update chunk. -/
def lengthFits (q : Requester) (i j fixed len : Nat) : Bool :=
  let long : Bool := match q with | .fabric _ _ _ => decide (248 < len) | _ => false
  !long && (if i = 0x5200 && j = 3 then decide (12 ≤ len) && decide (len ≤ 1032) && len % 4 = 0
    else if i = 0x8020 && j = 1 then decide (9 ≤ len) && decide (len ≤ 1032)
    else len = fixed)

/-- What a refused write leaves at the result entry of its kind (R193, R301, R313). -/
def refusedEffect (s : State) (q : Requester) (i j status : Nat) (bs : List Byte) : State :=
  if i = 0x3100 then setResult s 0 q (resultOf status) 0
  else if i = 0x3110 then setResult s 1 q (resultOf status) 0
  else if i = 0x3120 then setResult s 2 q (resultOf status) 0
  else if i = 0x4010 then frameResult s status
  else if 0x7400 ≤ i && i < 0x7420 && status = 3 && !replicaForm j (leNat bs) then
    modEpochs s fun e => { e with replicas := tmod e.replicas (i - 0x7400) {} fun x => { x with state := if x.state = 1 then 1 else 2 } }
  else s

/-! ## Serving requests (R347, R348) -/

/-- An answer: the entry concerned, status, type and value. -/
structure Resp where
  index : Nat
  sub : Nat
  status : Nat
  type : Nat
  value : List Byte

/-- Checks of a write in their order, and its effect. `bad` says that the value breaks its type elsewhere than in its bytes. -/
def serveWrite (s : State) (q : Requester) (cls : Option Cls) (i j : Nat) (bs : List Byte) (bad : Bool) : State × Resp :=
  let life := lifeStatus s true i j
  if life ≠ 0 then (s, ⟨i, j, life, 0, []⟩)
  else if !entryThere i j then (s, ⟨i, j, 1, 0, []⟩)
  else
    let (type, now) := entryVal s q i j
    let refused (status : Nat) : State × Resp := (refusedEffect s q i j status bs, ⟨i, j, status, type, []⟩)
    match cls, entryCmd s q i j bs with
    | none, _ => refused 2
    | _, none => refused 2
    | some k, some c =>
      if !c.may s k then refused 2
      else if !lengthFits q i j now.length bs.length then refused 5
      else if bad then refused 3
      else
        let e := c.check s k
        if e ≠ 0 then refused e else (c.apply s k, ⟨i, j, 0, type, []⟩)

/-- A counter that a Loam die holds (R411). -/
def onLoam (i : Nat) : Bool := decide (counterDie i < 4)

/-- Checks of a read in their order. -/
def serveRead (s : State) (q : Requester) (cls : Option Cls) (i j : Nat) : Resp :=
  let life := lifeStatus s false i j
  if life ≠ 0 then ⟨i, j, life, 0, []⟩
  else if !entryThere i j then ⟨i, j, 1, 0, []⟩
  else
    let v := entryVal s q i j
    match cls with
    | none => ⟨i, j, 2, v.1, []⟩
    | some k => if mayRead s k i j then ⟨i, j, 0, v.1, v.2⟩ else ⟨i, j, 2, v.1, []⟩

/-- The first entry after a place that a class may read, of those the ROM service serves where it runs (R348). -/
def nextEntry (s : State) (k : Cls) (i j : Nat) : Option (Nat × Nat) :=
  allEntries.find? fun e => (decide (i < e.1) || (i = e.1 && decide (j < e.2))) && mayRead s k e.1 e.2 && (!romService s || romEntry e.1)

def serveNext (s : State) (q : Requester) (cls : Option Cls) (i j : Nat) : Resp :=
  match s.life, cls with
  | .starting, _ => ⟨i, j, 6, 0, []⟩
  | _, none => ⟨i, j, 2, 0, []⟩
  | _, some k =>
    match nextEntry s k i j with
    | none => ⟨0xFFFF, 0xFF, 1, 0, []⟩
    | some e => let v := entryVal s q e.1 e.2; ⟨e.1, e.2, 0, v.1, v.2⟩

/-! ## Messages (R346) -/

def isFabric : Requester → Bool
  | .fabric _ _ _ => true
  | _ => false

/-- A malformed body, or a reserved OP. A longer write than Shroud carries has its own answer (R349). -/
def malformed (q : Requester) (b : DictBody) : Bool :=
  let n := b.len.toNat
  let long := isFabric q && b.op = 2 && decide (248 < n)
  b.res ≠ 0 || !(b.op = 1 || b.op = 2 || b.op = 3) || (b.op ≠ 2 && n ≠ 0) ||
  (!long && decide (b.rest.length < 8 * ceilDiv n 8)) || (b.rest.drop n).any fun x => x ≠ 0

/-- Serve a body: the state after it, and the answer. -/
def serveBody (s : State) (q : Requester) (b : DictBody) : State × Resp :=
  let i := b.index.toNat
  let j := b.sub.toNat
  if malformed q b then (s, ⟨i, j, 3, 0, []⟩)
  else
    let (s, cls) := classify s q
    if b.op = 1 then (s, serveRead s q cls i j)
    else if b.op = 2 then serveWrite s q cls i j ((b.rest ++ List.replicate b.len.toNat 0).take b.len.toNat) false
    else (s, serveNext s q cls i j)

/-- Ask a Loam die for a counter; its answer completes the read (R239, R411). -/
def askCounter (s : State) (r : CtrRead) : State :=
  let tag := s.obs.nextRead
  emit (modObs s fun o => { o with reads := o.reads ++ [{ r with tag := tag }], nextRead := (tag + 1) % 2 ^ 64 })
    (.counterRead (counterDie r.index) r.index r.sub tag)

/-- A request by message: answered, or, for a counter of a Loam die, asked of the die. -/
def dictMessage (q : Requester) (b : DictBody) (s : State) : Result :=
  .next <|
    if !halyard s || !reaches s q || (windowPort q).isSome then s
    else
      let (s, r) := serveBody s q b
      if b.op ≠ 2 && r.status = 0 && onLoam r.index then
        askCounter s { tag := 0, q := q, op := b.op.toNat, dtag := b.tag.toNat, index := r.index, sub := r.sub }
      else respondTo s q b.op.toNat b.tag.toNat r.index r.sub r.status r.type r.value

/-- DICTIONARY_READ, and a body of a reserved OP. -/
def execDictionaryRead (q : Requester) (b : DictBody) (s : State) : Result :=
  if b.op = 2 || b.op = 3 then .next s else dictMessage q b s
/-- DICTIONARY_WRITE. -/
def execDictionaryWrite (q : Requester) (b : DictBody) (s : State) : Result :=
  if b.op = 2 then dictMessage q b s else .next s
/-- NEXT (R348). -/
def execNext (q : Requester) (b : DictBody) (s : State) : Result :=
  if b.op = 3 then dictMessage q b s else .next s

/-! ## The BAR 0 window (R355 to R357) -/

/-- A scalar's 64 bits: zero-extended, or sign-extended for I32. -/
def slotValue (v : Val) : Nat := if v.1 = 4 then (BitVec.ofInt 64 (sext 32 (leNat v.2))).toNat else leNat v.2

/-- WINDOW_READ (R355). -/
def execWindowRead (port : Fin 2) (offset : BitVec 27) (size : Byte) (s : State) : Result :=
  .next <|
    let q : Requester := .window port
    let o := offset.toNat
    let n := size.toNat
    let i := o / 2048
    let j := o % 2048 / 8
    let half := o % 8 / 4
    let aligned := (n = 8 && o % 8 = 0) || (n = 4 && o % 4 = 0)
    if !halyard s || !reaches s q then s
    else if i = 0 then
      let v := if j = 0 then (getPcie s port).winStatus else if j = 1 then (getPcie s port).winErrors else 0
      emit s (.window port (if aligned then halfOf v half n else 0))
    else if !aligned then emit (windowStatus s port 3) (.window port 0)
    else
      let (s, cls) := classify s q
      let r := serveRead s q cls i j
      if r.status ≠ 0 then emit (windowStatus s port r.status) (.window port 0)
      else if 7 ≤ r.type then emit (windowStatus s port 3) (.window port 0)
      else if onLoam i then askCounter s { tag := 0, q := q, op := 1, dtag := 0, index := i, sub := j, half := half, size := n }
      else emit (windowStatus s port 0) (.window port (halfOf (slotValue (r.type, r.value)) half n))

/-- Bytes above a scalar's own are zero, or sign bytes for I32 (R356). -/
def highBad (type len v : Nat) : Bool :=
  if type = 4 then v ≠ (BitVec.ofInt 64 (sext 32 (v % 2 ^ 32))).toNat else v / 256 ^ len ≠ 0

/-- WINDOW_WRITE (R356). -/
def execWindowWrite (port : Fin 2) (offset : BitVec 27) (size : Byte) (value : W64) (s : State) : Result :=
  .next <|
    let q : Requester := .window port
    let o := offset.toNat
    let i := o / 2048
    let j := o % 2048 / 8
    if !halyard s || !reaches s q then s
    else if size ≠ 8 || o % 8 ≠ 0 || i = 0 then windowStatus s port 3
    else
      let v := if entryThere i j then entryVal s q i j else vU64 0
      if 7 ≤ v.1 then windowStatus s port 3
      else
        let (s, cls) := classify s q
        let (s, r) := serveWrite s q cls i j (natLe v.2.length value.toNat) (highBad v.1 v.2.length value.toNat)
        windowStatus s port r.status

/-! ## Directed control packets (R270, R271) -/

/-- A dictionary body from a packet's data. -/
def bodyOf (d : List Byte) : DictBody :=
  let w := leNat (d.take 8)
  { op := BitVec.ofNat 8 (bits w 63 56)
    tag := BitVec.ofNat 8 (bits w 55 48)
    index := BitVec.ofNat 16 (bits w 47 32)
    sub := BitVec.ofNat 8 (bits w 31 24)
    len := BitVec.ofNat 12 (bits w 23 12)
    res := BitVec.ofNat 12 (bits w 11 0)
    rest := d.drop 8 }

/-- A response body: its header and its value, padded to whole slots (table "Dictionary response header"). -/
def respBytes (op tag : Nat) (r : Resp) : List Byte :=
  let h := natLe 8 (flds [(56, op + 128), (48, tag), (32, r.index), (24, r.sub), (12, r.value.length), (8, r.status), (4, r.type)])
  let d := h ++ r.value
  d ++ List.replicate ((16 - d.length % 16) % 16) 0

/-- Word 3 of a directed packet with HOP and one port field replaced. -/
def setHop (w hop : Nat) : Nat := w - bits w 59 56 * 2 ^ 56 + hop * 2 ^ 56
def hopPort (w i : Nat) : Nat := bits w (5 * i + 4) (5 * i)
def setHopPort (w i a : Nat) : Nat := w - hopPort w i * 2 ^ (5 * i) + a * 2 ^ (5 * i)

/-- Send a directed packet on a port, where the device has it. -/
def sendDirected (s : State) (port op : Nat) (p : SPkt) (w : Nat) (data : List Byte) : State :=
  if port < 18 then sendOn s port 0 op { p with opx := BitVec.ofNat 64 w } data else s

/-- The header of a directed answer. -/
def directedHdr (s : State) (p : SPkt) : SPkt :=
  { p with dst := p.src, src := BitVec.ofNat 16 s.fabric.device, addr := BitVec.ofNat 48 s.fabric.gen }

/-- Handle a directed packet that has reached its end: the state, and an answer's body. -/
def handleDirected (s : State) (op : Nat) (p : SPkt) (data : List Byte) : State × Option (List Byte) :=
  let gen := p.addr.toNat % 2 ^ 32
  let s := noteGen s gen
  match op with
  | 0x38 | 0x39 =>
    let b := bodyOf data
    let (s, r) := serveBody s (.fabric p.src (BitVec.ofNat 32 gen) true) b
    (countAnswer s r.status, some (respBytes b.op.toNat b.tag.toNat r))
  | 0x3B =>
    (if s.fabric.role = 2 && p.src.toNat = s.fabric.manager then modFabric s fun f => { f with lastBeat := sparTimer s } else s, none)
  | 0x3C =>
    let (s, good) := claim s p.src.toNat gen
    let (s, i) := draw s
    let (s, j) := draw s
    (s, some (respBytes (Config.freeNat i % 128) (Config.freeNat j % 256)
      ⟨0x5000, 3, if good then 0 else 2, 1, natLe 2 s.fabric.manager⟩))
  | 0x3F =>
    let d := leNat (data.take 8)
    (if s.fabric.role = 1 then emit s (.portevIn p.src.toNat (bits d 7 0) (bits d 15 8) (bits d 31 16)) else s, none)
  | _ => (s, none)

/-- DIRECTED_PACKET (R270): forwarded by its port fields, or handled and answered along them; an answer goes back the same
way, and is delivered where HOP comes to 0. -/
def execDirectedPacket (port : Fin 18) (op : BitVec 6) (reply : Bool) (p : SPkt) (data : List Byte) (s : State) : Result :=
  .next <|
    let w := p.opx.toNat
    let ndir := bits w 63 60
    let hop := bits w 59 56
    if !halyard s || (getPort s port).state ≠ 5 || ndir = 0 then s
    else if bit w 55 || 11 < ndir || pktClass op.toNat ≠ 3 then losePort s port
    else if reply then
      if hop = 0 || ndir < hop then s
      else
        let w := setHop w (hop - 1)
        if hop - 1 = 0 then emit s (.packet 32 op.toNat { p with opx := BitVec.ofNat 64 w } data)
        else sendDirected s (hopPort w (hop - 2)) op.toNat p w data
    else if ndir ≤ hop then s
    else
      let w := setHop (setHopPort w hop port) (hop + 1)
      if hop + 1 < ndir then sendDirected s (hopPort w (hop + 1)) op.toNat p w data
      else
        match handleDirected s op.toNat p data with
        | (s, some bs) => sendDirected s (hopPort w hop) 0x3A (directedHdr s p) w bs
        | (s, none) => s

end Sys2Proof.Machine
end

