-- ==== Sys2Proof/Machine/Float.lean ====
section
/-! DEFINITION. The FP32 instructions of the vector pipes (R114, R115): results in bits [31:0] with [63:32]
zero, flags sticky in FCSR. -/

namespace Sys2Proof.Machine

/-- Bits [31:0] of a register. -/
def lo32 (v : W64) : W32 := v.setWidth 32

/-- A lane's rounding mode (table FCSR). -/
def rmOf (t : Threads) (l : Nat) : Nat := (rdF t l).toNat % 4

/-- Write a value and raise flags in a lane. -/
def wrFp (t : Threads) (l gd : Nat) (r : W64 × Nat) : Threads :=
  let t := wrG t l gd r.1
  wrF t l (rdF t l ||| BitVec.ofNat 7 r.2)

/-- An FP32 instruction of two sources. -/
def issueF (i : Instr) (x : Issuer) (f : RF) (op : Nat → W32 → W32 → W32 → W32 × Nat) (s : State) : Result :=
  issueRegs i x 4 f.guard
    (fun t l =>
      let r := op (rmOf t l) (lo32 (rdG t l f.ga.toNat)) (lo32 (rdG t l f.gb.toNat)) (lo32 (rdG t l f.gd.toNat))
      wrFp t l f.gd.toNat (r.1.setWidth 64, r.2)) s

def execFadd (x : Issuer) (f : RF) (s : State) : Result := issueF (.fadd x f) x f (fun rm a b _ => fpAdd rm a b) s
def execFsub (x : Issuer) (f : RF) (s : State) : Result := issueF (.fsub x f) x f (fun rm a b _ => fpSub rm a b) s
def execFmul (x : Issuer) (f : RF) (s : State) : Result := issueF (.fmul x f) x f (fun rm a b _ => fpMul rm a b) s
/-- FMA: ga × gb + gd with one rounding. -/
def execFma (x : Issuer) (f : RF) (s : State) : Result := issueF (.fma x f) x f (fun rm a b c => fpMa rm a b c) s
def execFdiv (x : Issuer) (f : RF) (s : State) : Result := issueF (.fdiv x f) x f (fun rm a b _ => fpDiv rm a b) s
def execFsqrt (x : Issuer) (f : RF) (s : State) : Result := issueF (.fsqrt x f) x f (fun rm a _ _ => fpSqrt rm a) s
def execFmin (x : Issuer) (f : RF) (s : State) : Result := issueF (.fmin x f) x f (fun _ a b _ => fpMinMax false a b) s
def execFmax (x : Issuer) (f : RF) (s : State) : Result := issueF (.fmax x f) x f (fun _ a b _ => fpMinMax true a b) s

/-- FCVT.I: FP32 to a saturated signed 32-bit integer, sign-extended (R115). -/
def execFcvtI (x : Issuer) (f : RF) (s : State) : Result :=
  issueRegs (.fcvtI x f) x 4 f.guard
    (fun t l => wrFp t l f.gd.toNat (fpToInt (rmOf t l) (lo32 (rdG t l f.ga.toNat)))) s

/-- FCVT.F: a signed 64-bit integer to FP32 (R115). -/
def execFcvtF (x : Issuer) (f : RF) (s : State) : Result :=
  issueRegs (.fcvtF x f) x 4 f.guard
    (fun t l =>
      let r := fpOfInt (rmOf t l) (rdG t l f.ga.toNat)
      wrFp t l f.gd.toNat (r.1.setWidth 64, r.2)) s

/-- FCMP (R115). -/
def execFcmp (x : Issuer) (f : PF) (s : State) : Result :=
  issueRegs (.fcmp x f) x 4 f.guard
    (fun t l =>
      let r := fpCmp f.cond.toNat (lo32 (rdG t l f.ga.toNat)) (lo32 (rdG t l f.gb.toNat))
      let t := wrP t l f.pd.toNat r.1
      wrF t l (rdF t l ||| BitVec.ofNat 7 r.2)) s

end Sys2Proof.Machine
end

