-- ==== Sys2Proof/Machine/Integer.lean ====
section
/-! DEFINITION. Integer, immediate, shift, long-form, compare and predicate instructions, and branches
(tables "ZIS mnemonics" and "Major opcode map", R33, R36, R47, R48). -/

namespace Sys2Proof.Machine

/-! ## Operations on values -/

def shiftL (a b : W64) : W64 := a <<< (b.toNat % 64)
def shiftRL (a b : W64) : W64 := a >>> (b.toNat % 64)
def shiftRA (a b : W64) : W64 := a.sshiftRight (b.toNat % 64)
def mulHigh (a b : W64) : W64 := BitVec.ofInt 64 (a.toInt * b.toInt / 2 ^ 64)
def mulHighU (a b : W64) : W64 := BitVec.ofNat 64 (a.toNat * b.toNat / 2 ^ 64)
/-- R36: division by zero gives all ones, and the most negative value by −1 itself. -/
def divS (a b : W64) : W64 := if b = 0 then BitVec.allOnes 64 else a.sdiv b
def divU (a b : W64) : W64 := if b = 0 then BitVec.allOnes 64 else a / b
/-- R36: the remainder by zero is the dividend. -/
def remS (a b : W64) : W64 := if b = 0 then a else a.srem b
def remU (a b : W64) : W64 := if b = 0 then a else a % b
def minS (a b : W64) : W64 := if a.toInt ≤ b.toInt then a else b
def maxS (a b : W64) : W64 := if a.toInt ≤ b.toInt then b else a
def minU (a b : W64) : W64 := if a.toNat ≤ b.toNat then a else b
def maxU (a b : W64) : W64 := if a.toNat ≤ b.toNat then b else a
def clz64 (a : W64) : W64 := if a = 0 then 64 else BitVec.ofNat 64 (63 - Nat.log2 a.toNat)
def popc64 (a : W64) : W64 := BitVec.ofNat 64 (popN 64 a.toNat)

/-- CMP conditions (table "ZIS mnemonics"). -/
def cmpCond (cond : BitVec 3) (a b : W64) : Bool :=
  match cond.toNat with
  | 0 => a == b
  | 1 => a != b
  | 2 => decide (a.toInt < b.toInt)
  | 3 => decide (b.toInt ≤ a.toInt)
  | 4 => decide (a.toNat < b.toNat)
  | _ => decide (b.toNat ≤ a.toNat)

/-- PLOG operations. -/
def plogOp (op : BitVec 3) (a b : Bool) : Bool :=
  match op.toNat with
  | 0 => a && b
  | 1 => a || b
  | 2 => a != b
  | _ => a && !b

/-- A sign-extended immediate. -/
def simm (f : IF) : W64 := f.imm.signExtend 64
def zimm (f : IF) : W64 := f.imm.setWidth 64

/-! ## Format R -/

def execAdd (x : Issuer) (f : RF) (s : State) : Result := issueR (.add x f) x f (fun a b => a + b) s
def execSub (x : Issuer) (f : RF) (s : State) : Result := issueR (.sub x f) x f (fun a b => a - b) s
def execAnd (x : Issuer) (f : RF) (s : State) : Result := issueR (.and x f) x f (fun a b => a &&& b) s
def execOr (x : Issuer) (f : RF) (s : State) : Result := issueR (.or x f) x f (fun a b => a ||| b) s
def execXor (x : Issuer) (f : RF) (s : State) : Result := issueR (.xor x f) x f (fun a b => a ^^^ b) s
def execSll (x : Issuer) (f : RF) (s : State) : Result := issueR (.sll x f) x f shiftL s
def execSrl (x : Issuer) (f : RF) (s : State) : Result := issueR (.srl x f) x f shiftRL s
def execSra (x : Issuer) (f : RF) (s : State) : Result := issueR (.sra x f) x f shiftRA s
def execMul (x : Issuer) (f : RF) (s : State) : Result := issueR (.mul x f) x f (fun a b => a * b) s
def execMulh (x : Issuer) (f : RF) (s : State) : Result := issueR (.mulh x f) x f mulHigh s
def execMulhu (x : Issuer) (f : RF) (s : State) : Result := issueR (.mulhu x f) x f mulHighU s
def execDiv (x : Issuer) (f : RF) (s : State) : Result := issueR (.div x f) x f divS s
def execDivu (x : Issuer) (f : RF) (s : State) : Result := issueR (.divu x f) x f divU s
def execRem (x : Issuer) (f : RF) (s : State) : Result := issueR (.rem x f) x f remS s
def execRemu (x : Issuer) (f : RF) (s : State) : Result := issueR (.remu x f) x f remU s
def execMin (x : Issuer) (f : RF) (s : State) : Result := issueR (.min x f) x f minS s
def execMax (x : Issuer) (f : RF) (s : State) : Result := issueR (.max x f) x f maxS s
def execMinu (x : Issuer) (f : RF) (s : State) : Result := issueR (.minu x f) x f minU s
def execMaxu (x : Issuer) (f : RF) (s : State) : Result := issueR (.maxu x f) x f maxU s
def execClz (x : Issuer) (f : RF) (s : State) : Result := issueR (.clz x f) x f (fun a _ => clz64 a) s
def execPopc (x : Issuer) (f : RF) (s : State) : Result := issueR (.popc x f) x f (fun a _ => popc64 a) s

/-! ## Immediates and shifts -/

/-- An instruction of one source register and a value. -/
def issueI (i : Instr) (x : Issuer) (guard : BitVec 4) (gd ga : BitVec 6) (len : Nat) (op : W64 → W64) (s : State) : Result :=
  issueRegs i x len guard (fun t l => wrG t l gd.toNat (op (rdG t l ga.toNat))) s

def execAddi (x : Issuer) (f : IF) (s : State) : Result := issueI (.addi x f) x f.guard f.gd f.ga 4 (fun a => a + simm f) s
def execAndi (x : Issuer) (f : IF) (s : State) : Result := issueI (.andi x f) x f.guard f.gd f.ga 4 (fun a => a &&& zimm f) s
def execOri (x : Issuer) (f : IF) (s : State) : Result := issueI (.ori x f) x f.guard f.gd f.ga 4 (fun a => a ||| zimm f) s
def execXori (x : Issuer) (f : IF) (s : State) : Result := issueI (.xori x f) x f.guard f.gd f.ga 4 (fun a => a ^^^ zimm f) s
def execSlli (x : Issuer) (f : ShF) (s : State) : Result :=
  issueI (.slli x f) x f.guard f.gd f.ga 4 (fun a => a <<< f.amount.toNat) s
def execSrli (x : Issuer) (f : ShF) (s : State) : Result :=
  issueI (.srli x f) x f.guard f.gd f.ga 4 (fun a => a >>> f.amount.toNat) s
def execSrai (x : Issuer) (f : ShF) (s : State) : Result :=
  issueI (.srai x f) x f.guard f.gd f.ga 4 (fun a => a.sshiftRight f.amount.toNat) s

/-! ## Long forms (R33): eight bytes, one instruction -/

def execMovl (x : Issuer) (f : LF) (s : State) : Result :=
  issueI (.movl x f) x f.guard f.gd 0 8 (fun _ => f.imm.signExtend 64) s
/-- MOVH keeps gd[31:0]. -/
def execMovh (x : Issuer) (f : LF) (s : State) : Result :=
  issueI (.movh x f) x f.guard f.gd f.gd 8 (fun a => f.imm ++ a.setWidth 32) s
def execAddl (x : Issuer) (f : LF) (s : State) : Result :=
  issueI (.addl x f) x f.guard f.gd f.ga 8 (fun a => a + f.imm.signExtend 64) s
def execOrl (x : Issuer) (f : LF) (s : State) : Result :=
  issueI (.orl x f) x f.guard f.gd f.ga 8 (fun a => a ||| f.imm.setWidth 64) s

/-! ## Predicates -/

def execCmp (x : Issuer) (f : PF) (s : State) : Result :=
  issueRegs (.cmp x f) x 4 f.guard
    (fun t l => wrP t l f.pd.toNat (cmpCond f.cond (rdG t l f.ga.toNat) (rdG t l f.gb.toNat))) s
def execCmpi (x : Issuer) (f : PIF) (s : State) : Result :=
  issueRegs (.cmpi x f) x 4 f.guard
    (fun t l => wrP t l f.pd.toNat (cmpCond f.cond (rdG t l f.ga.toNat) (f.imm.signExtend 64))) s
def execPlog (x : Issuer) (f : PLF) (s : State) : Result :=
  issueRegs (.plog x f) x 4 f.guard
    (fun t l => wrP t l f.pd.toNat (plogOp f.op (rdP t l f.pa.toNat) (rdP t l f.pb.toNat))) s

/-! ## Branches -/

/-- Target of a branch of format B: a signed count of instructions from the branch itself. -/
def branchTo (pc : W64) (f : BF) : W64 := pc + (f.off.signExtend 64) * 4

/-- The next PC of each lane of a branch: its target where the guard is true, else the fall-through. -/
def targets (c : Iss) (act : List Nat) (t : Nat → W64) (l : Nat) : W64 := if act.contains l then t l else c.pc + 4

def execB (x : Issuer) (f : BF) (s : State) : Result :=
  issue (.b x f) x 4 (fun s c => .jump s (targets c (active c f.guard) fun _ => branchTo c.pc f)) s

/-- CALL: g15 takes PC + 4 (R25). -/
def execCall (x : Issuer) (f : BF) (s : State) : Result :=
  issue (.call x f) x 4 (fun s c =>
    let act := active c f.guard
    .jump (setTh s x (eachLane c.th act fun t l => wrG t l 15 (c.pc + 4))) (targets c act fun _ => branchTo c.pc f)) s

/-- JR: gd takes PC + 4 and the PC takes ga + 4 × imm10; a target that is no multiple of 4 is MISALIGNED,
and a target of 0 makes the lane exit (R31, R47). -/
def execJr (x : Issuer) (f : IF) (s : State) : Result :=
  issue (.jr x f) x 4 (fun s c =>
    let act := active c f.guard
    let t (l : Nat) : W64 := rdG c.th l f.ga.toNat + simm f * 4
    let bad := act.filter fun l => (t l).toNat % 4 ≠ 0
    match bad with
    | l :: _ => .trap s cMisaligned (t l).toNat (laneMask bad)
    | [] => .jump (setTh s x (eachLane c.th act fun th l => wrG th l f.gd.toNat (c.pc + 4))) (targets c act t)) s

end Sys2Proof.Machine
end

