-- ==== Sys2Proof/Machine/Dispatch.lean ====
section
/-! DEFINITION. The meaning of each command: one arm for each row of the table of operations and events. -/

namespace Sys2Proof.Machine

/-- The effect of a command on everything but the queue of waiting commands. -/
def exec (i : Instr) (s : State) : Host.Outcome State Fault Refusal :=
  match i with
  | .add x f => Sys2Proof.Machine.execAdd x f s
  | .sub x f => Sys2Proof.Machine.execSub x f s
  | .and x f => Sys2Proof.Machine.execAnd x f s
  | .or x f => Sys2Proof.Machine.execOr x f s
  | .xor x f => Sys2Proof.Machine.execXor x f s
  | .sll x f => Sys2Proof.Machine.execSll x f s
  | .srl x f => Sys2Proof.Machine.execSrl x f s
  | .sra x f => Sys2Proof.Machine.execSra x f s
  | .mul x f => Sys2Proof.Machine.execMul x f s
  | .mulh x f => Sys2Proof.Machine.execMulh x f s
  | .mulhu x f => Sys2Proof.Machine.execMulhu x f s
  | .div x f => Sys2Proof.Machine.execDiv x f s
  | .divu x f => Sys2Proof.Machine.execDivu x f s
  | .rem x f => Sys2Proof.Machine.execRem x f s
  | .remu x f => Sys2Proof.Machine.execRemu x f s
  | .min x f => Sys2Proof.Machine.execMin x f s
  | .max x f => Sys2Proof.Machine.execMax x f s
  | .minu x f => Sys2Proof.Machine.execMinu x f s
  | .maxu x f => Sys2Proof.Machine.execMaxu x f s
  | .clz x f => Sys2Proof.Machine.execClz x f s
  | .popc x f => Sys2Proof.Machine.execPopc x f s
  | .addi x f => Sys2Proof.Machine.execAddi x f s
  | .andi x f => Sys2Proof.Machine.execAndi x f s
  | .ori x f => Sys2Proof.Machine.execOri x f s
  | .xori x f => Sys2Proof.Machine.execXori x f s
  | .slli x f => Sys2Proof.Machine.execSlli x f s
  | .srli x f => Sys2Proof.Machine.execSrli x f s
  | .srai x f => Sys2Proof.Machine.execSrai x f s
  | .movl x f => Sys2Proof.Machine.execMovl x f s
  | .movh x f => Sys2Proof.Machine.execMovh x f s
  | .addl x f => Sys2Proof.Machine.execAddl x f s
  | .orl x f => Sys2Proof.Machine.execOrl x f s
  | .cmp x f => Sys2Proof.Machine.execCmp x f s
  | .cmpi x f => Sys2Proof.Machine.execCmpi x f s
  | .plog x f => Sys2Proof.Machine.execPlog x f s
  | .b x f => Sys2Proof.Machine.execB x f s
  | .call x f => Sys2Proof.Machine.execCall x f s
  | .jr x f => Sys2Proof.Machine.execJr x f s
  | .ld x f => Sys2Proof.Machine.execLd x f s
  | .st x f => Sys2Proof.Machine.execSt x f s
  | .ldv x f => Sys2Proof.Machine.execLdv x f s
  | .acq x f => Sys2Proof.Machine.execAcq x f s
  | .rel x f => Sys2Proof.Machine.execRel x f s
  | .ldres x f => Sys2Proof.Machine.execLdres x f s
  | .stcond x f dbl => Sys2Proof.Machine.execStcond x f dbl s
  | .amoAdd x f => Sys2Proof.Machine.execAmoAdd x f s
  | .amoAnd x f => Sys2Proof.Machine.execAmoAnd x f s
  | .amoOr x f => Sys2Proof.Machine.execAmoOr x f s
  | .amoXor x f => Sys2Proof.Machine.execAmoXor x f s
  | .amoMin x f => Sys2Proof.Machine.execAmoMin x f s
  | .amoMax x f => Sys2Proof.Machine.execAmoMax x f s
  | .amoSwap x f => Sys2Proof.Machine.execAmoSwap x f s
  | .amoCas x f => Sys2Proof.Machine.execAmoCas x f s
  | .amoMinu x f => Sys2Proof.Machine.execAmoMinu x f s
  | .amoMaxu x f => Sys2Proof.Machine.execAmoMaxu x f s
  | .amoFadd x f => Sys2Proof.Machine.execAmoFadd x f s
  | .barl x f => Sys2Proof.Machine.execBarl x f s
  | .bars x f => Sys2Proof.Machine.execBars x f s
  | .barf x f => Sys2Proof.Machine.execBarf x f s
  | .isync x f => Sys2Proof.Machine.execIsync x f s
  | .gbar x f => Sys2Proof.Machine.execGbar x f s
  | .cbar x f => Sys2Proof.Machine.execCbar x f s
  | .shfl x f => Sys2Proof.Machine.execShfl x f s
  | .ballot x f => Sys2Proof.Machine.execBallot x f s
  | .tdset x f => Sys2Proof.Machine.execTdset x f s
  | .tdgetl x f => Sys2Proof.Machine.execTdgetl x f s
  | .tdgeth x f => Sys2Proof.Machine.execTdgeth x f s
  | .tmove x f => Sys2Proof.Machine.execTmove x f s
  | .twait x f => Sys2Proof.Machine.execTwait x f s
  | .mload x f => Sys2Proof.Machine.execMload x f s
  | .mstream x f => Sys2Proof.Machine.execMstream x f s
  | .mswap x f => Sys2Proof.Machine.execMswap x f s
  | .mdrain x f => Sys2Proof.Machine.execMdrain x f s
  | .mwait x f => Sys2Proof.Machine.execMwait x f s
  | .fadd x f => Sys2Proof.Machine.execFadd x f s
  | .fsub x f => Sys2Proof.Machine.execFsub x f s
  | .fmul x f => Sys2Proof.Machine.execFmul x f s
  | .fma x f => Sys2Proof.Machine.execFma x f s
  | .fdiv x f => Sys2Proof.Machine.execFdiv x f s
  | .fsqrt x f => Sys2Proof.Machine.execFsqrt x f s
  | .fmin x f => Sys2Proof.Machine.execFmin x f s
  | .fmax x f => Sys2Proof.Machine.execFmax x f s
  | .fcvtI x f => Sys2Proof.Machine.execFcvtI x f s
  | .fcvtF x f => Sys2Proof.Machine.execFcvtF x f s
  | .fcmp x f => Sys2Proof.Machine.execFcmp x f s
  | .srd x f => Sys2Proof.Machine.execSrd x f s
  | .swr x f => Sys2Proof.Machine.execSwr x f s
  | .gctlHalt x f => Sys2Proof.Machine.execGctlHalt x f s
  | .gctlResume x f => Sys2Proof.Machine.execGctlResume x f s
  | .gctlSingleStep x f => Sys2Proof.Machine.execGctlSingleStep x f s
  | .trap x f => Sys2Proof.Machine.execTrap x f s
  | .brk x f => Sys2Proof.Machine.execBrk x f s
  | .sret x f => Sys2Proof.Machine.execSret x f s
  | .mret x f => Sys2Proof.Machine.execMret x f s
  | .waiti x f => Sys2Proof.Machine.execWaiti x f s
  | .xinv x f => Sys2Proof.Machine.execXinv x f s
  | .epoch x f => Sys2Proof.Machine.execEpoch x f s
  | .watch x f => Sys2Proof.Machine.execWatch x f s
  | .unwatch x f => Sys2Proof.Machine.execUnwatch x f s
  | .interruptTaken n => Sys2Proof.Machine.execInterruptTaken n s
  | .tmoveComplete x k => Sys2Proof.Machine.execTmoveComplete x k s
  | .matrixStart d c k => Sys2Proof.Machine.execMatrixStart d c k s
  | .matrixComplete d c k => Sys2Proof.Machine.execMatrixComplete d c k s
  | .holdTaperEnd d c => Sys2Proof.Machine.execHoldTaperEnd d c s
  | .rampStep d c => Sys2Proof.Machine.execRampStep d c s
  | .arrayParityError d c => Sys2Proof.Machine.execArrayParityError d c s
  | .cheapPointSave d c slot => Sys2Proof.Machine.execCheapPointSave d c slot s
  | .preemptionLate ctx => Sys2Proof.Machine.execPreemptionLate ctx s
  | .groupRestore d c slot ctx q => Sys2Proof.Machine.execGroupRestore d c slot ctx q s
  | .groupHalt d c slot => Sys2Proof.Machine.execGroupHalt d c slot s
  | .storeTimeout id => Sys2Proof.Machine.execStoreTimeout id s
  | .reservationDeferralExpiry line => Sys2Proof.Machine.execReservationDeferralExpiry line s
  | .snoopTimeout line agent => Sys2Proof.Machine.execSnoopTimeout line agent s
  | .rlockTimeout line => Sys2Proof.Machine.execRlockTimeout line s
  | .combineWaitExpiry router line tag => Sys2Proof.Machine.execCombineWaitExpiry router line tag s
  | .reductionPacket router h src agent data => Sys2Proof.Machine.execReductionPacket router h src agent data s
  | .sliceParityError slice whr line => Sys2Proof.Machine.execSliceParityError slice whr line s
  | .domainDown cause ref => Sys2Proof.Machine.execDomainDown cause ref s
  | .domainUsable us intact => Sys2Proof.Machine.execDomainUsable us intact s
  | .rd h => Sys2Proof.Machine.execRd h s
  | .wrf h data => Sys2Proof.Machine.execWrf h data s
  | .wrp h data => Sys2Proof.Machine.execWrp h data s
  | .amo h data => Sys2Proof.Machine.execAmo h data s
  | .res h => Sys2Proof.Machine.execRes h s
  | .scond h data => Sys2Proof.Machine.execScond h data s
  | .rlock h => Sys2Proof.Machine.execRlock h s
  | .wunlock h data => Sys2Proof.Machine.execWunlock h data s
  | .fill h => Sys2Proof.Machine.execFill h s
  | .wbk h data => Sys2Proof.Machine.execWbk h data s
  | .crd h => Sys2Proof.Machine.execCrd h s
  | .crdo h => Sys2Proof.Machine.execCrdo h s
  | .cwb h data => Sys2Proof.Machine.execCwb h data s
  | .cevn h => Sys2Proof.Machine.execCevn h s
  | .dreq h kind => Sys2Proof.Machine.execDreq h kind s
  | .data h d => Sys2Proof.Machine.execData h d s
  | .ack h => Sys2Proof.Machine.execAck h s
  | .amorsp h d => Sys2Proof.Machine.execAmorsp h d s
  | .scrsp h => Sys2Proof.Machine.execScrsp h s
  | .refuse h => Sys2Proof.Machine.execRefuse h s
  | .filldata h d => Sys2Proof.Machine.execFilldata h d s
  | .grant h n shared d => Sys2Proof.Machine.execGrant h n shared d s
  | .drsp h d => Sys2Proof.Machine.execDrsp h d s
  | .nohold h => Sys2Proof.Machine.execNohold h s
  | .watchedLineSignal handles consumer => Sys2Proof.Machine.execWatchedLineSignal handles consumer s
  | .launchPlacement d c p => Sys2Proof.Machine.execLaunchPlacement d c p s
  | .translationInvalidation d n gb ga => Sys2Proof.Machine.execTranslationInvalidation d n gb ga s
  | .trapRecord r => Sys2Proof.Machine.execTrapRecord r s
  | .faultNotice w r => Sys2Proof.Machine.execFaultNotice w r s
  | .interrupt n source => Sys2Proof.Machine.execInterrupt n source s
  | .workDoneCohortEnded d c ctx cohort => Sys2Proof.Machine.execWorkDoneCohortEnded d c ctx cohort s
  | .workDoneInvalidation d n ga => Sys2Proof.Machine.execWorkDoneInvalidation d n ga s
  | .workDoneGroupImage d c slot ctx => Sys2Proof.Machine.execWorkDoneGroupImage d c slot ctx s
  | .workDonePlacementRefused d c ctx cohort => Sys2Proof.Machine.execWorkDonePlacementRefused d c ctx cohort s
  | .traceRecord d r => Sys2Proof.Machine.execTraceRecord d r s
  | .counterRead d index sub tag => Sys2Proof.Machine.execCounterRead d index sub tag s
  | .counterData index sub tag value status => Sys2Proof.Machine.execCounterData index sub tag value status s
  | .ratlineFlitReceived link far m flit => Sys2Proof.Machine.execRatlineFlitReceived link far m flit s
  | .creditReturnIdle link far m => Sys2Proof.Machine.execCreditReturnIdle link far m s
  | .idleFlit link far m => Sys2Proof.Machine.execIdleFlit link far m s
  | .rootPllLock d loc => Sys2Proof.Machine.execRootPllLock d loc s
  | .pllLockTimeout d => Sys2Proof.Machine.execPllLockTimeout d s
  | .lossOfLock d => Sys2Proof.Machine.execLossOfLock d s
  | .pllRelock d => Sys2Proof.Machine.execPllRelock d s
  | .ident d phy spar port rev => Sys2Proof.Machine.execIdent d phy spar port rev s
  | .positionProbeTimeout d => Sys2Proof.Machine.execPositionProbeTimeout d s
  | .caps link far major minor mask => Sys2Proof.Machine.execCaps link far major minor mask s
  | .credit link far credits => Sys2Proof.Machine.execCredit link far credits s
  | .linkRefuse link far reason => Sys2Proof.Machine.execLinkRefuse link far reason s
  | .retrain link module => Sys2Proof.Machine.execRetrain link module s
  | .trainingStageTimeout link => Sys2Proof.Machine.execTrainingStageTimeout link s
  | .linkLossTimeout link why => Sys2Proof.Machine.execLinkLossTimeout link why s
  | .sidebandFrame link far frame => Sys2Proof.Machine.execSidebandFrame link far frame s
  | .sidebandTimeout link far => Sys2Proof.Machine.execSidebandTimeout link far s
  | .ratlineRecalibration link far m lane => Sys2Proof.Machine.execRatlineRecalibration link far m lane s
  | .recalibrationLaneReturn link far m lane => Sys2Proof.Machine.execRecalibrationLaneReturn link far m lane s
  | .ratlineParityError link far m header worst => Sys2Proof.Machine.execRatlineParityError link far m header worst s
  | .hbmError k j e line => Sys2Proof.Machine.execHbmError k j e line s
  | .perBankRefresh k j bank => Sys2Proof.Machine.execPerBankRefresh k j bank s
  | .hbmTemperatureChange k celsius => Sys2Proof.Machine.execHbmTemperatureChange k celsius s
  | .interfaceRecalibration k j => Sys2Proof.Machine.execInterfaceRecalibration k j s
  | .zeroingComplete frame => Sys2Proof.Machine.execZeroingComplete frame s
  | .frameCommand q w0 w1 w2 => Sys2Proof.Machine.execFrameCommand q w0 w1 w2 s
  | .frameUpdate => Sys2Proof.Machine.execFrameUpdate s
  | .placementRegionWrite q r sub value => Sys2Proof.Machine.execPlacementRegionWrite q r sub value s
  | .translationWalk pool ctx va acc => Sys2Proof.Machine.execTranslationWalk pool ctx va acc s
  | .faultRecordResolve p head => Sys2Proof.Machine.execFaultRecordResolve p head s
  | .faultRingWrite q p sub value => Sys2Proof.Machine.execFaultRingWrite q p sub value s
  | .footprintCheck entry => Sys2Proof.Machine.execFootprintCheck entry s
  | .partitionCreate q words => Sys2Proof.Machine.execPartitionCreate q words s
  | .partitionResetByDrain q words => Sys2Proof.Machine.execPartitionResetByDrain q words s
  | .partitionResetBySquash q words => Sys2Proof.Machine.execPartitionResetBySquash q words s
  | .partitionDestroy q words => Sys2Proof.Machine.execPartitionDestroy q words s
  | .drainLimitExpiry p => Sys2Proof.Machine.execDrainLimitExpiry p s
  | .contextCreate q words => Sys2Proof.Machine.execContextCreate q words s
  | .contextSquash q words => Sys2Proof.Machine.execContextSquash q words s
  | .contextDestroy q words => Sys2Proof.Machine.execContextDestroy q words s
  | .contextPreempt q words => Sys2Proof.Machine.execContextPreempt q words s
  | .queueCreate q words => Sys2Proof.Machine.execQueueCreate q words s
  | .queueDelete q words => Sys2Proof.Machine.execQueueDelete q words s
  | .queueSelect q handle => Sys2Proof.Machine.execQueueSelect q handle s
  | .descriptorFetch handle => Sys2Proof.Machine.execDescriptorFetch handle s
  | .launch entry => Sys2Proof.Machine.execLaunch entry s
  | .copy entry => Sys2Proof.Machine.execCopy entry s
  | .collective entry => Sys2Proof.Machine.execCollective entry s
  | .step entry => Sys2Proof.Machine.execStep entry s
  | .cohortPlacement entry d c => Sys2Proof.Machine.execCohortPlacement entry d c s
  | .priorityPreemption entry => Sys2Proof.Machine.execPriorityPreemption entry s
  | .completionRecordWrite entry => Sys2Proof.Machine.execCompletionRecordWrite entry s
  | .completionRingPoll handle => Sys2Proof.Machine.execCompletionRingPoll handle s
  | .migrationTrackingSet q p value => Sys2Proof.Machine.execMigrationTrackingSet q p value s
  | .harvest q p w0 w1 => Sys2Proof.Machine.execHarvest q p w0 w1 s
  | .siltCopy frame writer => Sys2Proof.Machine.execSiltCopy frame writer s
  | .siltPoolResize q pct => Sys2Proof.Machine.execSiltPoolResize q pct s
  | .epochRequest src job epoch => Sys2Proof.Machine.execEpochRequest src job epoch s
  | .epochPrepare src gen job epoch => Sys2Proof.Machine.execEpochPrepare src gen job epoch s
  | .cutReached slot => Sys2Proof.Machine.execCutReached slot s
  | .epochPrepared src job epoch => Sys2Proof.Machine.execEpochPrepared src job epoch s
  | .epochCommit src gen job epoch => Sys2Proof.Machine.execEpochCommit src gen job epoch s
  | .epochCommitted src job epoch => Sys2Proof.Machine.execEpochCommitted src job epoch s
  | .epochAbandon src gen job epoch => Sys2Proof.Machine.execEpochAbandon src gen job epoch s
  | .epochFault src job cls => Sys2Proof.Machine.execEpochFault src job cls s
  | .epochStop src gen job => Sys2Proof.Machine.execEpochStop src gen job s
  | .epochStopped src job => Sys2Proof.Machine.execEpochStopped src job s
  | .epochRestore src gen job target => Sys2Proof.Machine.execEpochRestore src gen job target s
  | .epochRestored src job => Sys2Proof.Machine.execEpochRestored src job s
  | .epochResume src gen job => Sys2Proof.Machine.execEpochResume src gen job s
  | .epochMirrored src job epoch => Sys2Proof.Machine.execEpochMirrored src job epoch s
  | .epochQuery src gen job => Sys2Proof.Machine.execEpochQuery src gen job s
  | .epochState src job state epoch => Sys2Proof.Machine.execEpochState src job state epoch s
  | .faultWindowClose unit => Sys2Proof.Machine.execFaultWindowClose unit s
  | .replicaPairActivate q r sub value => Sys2Proof.Machine.execReplicaPairActivate q r sub value s
  | .shroudFlitReceived port flit tagOk => Sys2Proof.Machine.execShroudFlitReceived port flit tagOk s
  | .shroudPortLoss port why => Sys2Proof.Machine.execShroudPortLoss port why s
  | .portBringup port stage => Sys2Proof.Machine.execPortBringup port stage s
  | .packetForward port op p data => Sys2Proof.Machine.execPacketForward port op p data s
  | .directedPacket port op reply p data => Sys2Proof.Machine.execDirectedPacket port op reply p data s
  | .shroudRd port p => Sys2Proof.Machine.execShroudRd port p s
  | .wr port p data => Sys2Proof.Machine.execWr port p data s
  | .shroudAmo port p data => Sys2Proof.Machine.execShroudAmo port p data s
  | .shroudRes port p => Sys2Proof.Machine.execShroudRes port p s
  | .shroudScond port p data => Sys2Proof.Machine.execShroudScond port p data s
  | .red port p data => Sys2Proof.Machine.execRed port p data s
  | .shroudData port p data => Sys2Proof.Machine.execShroudData port p data s
  | .shroudAck port p => Sys2Proof.Machine.execShroudAck port p s
  | .shroudAmorsp port p data => Sys2Proof.Machine.execShroudAmorsp port p data s
  | .shroudScrsp port p => Sys2Proof.Machine.execShroudScrsp port p s
  | .shroudRefuse port p => Sys2Proof.Machine.execShroudRefuse port p s
  | .remoteRequestTimeout tag => Sys2Proof.Machine.execRemoteRequestTimeout tag s
  | .pathClear q dest => Sys2Proof.Machine.execPathClear q dest s
  | .routeTableLoad q first count res entries => Sys2Proof.Machine.execRouteTableLoad q first count res entries s
  | .routeGenerationSwitch q gen => Sys2Proof.Machine.execRouteGenerationSwitch q gen s
  | .deviceIdentifierWrite q id => Sys2Proof.Machine.execDeviceIdentifierWrite q id s
  | .contrib p data => Sys2Proof.Machine.execContrib p data s
  | .result p data => Sys2Proof.Machine.execResult p data s
  | .collectiveTimeout tree => Sys2Proof.Machine.execCollectiveTimeout tree s
  | .heartbeat src gen => Sys2Proof.Machine.execHeartbeat src gen s
  | .heartbeatTimeout => Sys2Proof.Machine.execHeartbeatTimeout s
  | .claim src gen => Sys2Proof.Machine.execClaim src gen s
  | .portevPortLost src port peer => Sys2Proof.Machine.execPortevPortLost src port peer s
  | .portevPortUp src port peer => Sys2Proof.Machine.execPortevPortUp src port peer s
  | .portevPortRetired src port peer => Sys2Proof.Machine.execPortevPortRetired src port peer s
  | .portevPathFailed src port peer => Sys2Proof.Machine.execPortevPathFailed src port peer s
  | .keyxChain port chunk nchunk sport kph res payload => Sys2Proof.Machine.execKeyxChain port chunk nchunk sport kph res payload s
  | .keyxOffer port sport kph res payload => Sys2Proof.Machine.execKeyxOffer port sport kph res payload s
  | .keyxConfirm port sport kph res payload => Sys2Proof.Machine.execKeyxConfirm port sport kph res payload s
  | .keyExchangeTimeout port => Sys2Proof.Machine.execKeyExchangeTimeout port s
  | .keyExchangeRetry port => Sys2Proof.Machine.execKeyExchangeRetry port s
  | .rekey port => Sys2Proof.Machine.execRekey port s
  | .dictionaryRead q b => Sys2Proof.Machine.execDictionaryRead q b s
  | .dictionaryWrite q b => Sys2Proof.Machine.execDictionaryWrite q b s
  | .next q b => Sys2Proof.Machine.execNext q b s
  | .windowRead port offset size => Sys2Proof.Machine.execWindowRead port offset size s
  | .windowWrite port offset size value => Sys2Proof.Machine.execWindowWrite port offset size value s
  | .alarmClear q mask => Sys2Proof.Machine.execAlarmClear q mask s
  | .setEndpointId ep eid => Sys2Proof.Machine.execSetEndpointId ep eid s
  | .getEndpointId ep => Sys2Proof.Machine.execGetEndpointId ep s
  | .getMctpVersionSupport ep => Sys2Proof.Machine.execGetMctpVersionSupport ep s
  | .getMessageTypeSupport ep => Sys2Proof.Machine.execGetMessageTypeSupport ep s
  | .spdmRequest r m => Sys2Proof.Machine.execSpdmRequest r m s
  | .ideIntegrityFailure port stream => Sys2Proof.Machine.execIdeIntegrityFailure port stream s
  | .configurationRequest port r => Sys2Proof.Machine.execConfigurationRequest port r s
  | .bar2Access f pa size data => Sys2Proof.Machine.execBar2Access f pa size data s
  | .powerModeChange q mode => Sys2Proof.Machine.execPowerModeChange q mode s
  | .estimatorSample rail milliamps => Sys2Proof.Machine.execEstimatorSample rail milliamps s
  | .packageCeilingUpdate watts => Sys2Proof.Machine.execPackageCeilingUpdate watts s
  | .droopTrip d => Sys2Proof.Machine.execDroopTrip d s
  | .droopEnd d roots => Sys2Proof.Machine.execDroopEnd d roots s
  | .longStretch d => Sys2Proof.Machine.execLongStretch d s
  | .ageingMeasure d inside => Sys2Proof.Machine.execAgeingMeasure d inside s
  | .avsbusTimeout d => Sys2Proof.Machine.execAvsbusTimeout d s
  | .thermalReading d celsius => Sys2Proof.Machine.execThermalReading d celsius s
  | .supplyValid rail => Sys2Proof.Machine.execSupplyValid rail s
  | .supplyLoss rail => Sys2Proof.Machine.execSupplyLoss rail s
  | .rootOfTrustBoot a b => Sys2Proof.Machine.execRootOfTrustBoot a b s
  | .deviceUsable => Sys2Proof.Machine.execDeviceUsable s
  | .perstAssert port taken => Sys2Proof.Machine.execPerstAssert port taken s
  | .perstDeassert port => Sys2Proof.Machine.execPerstDeassert port s
  | .functionLevelReset f => Sys2Proof.Machine.execFunctionLevelReset f s
  | .raiseMinimumSvn q id => Sys2Proof.Machine.execRaiseMinimumSvn q id s
  | .revokeKey q key => Sys2Proof.Machine.execRevokeKey q key s
  | .updateChunk q offset data => Sys2Proof.Machine.execUpdateChunk q offset data s
  | .checkAndActivate q inactive => Sys2Proof.Machine.execCheckAndActivate q inactive s
  | .abandon q => Sys2Proof.Machine.execAbandon q s
  | .marker q value => Sys2Proof.Machine.execMarker q value s
  | .traceRingSet q sub value => Sys2Proof.Machine.execTraceRingSet q sub value s
  | .logRingSet q sub value => Sys2Proof.Machine.execLogRingSet q sub value s
  | .traceRingWrite => Sys2Proof.Machine.execTraceRingWrite s
  | .traceAlignmentBlock => Sys2Proof.Machine.execTraceAlignmentBlock s
  | .logWindowClose unit => Sys2Proof.Machine.execLogWindowClose unit s
  | .coreParityError d c slot => Sys2Proof.Machine.execCoreParityError d c slot s
  | .controlCoreParityError n => Sys2Proof.Machine.execControlCoreParityError n s
  | .selfTest d c => Sys2Proof.Machine.execSelfTest d c s
  | .pcieCompletion id poison data => Sys2Proof.Machine.execPcieCompletion id poison data s
  | .pcieRequestTimeout id => Sys2Proof.Machine.execPcieRequestTimeout id s
  | .pcieStoreAcknowledge id => Sys2Proof.Machine.execPcieStoreAcknowledge id s
  | .pcieLinkUp port => Sys2Proof.Machine.execPcieLinkUp port s
  | .avsbusAcknowledge d => Sys2Proof.Machine.execAvsbusAcknowledge d s
  | .forwardedClockDetected link far m pairFailed => Sys2Proof.Machine.execForwardedClockDetected link far m pairFailed s
  | .laneTrainingComplete link far m failing => Sys2Proof.Machine.execLaneTrainingComplete link far m failing s
  | .portFailedRetry port => Sys2Proof.Machine.execPortFailedRetry port s
  | .i3cDynamicAddressAssignment address => Sys2Proof.Machine.execI3cDynamicAddressAssignment address s

end Sys2Proof.Machine
end

