-- ==== Sys2Proof/Safety.lean ====
section
/-! DEFINITION. What a safe run is, in the terms the statements use: a step that answers a next state, an
instruction that its issuer may execute, the registers and memory a command leaves alone. -/

namespace Sys2Proof

open Sys2Proof.Machine

/-- A command completes in a state. -/
def Completes (i : Instr) (s : State) : Prop := ∃ t, exec i s = .next t

/-- A step neither faults nor is refused. -/
def StepsOn (s : State) : Prop := ∃ t, step s = .next t

/-- A command answers a next state of which `P` holds. -/
def Answers (i : Instr) (s : State) (P : State → Prop) : Prop := ∃ t, exec i s = .next t ∧ P t

/-- The issuer can issue, its PC is one that can be fetched from (R32, R200), and the instruction meets no decode cause (R29,
R43); `c` is what it executes with. -/
abbrev Issues (s : State) (i : Instr) (x : Issuer) (c : Iss) : Prop :=
  issOf s x (wordOf i) = some c ∧ fetchBad c i = none ∧ decodeCause s c i = none

/-- An instruction is done with the issuer's registers `th` and goes on to the next. -/
def Done (i : Instr) (s : State) (x : Issuer) (c : Iss) (len : Nat) (P : Threads → Prop) : Prop :=
  ∃ th, exec i s = .next (finish c len (.go (setTh s x th))) ∧ P th

/-- Two register sets differ in no predicate, tile descriptor or FCSR. -/
abbrev SameButGpr (t u : Threads) : Prop := u.pred = t.pred ∧ u.tile = t.tile ∧ u.fcsr = t.fcsr

/-- General register `gd` of the lanes `ls` takes `v`; g0 and every other register keep their values. -/
def Writes (t u : Threads) (ls : List Nat) (gd : Nat) (v : Nat → W64) : Prop :=
  ∀ l r, l < 32 → r < 64 → rdG u l r = if l ∈ ls ∧ r = gd ∧ r ≠ 0 then v l else rdG t l r

/-- Every byte of HBM reads as before. -/
def SameMemory (s t : State) : Prop := ∀ a, mread t.mem a = mread s.mem a

/-- A lane stands in an entry of a reconvergence stack, at a PC and in a park state. -/
def At (st : List SEntry) (l : Nat) (pc : W64) (park : Park) : Prop :=
  ∃ e ∈ st, e.mask.getLsbD l = true ∧ e.pc = pc ∧ e.park = park

/-- The register value of a load of size code `sz` from bytes that read `v` (R30). -/
def loaded (sz : BitVec 3) (v : Nat) : W64 :=
  if sz = 0 then BitVec.ofInt 64 (if v < 2 ^ 7 then v else (v : Int) - 2 ^ 8)
  else if sz = 1 then BitVec.ofInt 64 (if v < 2 ^ 15 then v else (v : Int) - 2 ^ 16)
  else if sz = 2 then BitVec.ofInt 64 (if v < 2 ^ 31 then v else (v : Int) - 2 ^ 32)
  else BitVec.ofNat 64 v

/-- A control core at monitor level with an empty store buffer, nothing outstanding, and a true guard executes with `c`. -/
abbrev MonitorRuns (s : State) (i : Instr) (n : Fin 96) (c : Iss) (guard : BitVec 4) : Prop :=
  Issues s i (.cc n) c ∧ c.level = .monitor ∧ active c guard = [0] ∧ (getCC s n).sb = [] ∧ (getCC s n).armed = false ∧
    ∀ r ∈ s.fabric.out, r.who ≠ .cc n

/-- A physical address of `n` bytes that a monitor-level access may reach: aligned, covered, passing the ownership check,
its line not poisoned, deferred or locked (R31, R192), outside the ownership table's own two copies (R190). -/
abbrev MonitorReach (s : State) (n : Fin 96) (va size : Nat) (write : Bool) : Prop :=
  2 ^ 28 ≤ va ∧ va % size = 0 ∧ paPass s .sys write va = true ∧ linePoisoned s (va / 128) = false ∧
    lineDeferred s (agentCC n * 4096) (va / 128) = false

/-- The frame of an address is neither preserved nor of a tracked partition: no silt copy precedes a write (R280, R285). -/
abbrev NoSilt (s : State) (va : Nat) : Prop :=
  (getOwn s (va / 65536)).presv = false ∧ (tget s.disp.tracks (getOwn s (va / 65536)).part {}).on = false ∧
    (getOwn s (va / 65536)).lost = false

/-- Bits of a system register that a write keeps (table "System registers"). -/
def sysMask (num : Nat) : W64 :=
  if num = 0x100 ∨ num = 0x200 then 0x1F else if num = 0x101 ∨ num = 0x201 then 0xFF
  else if num = 0x104 ∨ num = 0x204 then 0xFFFFFFFFFFFFFFFC else if num = 0x107 then 0x00000FFF007F077F
  else if num = 0x206 then 0xFFFFFFFFFFFC3FFF else 0xFFFFFFFFFFFFFFFF

/-- The bytes `bs` stand from address `pa` on; every other byte of HBM reads as before. -/
def Wrote (s t : State) (pa : Nat) (bs : List Byte) : Prop :=
  ∀ a, mread t.mem a = if pa ≤ a ∧ a < pa + bs.length then bs.getD (a - pa) 0 else mread s.mem a

/-- Every line but `ln` is at its home as before. -/
def OtherLines (s t : State) (ln : Nat) : Prop := ∀ l, l ≠ ln → getLine t l = getLine s l

/-- A request is served at once: the home runs, its address is covered and passes the ownership check, its line stands in V
with nothing that waits, locks, defers or poisons it (R157, R192), outside the ownership table's two copies (R190). -/
abbrev HomeReady (s : State) (h : ReqHdr) (write : Bool) : Prop :=
  domainUp s = true ∧ halyard s = true ∧ 2 ^ 28 ≤ h.line.toNat * 128 ∧ paPass s (reqWho h) write (h.line.toNat * 128) = true ∧
    (getLine s h.line.toNat).st = .V ∧ (getLine s h.line.toNat).pend = [] ∧ (getLine s h.line.toNat).lock = none ∧
    tfind s.homes.deferred h.line.toNat = none ∧ resvDefers s (reqBy h).key h.line.toNat = false ∧
    linePoisoned s h.line.toNat = false

/-- A write of a line does nothing but the write: no silt copy precedes it, no watched line is signalled by it. -/
abbrev QuietLine (s : State) (ln : Nat) : Prop :=
  NoSilt s (ln * 128) ∧ (∀ w ∈ s.disp.watches, w.2.line ≠ ln) ∧ Memory.wf s.mem = true

/-- The response a home sends: opcode, status, poison, KIND, granules and data. -/
def answerTo (h : ReqHdr) (op status : Nat) (kind gmask : Nat) (data : List Byte) : Out :=
  .rsp op { txn := h.txn, line := h.line, own := 0, status := BitVec.ofNat 4 status, gmask := BitVec.ofNat 8 gmask,
            poison := false } kind data

/-- `n` bytes from address `pa` lie in one line, which stands in V at its home and is quiet. -/
abbrev QuietSpan (s : State) (pa n : Nat) : Prop :=
  pa % 128 + n ≤ 128 ∧ (getLine s (pa / 128)).st = .V ∧ QuietLine s (pa / 128)

/-- An in-flight entry has completed with a status. -/
def EntryEnds (t : State) (e status : Nat) : Prop := ∃ y, getEntry t e = some y ∧ y.phase = .completed ∧ y.status = status

/-- A requester's write of an entry is served now: the controller runs, the request reaches it, its class is `k`, and the life
of the device refuses nothing (R344, R347). -/
abbrev Granted (s : State) (q : Requester) (index sub : Nat) (k : Cls) : Prop :=
  halyard s = true ∧ reaches s q = true ∧ classify s q = (s, some k) ∧ lifeStatus s true index sub = 0

/-- A write is done, `u` being the state it leaves, and answered with status 0: a response, or the window's status. -/
def Served (i : Instr) (s : State) (q : Requester) (index sub type : Nat) (P : State → Prop) : Prop :=
  ∃ u, exec i s = .next (answer u q 0 index sub 0 type []) ∧ P u

/-- A write is refused with a status and changes nothing else. -/
def RefusedWith (i : Instr) (s : State) (q : Requester) (index sub status : Nat) (type : Nat) : Prop :=
  exec i s = .next (answer s q 0 index sub status type [])

/-- An answer to a packet leaves at once: `port` is the one its route names, the loopback or one with no packet waiting and the
credits and replay room that the answer takes (R256, R259, R260). -/
abbrev AnswerBy (s : State) (p : SPkt) (op : Nat) (data : List Byte) (port : Nat) : Prop :=
  ∃ vl, outPort s p.src.toNat = some (port, vl) ∧ (port = 32 ∨ ((getPort s port).queue = [] ∧
    portCan s port { vc := 2 * pktClass op + vl, op := op, p := p, data := data } = true))

/-- A remote request is served at once for the job-table entry `e`: it arrives well formed for this device, passes the checks of
R263, nothing waits before it, and its lines stand in V, unpoisoned and quiet. -/
abbrev Accepted (s : State) (port op : Nat) (p : SPkt) (data : List Byte) (e : JobEntry) : Prop :=
  arrives s port p = true ∧ requestBad op p = false ∧ s.fabric.device ≠ 0xFFFF ∧ p.dst.toNat = s.fabric.device ∧ p.gmask ≠ 0 ∧
    jobEntry s p.job.toNat = some e ∧ e.rolling = false ∧ domainUp s = true ∧ covered s p.addr.toNat = true ∧
    paPass s (pktBy p e).who (op ≠ 0x01 && op ≠ 0x04) p.addr.toNat = true ∧ s.fabric.held = [] ∧
    pktWaits s [] { port := port, op := op, p := p, data := data } = false ∧ 2 ^ 28 ≤ p.addr.toNat ∧
    ∀ ln ∈ pktLines p, linePoisoned s ln = false ∧ (getLine s ln).st = .V ∧ QuietLine s ln

/-- A command that carries a packet of opcode `op` for this device and answers one of its requests, with a status below 7. -/
abbrev AnswersOne (s : State) (port : Nat) (p : SPkt) (r : OutReq) : Prop :=
  arrives s port p = true ∧ p.status.toNat < 7 ∧ p.opx = 0 ∧ s.fabric.device ≠ 0xFFFF ∧ p.dst.toNat = s.fabric.device ∧
    s.fabric.out = [r] ∧ r.id = p.tag.toNat ∧ r.tgt = 3 ∧ r.failed = false ∧ r.denied = false ∧ r.orphan = false

/-- The tables of cores and of their groups list each number once, rising. -/
abbrev SortedCores (s : State) : Prop := tsorted s.cores = true ∧ ∀ c ∈ s.cores, tsorted c.2.groups = true

end Sys2Proof
end

