-- ==== Sys2Proof/Certificates/Slice0/Obligations.lean ====
section
/-! DEFINITION. The statements about the model, for the provers. -/

open Sys2Proof Sys2Proof.Machine

/-- Step runs the command at the front of the queue on the state whose queue is the rest. -/
def Obligations.StepRunsFrontCommand : Prop :=  ∀ (i : Instr) (r : List Instr) (s : State), step { s with pending := i :: r } = exec i { s with pending := r }

/-- Format R over general registers: gd takes the operation of ga and gb in the running lanes whose guard is true, and nothing
else of the registers changes (R29, tables "ZIS mnemonics" and "Major opcode map"; R36 for the divisions).

Immediates, shifts by an amount and long forms (R33): gd takes its value in the running lanes whose guard is true.

CMP, CMPI and PLOG: predicate pd of the running lanes whose guard is true takes the comparison, p0 never changes, and no
other register does (table "ZIS mnemonics"). -/
def Obligations.IntegerResults : Prop :=
  (∀ (x : Issuer) (f : RF) (s : State) (c : Iss),
     let R (i : Instr) (op : W64 → W64 → W64) : Prop :=
       Issues s i x c → Done i s x c 4 fun th => SameButGpr c.th th ∧
         Writes c.th th (active c f.guard) f.gd.toNat fun l => op (rdG c.th l f.ga.toNat) (rdG c.th l f.gb.toNat)
     R (.add x f) (fun a b => BitVec.ofNat 64 (a.toNat + b.toNat)) ∧
     R (.sub x f) (fun a b => BitVec.ofInt 64 (a.toNat - b.toNat)) ∧
     R (.and x f) (fun a b => a &&& b) ∧ R (.or x f) (fun a b => a ||| b) ∧ R (.xor x f) (fun a b => a ^^^ b) ∧
     R (.sll x f) (fun a b => BitVec.ofNat 64 (a.toNat * 2 ^ (b.toNat % 64))) ∧
     R (.srl x f) (fun a b => BitVec.ofNat 64 (a.toNat / 2 ^ (b.toNat % 64))) ∧
     R (.sra x f) (fun a b => BitVec.ofInt 64 (a.toInt / 2 ^ (b.toNat % 64))) ∧
     R (.mul x f) (fun a b => BitVec.ofNat 64 (a.toNat * b.toNat)) ∧
     R (.mulh x f) (fun a b => BitVec.ofInt 64 (a.toInt * b.toInt / 2 ^ 64)) ∧
     R (.mulhu x f) (fun a b => BitVec.ofNat 64 (a.toNat * b.toNat / 2 ^ 64)) ∧
     R (.div x f) (fun a b => if b = 0 then BitVec.allOnes 64 else BitVec.ofInt 64 (a.toInt.tdiv b.toInt)) ∧
     R (.divu x f) (fun a b => if b = 0 then BitVec.allOnes 64 else BitVec.ofNat 64 (a.toNat / b.toNat)) ∧
     R (.rem x f) (fun a b => if b = 0 then a else BitVec.ofInt 64 (a.toInt.tmod b.toInt)) ∧
     R (.remu x f) (fun a b => if b = 0 then a else BitVec.ofNat 64 (a.toNat % b.toNat)) ∧
     R (.min x f) (fun a b => BitVec.ofInt 64 (min a.toInt b.toInt)) ∧
     R (.max x f) (fun a b => BitVec.ofInt 64 (max a.toInt b.toInt)) ∧
     R (.minu x f) (fun a b => BitVec.ofNat 64 (min a.toNat b.toNat)) ∧
     R (.maxu x f) (fun a b => BitVec.ofNat 64 (max a.toNat b.toNat)) ∧
     R (.clz x f) (fun a _ => a.clz) ∧
     R (.popc x f) (fun a _ => BitVec.ofNat 64 ((List.range 64).filter fun i => a.getLsbD i).length)) ∧
  (∀ (x : Issuer) (s : State) (c : Iss),
     let R (i : Instr) (guard : BitVec 4) (gd : BitVec 6) (len : Nat) (v : Nat → W64) : Prop :=
       Issues s i x c → Done i s x c len fun th => SameButGpr c.th th ∧ Writes c.th th (active c guard) gd.toNat v
     (∀ f : IF,
       R (.addi x f) f.guard f.gd 4 (fun l => BitVec.ofInt 64 ((rdG c.th l f.ga.toNat).toInt + f.imm.toInt)) ∧
       R (.andi x f) f.guard f.gd 4 (fun l => rdG c.th l f.ga.toNat &&& BitVec.ofNat 64 f.imm.toNat) ∧
       R (.ori x f) f.guard f.gd 4 (fun l => rdG c.th l f.ga.toNat ||| BitVec.ofNat 64 f.imm.toNat) ∧
       R (.xori x f) f.guard f.gd 4 (fun l => rdG c.th l f.ga.toNat ^^^ BitVec.ofNat 64 f.imm.toNat)) ∧
     (∀ f : ShF,
       R (.slli x f) f.guard f.gd 4 (fun l => BitVec.ofNat 64 ((rdG c.th l f.ga.toNat).toNat * 2 ^ f.amount.toNat)) ∧
       R (.srli x f) f.guard f.gd 4 (fun l => BitVec.ofNat 64 ((rdG c.th l f.ga.toNat).toNat / 2 ^ f.amount.toNat)) ∧
       R (.srai x f) f.guard f.gd 4 (fun l => BitVec.ofInt 64 ((rdG c.th l f.ga.toNat).toInt / 2 ^ f.amount.toNat))) ∧
     (∀ f : LF,
       R (.movl x f) f.guard f.gd 8 (fun _ => BitVec.ofInt 64 f.imm.toInt) ∧
       R (.movh x f) f.guard f.gd 8
         (fun l => BitVec.ofNat 64 (f.imm.toNat * 2 ^ 32 + (rdG c.th l f.gd.toNat).toNat % 2 ^ 32)) ∧
       R (.addl x f) f.guard f.gd 8 (fun l => BitVec.ofInt 64 ((rdG c.th l f.ga.toNat).toInt + f.imm.toInt)) ∧
       R (.orl x f) f.guard f.gd 8 (fun l => rdG c.th l f.ga.toNat ||| BitVec.ofNat 64 f.imm.toNat))) ∧
  (∀ (x : Issuer) (s : State) (c : Iss),
     let R (i : Instr) (guard : BitVec 4) (pd : BitVec 3) (v : Nat → Bool) : Prop :=
       Issues s i x c → Done i s x c 4 fun th => th.gpr = c.th.gpr ∧ th.tile = c.th.tile ∧ th.fcsr = c.th.fcsr ∧
         ∀ l p, l < 32 → rdP th l p = if l ∈ active c guard ∧ p = pd.toNat ∧ p ≠ 0 then v l else rdP c.th l p
     let cmp (k : Nat) (a b : W64) : Bool :=
       if k = 0 then a == b else if k = 1 then a != b else if k = 2 then decide (a.toInt < b.toInt)
       else if k = 3 then decide (a.toInt ≥ b.toInt) else if k = 4 then decide (a.toNat < b.toNat) else decide (a.toNat ≥ b.toNat)
     (∀ f : PF, R (.cmp x f) f.guard f.pd fun l => cmp f.cond.toNat (rdG c.th l f.ga.toNat) (rdG c.th l f.gb.toNat)) ∧
     (∀ f : PIF, R (.cmpi x f) f.guard f.pd fun l => cmp f.cond.toNat (rdG c.th l f.ga.toNat) (BitVec.ofInt 64 f.imm.toInt)) ∧
     (∀ f : PLF, R (.plog x f) f.guard f.pd fun l =>
       let a := rdP c.th l f.pa.toNat
       let b := rdP c.th l f.pb.toNat
       if f.op = 0 then a && b else if f.op = 1 then a || b else if f.op = 2 then xor a b else a && !b))

/-- The reconvergence stack after an issue: the lanes of the entry that issued stand at their targets, run on, and are gone
where the target is 0; the lanes that arrive at a barrier stay parked at its PC; the other entries' lanes stand where they
stood (R47, R48, R49).

A stack keeps its entries sorted by PC, lowest first, none empty, and a group runs the lowest-PC entry that is not parked
(R48, chapter 3, The reconvergence stack). -/
def Obligations.ReconvergenceStack : Prop :=
  (∀ (st : List SEntry) (e : SEntry) (target : Nat → W64) (parked : W32) (pk : Park) (l : Nat) (pc : W64) (k : Park),
     l < 32 → (∀ x ∈ st, x ≠ e → x.mask.getLsbD l = true → e.mask.getLsbD l = false) →
     let lane := e.mask.getLsbD l
     (At (stackIssue st e target parked pk) l pc k ↔
       if lane && parked.getLsbD l then pc = e.pc ∧ k = pk
       else if lane then target l ≠ 0 ∧ pc = target l ∧ k = .run
       else At (st.filter fun x => x ≠ e) l pc k)) ∧
  (∀ (st : List SEntry) (e : SEntry) (target : Nat → W64) (parked : W32) (pk : Park),
     let u := stackIssue st e target parked pk
     u.Pairwise (fun a b => a.pc.toNat ≤ b.pc.toNat) ∧ (∀ x ∈ u, x.mask ≠ 0) ∧
       ∀ x, topRun u = some x → x ∈ u ∧ x.park = .run ∧ ∀ y ∈ u, y.park = .run → x.pc.toNat ≤ y.pc.toNat)

/-- A control core past an instruction of `len` bytes: its registers as the instruction leaves them, its PC the next, every
other part of the device as before; with a step armed it takes STEP instead, its saved PC the next (R28, R43, table "TSTAT
and MSTAT").

A group past an instruction that does not leave it halted by a step: its registers as the instruction leaves them, its stack
as R48 moves it, one more instruction issued on its core, and every byte of memory as before (R46 to R48). -/
def Obligations.IssuersGoOn : Prop :=
  (∀ (n : Fin 96) (c : Iss) (s : State) (th : Threads) (len : Nat) (target : Nat → W64), c.x = .cc n →
     let q := { getCC s n with th := th }
     let next := c.pc + BitVec.ofNat 64 len
     (q.armed = false →
       finish c len (.go (setTh s (.cc n) th)) = setCC s n { q with pc := next } ∧
       finish c len (.jump (setTh s (.cc n) th) target) = setCC s n { q with pc := target 0 }) ∧
     (q.armed = true → finish c len (.go (setTh s (.cc n) th)) = setCC s n (takeTrap q cStep 0 next))) ∧
  (∀ (d : Fin 4) (k : Fin 24) (slot : Fin 128) (c : Iss) (s : State) (g : Group) (th : Threads) (len : Nat),
     c.x = .tc d k slot → getGroup s (coreKey d k) slot = some g → g.stepReq = false →
     (⟨c.pc, c.mask, .run⟩ : SEntry) ∈ g.stack → c.mask ≠ 0 → c.pc + BitVec.ofNat 64 len ≠ 0 →
     ∃ t, finish c len (.go (setTh s (.tc d k slot) th)) = t ∧
       getGroup t (coreKey d k) slot = some { g with
         th := th, stack := stackIssue g.stack ⟨c.pc, c.mask, .run⟩ (fun _ => c.pc + BitVec.ofNat 64 len) 0 .run } ∧
       (getCore t (coreKey d k)).issued = (getCore s (coreKey d k)).issued + 1 ∧
       (∀ j, j ≠ slot.val → getGroup t (coreKey d k) j = getGroup s (coreKey d k) j) ∧
       (∀ j, j ≠ coreKey d k → getCore t j = getCore s j) ∧
       SameMemory s t ∧ t.ccs = s.ccs ∧ t.dies = s.dies ∧ t.outbox = s.outbox)

/-- B, CALL and JR (table "ZIS mnemonics", R25, R31, R47): the lanes whose guard is true go to the target, the others to the
next instruction; CALL writes the return address to g15 and JR to gd; a JR whose target is no multiple of 4 in some lane
raises MISALIGNED with the lowest such lane's target. -/
def Obligations.BranchResults : Prop :=  ∀ (x : Issuer) (s : State) (c : Iss),
    let goes (act : List Nat) (t : Nat → W64) (l : Nat) : W64 := if l ∈ act then t l else c.pc + 4
    let J (i : Instr) (act : List Nat) (P : Threads → Prop) (t : Nat → W64) : Prop :=
      ∃ th, exec i s = .next (finish c 4 (.jump (setTh s x th) (goes act t))) ∧ SameButGpr c.th th ∧ P th
    (∀ f : BF, Issues s (.b x f) x c →
      exec (.b x f) s = .next (finish c 4 (.jump s (goes (active c f.guard) fun _ =>
        c.pc + BitVec.ofInt 64 (4 * f.off.toInt))))) ∧
    (∀ f : BF, Issues s (.call x f) x c →
      J (.call x f) (active c f.guard) (fun th => Writes c.th th (active c f.guard) 15 fun _ => c.pc + 4)
        fun _ => c.pc + BitVec.ofInt 64 (4 * f.off.toInt)) ∧
    (∀ f : IF, Issues s (.jr x f) x c →
      let t (l : Nat) : W64 := rdG c.th l f.ga.toNat + BitVec.ofInt 64 (4 * f.imm.toInt)
      ((∀ l ∈ active c f.guard, (t l).toNat % 4 = 0) →
        J (.jr x f) (active c f.guard) (fun th => Writes c.th th (active c f.guard) f.gd.toNat fun _ => c.pc + 4) t) ∧
      (∀ l ∈ active c f.guard, (t l).toNat % 4 ≠ 0 → (∀ k ∈ active c f.guard, k < l → (t k).toNat % 4 = 0) →
        ∃ m : W32, exec (.jr x f) s = .next (finish c 4 (.trap s 0x05 (t l).toNat m)) ∧
          ∀ k, k < 32 → (m.getLsbD k = true ↔ k ∈ active c f.guard ∧ (t k).toNat % 4 ≠ 0)))

/-- A control core's trap (R28): taken at monitor level from monitor level or where MDELEG does not delegate the cause, else at
supervisor level; status, cause, PC and value saved there, interrupts disabled, the PC at the vector.

A thread group that traps (R44, R70, R431): it halts, its die generates one record with the cause, the place, the PC, the
value, the lowest lane and the mask, numbered by the die's trap sequence, which rises by 1; the record of a hardware fault
leaves at once, that of any other cause stays with the group until its image is complete; no byte of memory changes. -/
def Obligations.TrapsTaken : Prop :=
  (∀ (c : CCore) (cause : Nat) (val pc : W64),
     let t := takeTrap c cause val pc
     let up : Bool := c.level = .monitor || !c.mdeleg.getLsbD cause
     t.th = c.th ∧ t.resv = none ∧
     (up = true → t.level = .monitor ∧ t.pc = c.mvec ∧ t.mpc = pc ∧ t.mval = val ∧ t.mcause = BitVec.ofNat 64 cause ∧
       t.mstat.getLsbD 2 = false ∧ t.mstat.getLsbD 3 = c.mstat.getLsbD 2 ∧ t.mstat.toNat % 4 = levelNat c.level ∧
       t.tstat = c.tstat ∧ t.tpc = c.tpc ∧ t.tcause = c.tcause ∧ t.tval = c.tval) ∧
     (up = false → t.level = .supervisor ∧ t.pc = c.tvec ∧ t.tpc = pc ∧ t.tval = val ∧ t.tcause = BitVec.ofNat 64 cause ∧
       t.tstat.getLsbD 2 = false ∧ t.tstat.getLsbD 3 = c.tstat.getLsbD 2 ∧ t.tstat.toNat % 4 = levelNat c.level ∧
       t.mstat = c.mstat ∧ t.mpc = c.mpc ∧ t.mcause = c.mcause ∧ t.mval = c.mval)) ∧
  (∀ (d : Fin 4) (k : Fin 24) (slot : Fin 128) (s : State) (g : Group) (cause : Nat) (val pc : W64) (lanes : W32),
     getGroup s (coreKey d k) slot = some g →
     let t := trapGroup s (coreKey d k) slot cause val pc lanes
     ∃ r : TrapRec, t.outbox = s.outbox ++ (if hardwareCause cause then [.trap r] else []) ∧ r.ctx = g.ctx ∧ r.cause = BitVec.ofNat 8 cause ∧ r.die.toNat = d.val ∧
       r.core.toNat = k.val ∧ r.group.toNat = slot.val ∧ r.pc = pc ∧ r.val = val ∧ r.lanemask = lanes ∧
       r.seq = BitVec.ofNat 32 (getDie s d).trapSeq ∧ (getDie t d).trapSeq = (getDie s d).trapSeq + 1 ∧
       (∀ l, l < 32 → lanes.getLsbD l = true → (∀ j, j < l → lanes.getLsbD j = false) → r.lane.toNat = l) ∧
       (∃ h, getGroup t (coreKey d k) slot = some h ∧ h.halting = true ∧ h.cause = cause ∧ h.th = g.th ∧ h.stack = g.stack ∧
         h.trapRec = if hardwareCause cause then none else some r) ∧
       t.mem = s.mem)

/-- TRAP and BRK (R41 to R44, R431): a lane whose guard is true meets the cause, SYSCALL from user level, MONITOR_CALL from
above, BREAKPOINT for BRK, with the code of the gb field as the value; a control core takes the trap there and then.

SRET and MRET on a control core with no step armed: the level and the enable before the trap are restored, execution resumes
at the saved PC, the reservation is cleared, and no general register or byte of memory changes (R28, R139). -/
def Obligations.CallsAndReturns : Prop :=
  (∀ (x : Issuer) (f : RF) (s : State) (c : Iss), active c f.guard ≠ [] →
     let code := f.gb.toNat
     let lanes := laneMask (active c f.guard)
     let call := if c.level = .user then 0x0B else 0x11
     (Issues s (.trap x f) x c →
       exec (.trap x f) s = .next (finish c 4 (.trap s call code lanes)) ∧
       ∀ n, x = .cc n → exec (.trap x f) s = .next (setCC s n (takeTrap (getCC s n) call (BitVec.ofNat 64 code) c.pc))) ∧
     (Issues s (.brk x f) x c →
       exec (.brk x f) s = .next (finish c 4 (.trap s 0x0C code lanes)) ∧
       ∀ n, x = .cc n → exec (.brk x f) s = .next (setCC s n (takeTrap (getCC s n) 0x0C (BitVec.ofNat 64 code) c.pc)))) ∧
  (∀ (n : Fin 96) (f : RF) (s : State) (c : Iss), active c f.guard ≠ [] → (getCC s n).armed = false →
     let q := getCC s n
     (Issues s (.sret (.cc n) f) (.cc n) c → Answers (.sret (.cc n) f) s fun t =>
       (getCC t n).level = levelOf (q.tstat.toNat % 4) ∧ (getCC t n).pc = q.tpc ∧
       (getCC t n).tstat.getLsbD 2 = q.tstat.getLsbD 3 ∧ (getCC t n).resv = none ∧ (getCC t n).th = q.th ∧ t.mem = s.mem) ∧
     (Issues s (.mret (.cc n) f) (.cc n) c → Answers (.mret (.cc n) f) s fun t =>
       (getCC t n).level = levelOf (q.mstat.toNat % 4) ∧ (getCC t n).pc = q.mpc ∧
       (getCC t n).mstat.getLsbD 2 = q.mstat.getLsbD 3 ∧ (getCC t n).resv = none ∧ (getCC t n).th = q.th ∧ t.mem = s.mem))

/-- A decode cause of an instruction that can be fetched traps whatever the guard says, in the whole running mask, with the
instruction's first word as its value (R29, R43, R431).

A fetch that the PC alone makes impossible, before any decode cause (R32, R33, R200, R215): on a throughput core a word of
the local-store window faults with reason LOCAL_STORE, the second word of a long form too; below monitor level a word at a
non-canonical address faults with reason NONCANONICAL. A group halts as the fault's waiter; a control core takes
TRANSLATION.

Misaligned accesses (R31): a lane whose address is no multiple of the size raises MISALIGNED with that address, and no byte
of memory changes. -/
def Obligations.CausesTrap : Prop :=
  (∀ (x : Issuer) (s : State) (c : Iss) (cause : Nat),
     let T (i : Instr) (len : Nat) : Prop := issOf s x (wordOf i) = some c → fetchBad c i = none → decodeCause s c i = some cause →
       exec i s = .next (finish c len (.trap s cause (wordOf i).toNat c.mask))
     (∀ f : RF, T (.add x f) 4 ∧ T (.clz x f) 4 ∧ T (.shfl x f) 4 ∧ T (.trap x f) 4 ∧ T (.sret x f) 4 ∧ T (.mret x f) 4 ∧
       T (.waiti x f) 4 ∧ T (.xinv x f) 4 ∧ T (.gbar x f) 4 ∧ T (.watch x f) 4 ∧ T (.fadd x f) 4) ∧
     (∀ f : IF, T (.srd x f) 4 ∧ T (.swr x f) 4 ∧ T (.addi x f) 4) ∧ (∀ f : XF, T (.mstream x f) 4) ∧
     (∀ f : LF, T (.movl x f) 8) ∧ (∀ f : SF, T (.ld x f) 4 ∧ T (.st x f) 4)) ∧
  (∀ (s : State) (c : Iss) (d : Fin 4) (k : Fin 24) (slot : Fin 128) (n : Fin 96),
     let P (x : Issuer) (t : State) (i : Instr) : Prop := issOf s x (wordOf i) = some c → exec i s = .next t
     let All (x : Issuer) (t : State) : Prop :=
       (∀ f : RF, P x t (.add x f) ∧ P x t (.brk x f) ∧ P x t (.shfl x f) ∧ P x t (.fadd x f) ∧ P x t (.isync x f)) ∧
       (∀ f : IF, P x t (.addi x f) ∧ P x t (.jr x f)) ∧ (∀ f : BF, P x t (.b x f) ∧ P x t (.call x f)) ∧
       (∀ f : LF, P x t (.movl x f)) ∧ (∀ f : SF, P x t (.ld x f) ∧ P x t (.st x f))
     let pc := c.pc.toNat
     (0xFFFFFFFFFFA00000 ≤ pc → All (.tc d k slot) (faultGroup s (coreKey d k) slot .fetch 3 pc 5 7)) ∧
     (pc = 0xFFFFFFFFFF9FFFFC → ∀ f : LF,
       P (.tc d k slot) (faultGroup s (coreKey d k) slot .fetch 3 0xFFFFFFFFFFA00000 5 7) (.movl (.tc d k slot) f)) ∧
     (2 ^ 56 ≤ pc → pc < 2 ^ 64 - 2 ^ 56 →
       All (.tc d k slot) (faultGroup s (coreKey d k) slot .fetch 3 pc 3 7) ∧
       (c.level ≠ .monitor → All (.cc n) (modCC s n fun q => takeTrap q 0x06 (BitVec.ofNat 64 pc) c.pc)))) ∧
  (∀ (n : Fin 96) (s : State) (c : Iss) (va : Nat),
     let M (i : Instr) (guard : BitVec 4) (size : Nat) : Prop := Issues s i (.cc n) c → active c guard = [0] →
       (getCC s n).sb = [] → va % size ≠ 0 → ∃ t, exec i s = .next (modCC t n fun q => takeTrap q 0x05 (BitVec.ofNat 64 va) c.pc) ∧
         SameMemory s t ∧ getCC t n = getCC s n
     (∀ f : SF, va = (rdG c.th 0 f.ga.toNat + BitVec.ofInt 64 (f.imm.toInt * szBytes f.sz)).toNat →
       M (.ld (.cc n) f) f.guard (szBytes f.sz) ∧ M (.st (.cc n) f) f.guard (szBytes f.sz) ∧
       M (.ldv (.cc n) f) f.guard (szBytes f.sz) ∧ M (.ldres (.cc n) f) f.guard (szBytes f.sz)) ∧
     (∀ f : ScF, va = (rdG c.th 0 f.ga.toNat + BitVec.ofInt 64 (f.imm.toInt * szBytes f.sz)).toNat →
       M (.acq (.cc n) f) f.guard (szBytes f.sz) ∧ M (.rel (.cc n) f) f.guard (szBytes f.sz)) ∧
     (∀ f : AF, va = (rdG c.th 0 f.ga.toNat).toNat → M (.amoAdd (.cc n) f) f.guard (if f.dbl then 8 else 4) ∧
       M (.amoCas (.cc n) f) f.guard (if f.dbl then 8 else 4)) ∧
     (∀ (f : RF) (dbl : Bool), va = (rdG c.th 0 f.ga.toNat).toNat → M (.stcond (.cc n) f dbl) f.guard (if dbl then 8 else 4)))

/-- The FP32 instructions (R114, R115): gd of the running lanes whose guard is true takes the value of the operation under the
lane's rounding mode, with bits [63:32] zero but for FCVT.I, and FCSR of those lanes keeps its rounding mode and every flag
it had and gains the flags raised; FCMP writes its predicate; nothing else of the registers changes.

FP32 special values (R114, R115): any NaN result is 0x7FC0_0000; a NaN operand gives it, and a signalling one raises
invalid; infinity times zero in FMA gives it with invalid whatever the addend; FMIN and FMAX answer the other operand;
comparisons with a NaN are false but for UN, LT and LE raising invalid; conversions saturate. -/
def Obligations.FloatResults : Prop :=
  (∀ (x : Issuer) (s : State) (c : Iss),
     let flags (u : Threads) (act : List Nat) (raised : Nat → Nat) : Prop :=
       ∀ l, l < 32 → rdF u l = if l ∈ act then rdF c.th l ||| BitVec.ofNat 7 (raised l) else rdF c.th l
     let rm (l : Nat) : Nat := (rdF c.th l).toNat % 4
     let g (l : Nat) (r : BitVec 6) : W64 := rdG c.th l r.toNat
     let w (l : Nat) (r : BitVec 6) : W32 := (g l r).setWidth 32
     let R (i : Instr) (f : RF) (v : Nat → W64 × Nat) : Prop :=
       Issues s i x c → Done i s x c 4 fun th => th.pred = c.th.pred ∧ th.tile = c.th.tile ∧
         Writes c.th th (active c f.guard) f.gd.toNat (fun l => (v l).1) ∧ flags th (active c f.guard) (fun l => (v l).2)
     let z (r : W32 × Nat) : W64 × Nat := (r.1.setWidth 64, r.2)
     (∀ f : RF,
       R (.fadd x f) f (fun l => z (fpAdd (rm l) (w l f.ga) (w l f.gb))) ∧
       R (.fsub x f) f (fun l => z (fpSub (rm l) (w l f.ga) (w l f.gb))) ∧
       R (.fmul x f) f (fun l => z (fpMul (rm l) (w l f.ga) (w l f.gb))) ∧
       R (.fma x f) f (fun l => z (fpMa (rm l) (w l f.ga) (w l f.gb) (w l f.gd))) ∧
       R (.fdiv x f) f (fun l => z (fpDiv (rm l) (w l f.ga) (w l f.gb))) ∧
       R (.fsqrt x f) f (fun l => z (fpSqrt (rm l) (w l f.ga))) ∧
       R (.fmin x f) f (fun l => z (fpMinMax false (w l f.ga) (w l f.gb))) ∧
       R (.fmax x f) f (fun l => z (fpMinMax true (w l f.ga) (w l f.gb))) ∧
       R (.fcvtI x f) f (fun l => fpToInt (rm l) (w l f.ga)) ∧
       R (.fcvtF x f) f (fun l => z (fpOfInt (rm l) (g l f.ga)))) ∧
     (∀ f : PF, Issues s (.fcmp x f) x c → Done (.fcmp x f) s x c 4 fun th =>
       th.gpr = c.th.gpr ∧ th.tile = c.th.tile ∧
       (∀ l p, l < 32 → rdP th l p = if l ∈ active c f.guard ∧ p = f.pd.toNat ∧ p ≠ 0
         then (fpCmp f.cond.toNat (w l f.ga) (w l f.gb)).1 else rdP c.th l p) ∧
       flags th (active c f.guard) (fun l => (fpCmp f.cond.toNat (w l f.ga) (w l f.gb)).2))) ∧
  (∀ (rm : Nat) (a b c : W32),
     let nan (v : W32) : Bool := (v.toNat / 2 ^ 23) % 256 = 255 && v.toNat % 2 ^ 23 ≠ 0
     let snan (v : W32) : Bool := nan v && !v.getLsbD 22
     let inf (v : W32) : Bool := (v.toNat / 2 ^ 23) % 256 = 255 && v.toNat % 2 ^ 23 = 0
     let zero (v : W32) : Bool := v.toNat % 2 ^ 31 = 0
     (nan a || nan b → ∀ r ∈ [fpAdd rm a b, fpSub rm a b, fpMul rm a b, fpDiv rm a b],
       r = (0x7FC00000, if snan a || snan b then 64 else 0)) ∧
     (nan a → fpSqrt rm a = (0x7FC00000, if snan a then 64 else 0)) ∧
     (inf a && zero b || zero a && inf b → fpMa rm a b c = (0x7FC00000, 64)) ∧
     (∀ mx, (nan a && nan b → (fpMinMax mx a b).1 = 0x7FC00000) ∧ (nan a && !nan b → (fpMinMax mx a b).1 = b) ∧
       (!nan a && nan b → (fpMinMax mx a b).1 = a) ∧ (fpMinMax mx a b).2 = if snan a || snan b then 64 else 0) ∧
     (nan a || nan b → fpCmp 1 a b = (false, 64) ∧ fpCmp 2 a b = (false, 64) ∧ (fpCmp 3 a b).1 = true ∧
       fpCmp 0 a b = (false, if snan a || snan b then 64 else 0)) ∧
     (nan a → fpToInt rm a = (0, 64)) ∧
     fpToInt rm 0x7F800000 = (0x7FFFFFFF, 64) ∧ fpToInt rm 0xFF800000 = (0xFFFFFFFF80000000, 64) ∧
     fpMinMax false 0x80000000 0 = (0x80000000, 0) ∧ fpMinMax true 0x80000000 0 = (0, 0))

/-- LD, LD.V, ACQ and LDRES of a control core at monitor level: gd, and gd + 1 for Q, take the bytes of memory at the address,
extended as R30 says; the other registers and all of memory keep their values; LDRES also reserves the line (R138).

ST and REL of a control core at monitor level: the store enters the store buffer with its address and bytes, memory keeps
every byte until it is performed, and the core's reservation is dropped; BARS and BARF then perform a buffered store: memory
takes its bytes and keeps every other, and the buffer is empty (R123, R124, R133). -/
def Obligations.MonitorLoadsStores : Prop :=
  (∀ (n : Fin 96) (s : State) (c : Iss),
     let at_ (ga : BitVec 6) (sz : BitVec 3) (imm : BitVec 7) : Nat :=
       (rdG c.th 0 ga.toNat + BitVec.ofInt 64 (imm.toInt * szBytes sz)).toNat
     let P (gd : BitVec 6) (sz : BitVec 3) (va : Nat) (t : State) : Prop :=
       let v := leNat (memBytes s va (szBytes sz))
       (∀ r, 0 < r → r < 64 → rdG (getCC t n).th 0 r =
         if r = gd.toNat then (if sz = 4 then BitVec.ofNat 64 (v % 2 ^ 64) else loaded sz v)
         else if sz = 4 ∧ r = gd.toNat + 1 then BitVec.ofNat 64 (v / 2 ^ 64) else rdG c.th 0 r) ∧
       SameButGpr c.th (getCC t n).th ∧ (getCC t n).pc = c.pc + 4 ∧ SameMemory s t
     let L (i : Instr) (guard : BitVec 4) (gd ga : BitVec 6) (sz : BitVec 3) (imm : BitVec 7) (Q : State → Prop) : Prop :=
       MonitorRuns s i n c guard → MonitorReach s n (at_ ga sz imm) (szBytes sz) false →
         Answers i s fun t => P gd sz (at_ ga sz imm) t ∧ Q t
     (∀ f : SF, L (.ld (.cc n) f) f.guard f.gd f.ga f.sz f.imm (fun _ => True) ∧
       L (.ldv (.cc n) f) f.guard f.gd f.ga f.sz f.imm (fun _ => True) ∧
       L (.ldres (.cc n) f) f.guard f.gd f.ga f.sz f.imm (fun t => (getCC t n).resv = some (at_ f.ga f.sz f.imm / 128))) ∧
     (∀ f : ScF, L (.acq (.cc n) f) f.guard f.gd f.ga f.sz f.imm (fun _ => True))) ∧
  (∀ (n : Fin 96) (s : State) (c : Iss),
     let S (i : Instr) (guard : BitVec 4) (gd ga : BitVec 6) (sz : BitVec 3) (imm : BitVec 7) : Prop :=
       let va := (rdG c.th 0 ga.toNat + BitVec.ofInt 64 (imm.toInt * szBytes sz)).toNat
       MonitorRuns s i n c guard → MonitorReach s n va (szBytes sz) true →
         Answers i s fun t => ∃ p : PStore, (getCC t n).sb = [p] ∧ p.pa = va ∧ p.sys = true ∧
           p.bytes.length = szBytes sz ∧ (sz ≠ 4 → leNat p.bytes = (rdG c.th 0 gd.toNat).toNat % 256 ^ szBytes sz) ∧
           (sz = 4 → leNat p.bytes = (rdG c.th 0 gd.toNat).toNat + 2 ^ 64 * (rdG c.th 0 (gd.toNat + 1)).toNat) ∧
           (getCC t n).th = c.th ∧ (getCC t n).pc = c.pc + 4 ∧ (getCC t n).resv = none ∧ SameMemory s t
     (∀ f : SF, S (.st (.cc n) f) f.guard f.gd f.ga f.sz f.imm) ∧ (∀ f : ScF, S (.rel (.cc n) f) f.guard f.gd f.ga f.sz f.imm) ∧
     (∀ (f : RF) (p : PStore) (i : Instr), i = .bars (.cc n) f ∨ (i = .barf (.cc n) f ∧ (getCC s n).xinv = []) →
       Issues s i (.cc n) c → active c f.guard = [0] → (getCC s n).armed = false → (getCC s n).sb = [p] →
       (∀ r ∈ s.fabric.out, r.who ≠ .cc n) → lineDeferred s (agentCC n * 4096) (p.pa / 128) = false → NoSilt s p.pa →
       Answers i s fun t => (getCC t n).sb = [] ∧ (getCC t n).th = c.th ∧ (getCC t n).pc = c.pc + 4 ∧
         t.mem = mwriteN s.mem p.pa p.bytes))

/-- STCOND of a control core at monitor level (R140): where its reservation is of the line it stores gb and gd takes 0, else
memory keeps every byte and gd takes 1; the reservation ends either way.

The atomics of a control core at monitor level (R56, R143, table "ZIS mnemonics"): memory takes the operation of its old
value and gb, CAS comparing with gd, and every other byte stays; gd takes the old value, a word in its low half (its upper
half is open, assumption 10).

A combined atomic gives memory and each lane what the lanes would see one after another in lane order, for every operation
but FADD; FADD.W reaches the home as one lane-ordered sum, each lane receiving the value with the sum of the lanes before it
(R56, R57). -/
def Obligations.AtomicAccesses : Prop :=
  (∀ (n : Fin 96) (f : RF) (dbl : Bool) (s : State) (c : Iss),
     let va := (rdG c.th 0 f.ga.toNat).toNat
     let size := if dbl then 8 else 4
     let holds : Bool := (getCC s n).resv = some (va / 128)
     MonitorRuns s (.stcond (.cc n) f dbl) n c f.guard → MonitorReach s n va size true → NoSilt s va →
       Answers (.stcond (.cc n) f dbl) s fun t =>
         t.mem = (if holds then mwriteN s.mem va (natLe size (rdG c.th 0 f.gb.toNat).toNat) else s.mem) ∧
         (getCC t n).resv = none ∧ (getCC t n).pc = c.pc + 4 ∧ SameButGpr c.th (getCC t n).th ∧
         ∀ r, 0 < r → r < 64 → rdG (getCC t n).th 0 r = if r = f.gd.toNat then (if holds then 0 else 1) else rdG c.th 0 r) ∧
  (∀ (n : Fin 96) (f : AF) (s : State) (c : Iss),
     let va := (rdG c.th 0 f.ga.toNat).toNat
     let size := if f.dbl then 8 else 4
     let m := 256 ^ size
     let old := leNat (memBytes s va size)
     let b := (rdG c.th 0 f.gb.toNat).toNat % m
     let cmp := (rdG c.th 0 f.gd.toNat).toNat % m
     let signed (v : Nat) : Int := if 2 * v < m then v else (v : Int) - m
     let A (i : Instr) (new : Nat) : Prop :=
       MonitorRuns s i n c f.guard → MonitorReach s n va size true → NoSilt s va →
         Answers i s fun t => t.mem = mwriteN s.mem va (natLe size new) ∧ (getCC t n).pc = c.pc + 4 ∧
           SameButGpr c.th (getCC t n).th ∧
           (∀ r, 0 < r → r < 64 → r ≠ f.gd.toNat → rdG (getCC t n).th 0 r = rdG c.th 0 r) ∧
           (f.gd ≠ 0 → (rdG (getCC t n).th 0 f.gd.toNat).toNat % m = old)
     A (.amoAdd (.cc n) f) ((old + b) % m) ∧ A (.amoAnd (.cc n) f) (old &&& b) ∧ A (.amoOr (.cc n) f) (old ||| b) ∧
     A (.amoXor (.cc n) f) (old ^^^ b) ∧ A (.amoMin (.cc n) f) (if signed old ≤ signed b then old else b) ∧
     A (.amoMax (.cc n) f) (if signed old ≤ signed b then b else old) ∧ A (.amoSwap (.cc n) f) b ∧
     A (.amoCas (.cc n) f) (if old = cmp then b else old) ∧ A (.amoMinu (.cc n) f) (min old b) ∧
     A (.amoMaxu (.cc n) f) (max old b) ∧
     A (.amoFadd (.cc n) f) (fpAdd 0 (BitVec.ofNat 32 old) (BitVec.ofNat 32 b)).1.toNat) ∧
  (∀ (op : AmoOp) (w v : Nat) (items : List (Nat × Nat × Nat)),
     let run : List (Nat × Nat × Nat) → Nat → Nat := List.foldr (fun x k u => k (amoApply op w u x.2.1 x.2.2)) id
     let sum : List (Nat × Nat × Nat) → Option Nat := List.foldl (fun acc x => match acc with
       | none => some x.2.1
       | some a => some (amoApply .fadd w a x.2.1 0)) none
     let value (xs : List (Nat × Nat × Nat)) : Nat :=
       if op = .fadd then (match sum xs with | none => v | some a => amoApply .fadd w v a 0) else run xs v
     (amoFold op w v none items).1 = value items ∧
     ∀ j, j < items.length → (amoFold op w v none items).2[j]? = some ((items[j]?.map Prod.fst).getD 0, value (items.take j)))

/-- The local-store window of a throughput core (R32, R55): LD, LD.V and ACQ give every lane the byte at its offset of its own
core's local store, extended; ST and REL write it there, the highest lane's value where several lanes write one address; HBM
keeps every byte. -/
def Obligations.LocalStoreWindow : Prop :=  ∀ (d : Fin 4) (k : Fin 24) (slot : Fin 128) (s : State) (c : Iss) (va : Nat → Nat) (size : Nat),
    let x : Issuer := .tc d k slot
    let key := coreKey d k
    let win := 2 ^ 64 - 6 * 2 ^ 20
    let ls := (getCore s key).ls
    let quiet : Prop := (getCore s key).port = [] ∧ (∀ r ∈ s.fabric.out, r.who ≠ x) ∧ Memory.wf ls = true
    let L (i : Instr) (act : List Nat) (gd ga : BitVec 6) (sz : BitVec 3) (imm : BitVec 7) : Prop :=
      Issues s i x c → quiet → sz ≠ 4 → size = szBytes sz →
      (∀ l, va l = (rdG c.th l ga.toNat + BitVec.ofInt 64 (imm.toInt * size)).toNat) →
      (∀ l ∈ act, win ≤ va l ∧ va l % size = 0) →
      ∃ th t, exec i s = .next (finish c 4 (.go (setTh t x th))) ∧ SameMemory s t ∧ (getCore t key).ls = ls ∧
        SameButGpr c.th th ∧ Writes c.th th act gd.toNat fun l => loaded sz (leNat (mreadN ls (va l - win) size))
    let S (i : Instr) (act : List Nat) (gd ga : BitVec 6) (sz : BitVec 3) (imm : BitVec 7) : Prop :=
      Issues s i x c → quiet → sz ≠ 4 → size = szBytes sz →
      (∀ l, va l = (rdG c.th l ga.toNat + BitVec.ofInt 64 (imm.toInt * size)).toNat) →
      (∀ l ∈ act, win ≤ va l ∧ va l % size = 0) →
      ∃ t, exec i s = .next (finish c 4 (.go t)) ∧ SameMemory s t ∧
        (∀ l ∈ act, (∀ j ∈ act, va j = va l → j ≤ l) →
          leNat (mreadN (getCore t key).ls (va l - win) size) = (rdG c.th l gd.toNat).toNat % 256 ^ size) ∧
        (∀ a, (∀ l ∈ act, ¬ (va l - win ≤ a ∧ a < va l - win + size)) → mread (getCore t key).ls a = mread ls a)
    (∀ f : SF, L (.ld x f) (active c f.guard) f.gd f.ga f.sz f.imm ∧ L (.ldv x f) (active c f.guard) f.gd f.ga f.sz f.imm ∧
      S (.st x f) (active c f.guard) f.gd f.ga f.sz f.imm) ∧
    (∀ f : ScF, L (.acq x f) (active c f.guard) f.gd f.ga f.sz f.imm ∧ S (.rel x f) (active c f.guard) f.gd f.ga f.sz f.imm)

/-- BARL changes nothing but the PC; ISYNC discards the core's instruction cache (R129, R133).

GBAR and CBAR (R48, R50, R52): the lanes whose guard is true park at the barrier and the others go on; where the group's one
entry arrives whole, GBAR lets it go on at the next instruction at once, and so does the CBAR of a cohort of that group
alone. -/
def Obligations.FetchLoadGroupBarriers : Prop :=
  (∀ (x : Issuer) (f : RF) (s : State) (c : Iss),
     (Issues s (.barl x f) x c → exec (.barl x f) s = .next (finish c 4 (.go s))) ∧
     (Issues s (.isync x f) x c → active c f.guard ≠ [] → ∃ t, exec (.isync x f) s = .next (finish c 4 (.go t)) ∧
       t.mem = s.mem ∧ (∀ d k slot, x = .tc d k slot → getCore t (coreKey d k) = { getCore s (coreKey d k) with icache := [] }) ∧
       (∀ n, x = .cc n → getCC t n = { getCC s n with icache := [] }))) ∧
  (∀ (d : Fin 4) (k : Fin 24) (slot : Fin 128) (f : RF) (s : State) (g : Group) (c : Iss),
     let x : Issuer := .tc d k slot
     let key := coreKey d k
     let e : SEntry := ⟨c.pc, c.mask, .run⟩
     let whole : Prop := getGroup s key slot = some g ∧ g.stack = [e] ∧ laneMask (active c f.guard) = c.mask ∧ c.mask ≠ 0 ∧
       g.stepReq = false ∧ g.gstate = .running ∧ g.halting = false
     let on (t : State) : Prop := ∃ h, getGroup t key slot = some h ∧ h.stack = [{ e with pc := c.pc + 4 }] ∧ h.th = g.th ∧
       t.mem = s.mem
     (Issues s (.gbar x f) x c →
       exec (.gbar x f) s = .next (finish c 4 (.park s (laneMask (active c f.guard)) .gbar)) ∧ (whole → Answers (.gbar x f) s on)) ∧
     (Issues s (.cbar x f) x c →
       exec (.cbar x f) s = .next (finish c 4 (.park s (laneMask (active c f.guard)) .cbar)) ∧
       (whole → g.arrived = none → (∃ co, cohortOf (getCore s key) g = some co ∧ co.slots = [slot.val] ∧ co.away = 0) →
         Answers (.cbar x f) s on)))

/-- SHFL and BALLOT (R432): every lane is read before any is written; BALLOT counts the running lanes whose guard and predicate
are true. -/
def Obligations.LanesSeeLanes : Prop :=  ∀ (d : Fin 4) (k : Fin 24) (slot : Fin 128) (f : RF) (s : State) (c : Iss),
    let x : Issuer := .tc d k slot
    (Issues s (.shfl x f) x c → Done (.shfl x f) s x c 4 fun th => SameButGpr c.th th ∧
      Writes c.th th (active c f.guard) f.gd.toNat fun l => rdG c.th ((rdG c.th l f.gb.toNat).toNat % 32) f.ga.toNat) ∧
    (Issues s (.ballot x f) x c → Done (.ballot x f) s x c 4 fun th => SameButGpr c.th th ∧
      ∃ m : W32, (∀ i, i < 32 → (m.getLsbD i = true ↔ i ∈ active c f.guard ∧ rdP c.th i f.gb.toNat = true)) ∧
        Writes c.th th (active c f.guard) f.gd.toNat fun _ => m.setWidth 64)

/-- TDSET, TDGETL and TDGETH (table "ZIS mnemonics", R59): TDSET sets one tile register from the lowest active lane, its high
half from gb and its low half from ga, and nothing else; the reads give each active lane the low or high half. -/
def Obligations.TileRegisterAccess : Prop :=  ∀ (x : Issuer) (f : RF) (s : State) (c : Iss),
    (∀ l, l ∈ active c f.guard → (∀ j ∈ active c f.guard, l ≤ j) → Issues s (.tdset x f) x c →
      Done (.tdset x f) s x c 4 fun th => th.gpr = c.th.gpr ∧ th.pred = c.th.pred ∧ th.fcsr = c.th.fcsr ∧
        ∀ n, (rdT th n).toNat = if n = f.gd.toNat then
          (rdG c.th l f.gb.toNat).toNat * 2 ^ 64 + (rdG c.th l f.ga.toNat).toNat else (rdT c.th n).toNat) ∧
    (Issues s (.tdgetl x f) x c → Done (.tdgetl x f) s x c 4 fun th => SameButGpr c.th th ∧
      Writes c.th th (active c f.guard) f.gd.toNat fun _ => BitVec.ofNat 64 ((rdT c.th f.ga.toNat).toNat % 2 ^ 64)) ∧
    (Issues s (.tdgeth x f) x c → Done (.tdgeth x f) s x c 4 fun th => SameButGpr c.th th ∧
      Writes c.th th (active c f.guard) f.gd.toNat fun _ => BitVec.ofNat 64 ((rdT c.th f.ga.toNat).toNat / 2 ^ 64))

/-- TMOVE within the local store, TWAIT and TMOVE_COMPLETE (R37, R60, R145): a legal TMOVE joins the group's outstanding ones
and no byte moves yet; TWAIT holds the group while more than n are outstanding and lets it on otherwise; on completion every
row of the destination holds the source's bytes, the rest of the local store and all of HBM are unchanged, and the record is
gone. -/
def Obligations.TileMoves : Prop :=  ∀ (d : Fin 4) (k : Fin 24) (slot : Fin 128) (f : TF) (s : State) (c : Iss) (g : Group),
    let x : Issuer := .tc d k slot
    let key := coreKey d k
    let src := tdOf (rdT c.th f.ts.toNat)
    let dst := tdOf (rdT c.th f.td.toNat)
    (Issues s (.tmove x f) x c → getGroup s key slot = some g → active c f.guard ≠ [] → tmoveOk true f.rop.toNat src dst = true →
      src.space = true → dst.space = true → g.tmoves.length < 32 →
      ∃ t r, exec (.tmove x f) s = .next (finish c 4 (.go t)) ∧ r.td = rdT c.th f.td.toNat ∧ r.ts = rdT c.th f.ts.toNat ∧
        r.rop = f.rop.toNat ∧ getGroup t key slot = some { g with tmoves := g.tmoves ++ [r] } ∧
        (getCore t key).ls = (getCore s key).ls ∧ t.mem = s.mem) ∧
    (Issues s (.twait x f) x c → getGroup s key slot = some g → active c f.guard ≠ [] →
      exec (.twait x f) s = .next (if f.n.toNat < g.tmoves.length then s else finish c 4 (.go s))) ∧
    (∀ (i : Nat) (r : TMoveRec), running s = true → getGroup s key slot = some g → g.stack ≠ [] → g.tmoves[i]? = some r →
      r.bad = none → r.ids = [] → r.wrote = false → r.rop = 0 → r.src = [] → r.dst = [] → s.ccs = [] →
      tmoveOk true 0 (tdOf r.ts) (tdOf r.td) = true → (tdOf r.ts).space = true → (tdOf r.td).space = true →
      Memory.wf (getCore s key).ls = true →
      Answers (.tmoveComplete x i) s fun t =>
        let a := tdOf r.ts
        let b := tdOf r.td
        (∀ row j, row < b.rows → j < rowLen b →
          mread (getCore t key).ls (b.base + row * b.stride + j) = mread (getCore s key).ls (a.base + row * a.stride + j)) ∧
        (∀ p, (∀ row j, row < b.rows → j < rowLen b → p ≠ b.base + row * b.stride + j) →
          mread (getCore t key).ls p = mread (getCore s key).ls p) ∧
        (∃ h, getGroup t key slot = some h ∧ h.tmoves = dropNth g.tmoves i ∧ h.th = g.th ∧ h.stack = g.stack) ∧ t.mem = s.mem)

/-- The matrix instructions at the queue (R59, R61, R60): with no cause and fewer than sixteen queued, MLOAD, MSTREAM, MSWAP and
an MDRAIN into the local store go to the end of the queue, and the group counts one more; with sixteen queued they hold the
group; MWAIT holds it while any of its own is incomplete.

Matrix instructions start and complete in order (R75, R76, R88): the first in the queue starts when nothing it needs is
outstanding; MSWAP exchanges the banks' roles, MLOAD tags and fills the shadow bank, and a stop or a start moves no byte of
HBM; a started one that writes the local store or nothing completes, leaves the queue, and its group counts one less.

The array's current-hold (R93, R378): a taper that ends leaves the array idle under no ramp ceiling, its hold rows counted;
32 cycles raise a ramp ceiling by one, to 16 at most. -/
def Obligations.MatrixArray : Prop :=
  (∀ (d : Fin 4) (k : Fin 24) (slot : Fin 128) (f : XF) (s : State) (c : Iss) (g : Group),
     let x : Issuer := .tc d k slot
     let key := coreKey d k
     let a := (getCore s key).array
     let t := tdOf (rdT c.th f.ta.toNat)
     let Q (i : Instr) (kind : MKind) (cause : Option Nat) : Prop :=
       Issues s i x c → getGroup s key slot = some g → active c f.guard ≠ [] → cause = none →
       (16 ≤ a.queue.length → exec i s = .next s) ∧
       (a.queue.length < 16 → ∃ u m, exec i s = .next (finish c 4 (.go u)) ∧ m.kind = kind ∧ m.ta = rdT c.th f.ta.toNat ∧
         m.shape = f.shape.toNat ∧ m.acc = f.acc.toNat ∧ m.zero = decide (f.zero = 1) ∧ m.slot = slot.val ∧ m.started = false ∧
         (getCore u key).array.queue = a.queue ++ [m] ∧ (getCore u key).ls = (getCore s key).ls ∧
         (∃ h, getGroup u key slot = some h ∧ h.matrix = g.matrix + 1 ∧ h.th = g.th) ∧ u.mem = s.mem)
     Q (.mload x f) .mload (mloadCause f.shape.toNat t) ∧
     Q (.mstream x f) .mstream (mstreamCause (aProject a) f.shape.toNat (f.zero = 1) f.acc.toNat t
       (tdOf (rdT c.th (12 + f.acc.toNat)))) ∧
     Q (.mswap x f) .mswap none ∧
     (t.space = true → Q (.mdrain x f) .mdrain (mdrainCause (aProject a) f.acc.toNat t)) ∧
     (Issues s (.mwait x f) x c → getGroup s key slot = some g → active c f.guard ≠ [] →
       exec (.mwait x f) s = .next (if g.matrix ≠ 0 then s else finish c 4 (.go s)))) ∧
  (∀ (d : Fin 4) (k : Fin 24) (s : State) (m : MInstr) (r : List MInstr),
     let key := coreKey d k
     let a := (getCore s key).array
     running s = true → a.queue = m :: r →
     (m.started = false → canStart (getCore s key) m 0 = true →
       (m.kind = .mswap → Answers (.matrixStart d k 0) s fun t => (getCore t key).array.activeB = !a.activeB ∧
         (getCore t key).array.bankA = a.bankA ∧ (getCore t key).array.bankB = a.bankB ∧
         (getCore t key).array.queue = { m with started := true } :: r ∧ t.mem = s.mem) ∧
       (m.kind = .mload → m.shape < 5 → Answers (.matrixStart d k 0) s fun t =>
         (getCore t key).array.activeB = a.activeB ∧
         (if a.activeB then (getCore t key).array.bankB = a.bankB ∧ tagOf (getCore t key).array.bankA =
             { shape := m.shape, grp := matGroup (tdOf m.ta).fmt, triple := 0 }
           else (getCore t key).array.bankA = a.bankA ∧ tagOf (getCore t key).array.bankB =
             { shape := m.shape, grp := matGroup (tdOf m.ta).fmt, triple := 0 }) ∧
         (getCore t key).ls = (getCore s key).ls ∧ t.mem = s.mem)) ∧
     (∀ g, m.started = true → m.ids = [] → m.bad = none → m.kind = .mload ∨ m.kind = .mswap → m.pages = [] → s.ccs = [] →
       getGroup s key m.slot = some g → g.stack ≠ [] →
       Answers (.matrixComplete d k 0) s fun t => (getCore t key).array.queue = r ∧
         (∃ h, getGroup t key m.slot = some h ∧ h.matrix = g.matrix - 1 ∧ h.stack = g.stack) ∧ t.mem = s.mem)) ∧
  (∀ (d : Fin 4) (k : Fin 24) (s : State),
     let key := coreKey d k
     let a := (getCore s key).array
     (a.phase = .taper → Answers (.holdTaperEnd d k) s fun t =>
       (getCore t key).array = { a with phase := .idle, ramp := 16, holds := a.holds + holdRows a.taperR 1250 } ∧ t.mem = s.mem) ∧
     Answers (.rampStep d k) s fun t => (getCore t key).array = { a with ramp := min 16 (a.ramp + 1) } ∧ t.mem = s.mem)

/-- SRD and SWR (R40, tables "System registers" and "FCSR"): a control core's SWR of a supervisor or monitor register but GCTL
makes it read the written value without its reserved bits, and leaves every other system register, every general register
and all of memory; SRD gives a core's register to gd; FCSR is per lane, and LANE, GROUPID, COREID, CTXID and TIMER read as
the table says. -/
def Obligations.SystemRegisterAccess : Prop :=  ∀ (f : IF) (s : State),
    let num := f.imm.toNat
    (∀ (n : Fin 96) (c : Iss), Issues s (.swr (.cc n) f) (.cc n) c → active c f.guard = [0] →
      num ∈ [0x100, 0x101, 0x102, 0x103, 0x104, 0x105, 0x106, 0x107, 0x200, 0x201, 0x202, 0x203, 0x204, 0x205, 0x206] →
      ∃ t, exec (.swr (.cc n) f) s = .next (finish c 4 (.go t)) ∧ sysOfCC t n num = rdG c.th 0 f.ga.toNat &&& sysMask num ∧
        (∀ j, 0x100 ≤ j → j ≠ num → j ≠ 0x109 → sysOfCC t n j = sysOfCC s n j) ∧ (getCC t n).th = c.th ∧ t.mem = s.mem) ∧
    (∀ (x : Issuer) (c : Iss), Issues s (.swr x f) x c → num = 6 → Done (.swr x f) s x c 4 fun th =>
      th.gpr = c.th.gpr ∧ th.pred = c.th.pred ∧ th.tile = c.th.tile ∧ ∀ l, l < 32 →
        rdF th l = if l ∈ active c f.guard then (rdG c.th l f.ga.toNat).setWidth 7 else rdF c.th l) ∧
    (∀ (n : Fin 96) (c : Iss), Issues s (.srd (.cc n) f) (.cc n) c → 0x100 ≤ num → Done (.srd (.cc n) f) s (.cc n) c 4 fun th =>
      SameButGpr c.th th ∧ Writes c.th th (active c f.guard) f.gd.toNat fun _ => sysOfCC s n num) ∧
    (∀ (n : Fin 96) (c : Iss), Issues s (.srd (.cc n) f) (.cc n) c → num < 0x100 → Done (.srd (.cc n) f) s (.cc n) c 4 fun th =>
      SameButGpr c.th th ∧ Writes c.th th (active c f.guard) f.gd.toNat fun l =>
        if num = 0 ∨ num = 1 then 0 else if num = 2 then BitVec.ofNat 64 (4 * 2 ^ 8 + n.val)
        else if num = 3 then BitVec.ofNat 64 c.ctx.toNat else if num = 4 then (getDie s 4).timer
        else if num = 5 then (match getCtx s c.ctx.toNat with | some q => if q.nrflag then 1 else 0 | none => 0)
        else BitVec.ofNat 64 (rdF c.th l).toNat) ∧
    (∀ (d : Fin 4) (k : Fin 24) (slot : Fin 128) (c : Iss), Issues s (.srd (.tc d k slot) f) (.tc d k slot) c → num < 0x100 →
      Done (.srd (.tc d k slot) f) s (.tc d k slot) c 4 fun th =>
      SameButGpr c.th th ∧ Writes c.th th (active c f.guard) f.gd.toNat fun l =>
        if num = 0 then BitVec.ofNat 64 l else if num = 1 then BitVec.ofNat 64 slot.val
        else if num = 2 then BitVec.ofNat 64 (d.val * 2 ^ 8 + k.val) else if num = 3 then BitVec.ofNat 64 c.ctx.toNat
        else if num = 4 then (getDie s d).timer
        else if num = 5 then (match getCtx s c.ctx.toNat with | some q => if q.nrflag then 1 else 0 | none => 0)
        else BitVec.ofNat 64 (rdF c.th l).toNat)

/-- Interrupts (R42): a source joins the pending list at its end unless it is already there; while interrupts are enabled at the
level that takes them, the oldest source is taken: the trap of cause 0x20 with the source as its value, and it leaves the
list. WAITI goes on once the list is not empty and holds the core, nothing changed, while it is. -/
def Obligations.InterruptsTaken : Prop :=  ∀ (n : Fin 96) (s : State),
    let q := getCC s n
    (∀ source : BitVec 24, halyard s = true → Answers (.interrupt n source) s fun t =>
      (getCC t n).irq = (if source.toNat ∈ q.irq then q.irq else q.irq ++ [source.toNat]) ∧ (getCC t n).pc = q.pc ∧
      (getCC t n).th = q.th ∧ t.mem = s.mem) ∧
    (∀ src rest, q.irq = src :: rest → ccReady s q = true → irqEnabled q = true → Answers (.interruptTaken n) s fun t =>
      getCC t n = takeTrap { q with irq := rest } 0x20 (BitVec.ofNat 64 src) q.pc ∧ t.mem = s.mem) ∧
    (q.irq = [] ∨ irqEnabled q = false → exec (.interruptTaken n) s = .next s) ∧
    (∀ (f : RF) (c : Iss), Issues s (.waiti (.cc n) f) (.cc n) c → active c f.guard ≠ [] →
      exec (.waiti (.cc n) f) s = .next (if q.irq = [] then s else finish c 4 (.go s)))

/-- XINV and its messages (R224, R240): XINV records itself and sends one invalidation to each of the five dies; a die that
receives one drops what it names from its translation caches and, with no engine of its own holding a page, reports; the
report takes the die off the record, which the fifth report ends.

TRANSLATION_WALK (R202, R211, R213): what the walk comes to goes to the requester: the leaf, which the die caches, or the
reason and level of a fault. -/
def Obligations.TranslationMessages : Prop :=
  (∀ (n : Fin 96) (f : RF) (s : State) (c : Iss),
     (Issues s (.xinv (.cc n) f) (.cc n) c → active c f.guard = [0] → (getCC s n).armed = false →
       let gb := (rdG c.th 0 f.gb.toNat).toNat % 8192
       let ga := (rdG c.th 0 f.ga.toNat).toNat
       Answers (.xinv (.cc n) f) s fun t =>
         (∃ r : XinvRec, (getCC t n).xinv = (getCC s n).xinv ++ [r] ∧ r.gb = gb ∧ r.ga = ga ∧ r.dies = [0, 1, 2, 3, 4]) ∧
         t.outbox = s.outbox ++ [0, 1, 2, 3, 4].map (fun d => Out.invalidation d n gb ga) ∧ (getCC t n).pc = c.pc + 4 ∧
         t.mem = s.mem) ∧
     (∀ (d : Fin 5) (gb : BitVec 13) (ga : W64) (r : XinvRec), halyard s = true → (getCC s n).xinv = [r] → r.gb = gb.toNat →
       r.ga = ga.toNat → r.seen = [] → r.dies = [0, 1, 2, 3, 4] → r.waits = [] →
       Answers (.translationInvalidation d n gb ga) s fun t =>
         (getCC t n).xinv = [{ r with seen := [d.val] }] ∧ t.outbox = s.outbox ++ [.workDone 2 d 0 ga.toNat] ∧
         (getDie t d).xlat = xinvTab (getDie s d).xlat gb.toNat ga.toNat ∧ t.mem = s.mem) ∧
     (∀ (d : Fin 5) (ga : W64) (r : XinvRec), halyard s = true → (getCC s n).xinv = [r] → r.ga = ga.toNat → d.val ∈ r.dies →
       d.val ∈ r.seen → r.waits = [] → Answers (.workDoneInvalidation d n ga) s fun t =>
         (getCC t n).xinv = (if r.dies.filter (fun j => j ≠ d.val) = [] then [] else
           [{ r with dies := r.dies.filter fun j => j ≠ d.val }]) ∧ t.mem = s.mem)) ∧
  (∀ (pool : Fin 5) (ctx : BitVec 12) (va : W64) (acc : Acc) (s s1 : State),
     let res := walk s pool ctx.toNat (ctxRoot s ctx.toNat) va.toNat acc true
     running s = true → (getCtx s ctx.toNat).isSome = true →
     (∀ l, res = (s1, .ok l) → Answers (.translationWalk pool ctx va acc) s fun t =>
       t.outbox = s1.outbox ++ [.walked pool ctx.toNat va.toNat (some l) 0 0] ∧ t = { s1 with dies := t.dies, outbox := t.outbox } ∧
       (tfind (getDie t pool).xlat (pageKey ctx.toNat va.toNat) = some l)) ∧
     (∀ reason level, res = (s1, .fault reason level) → exec (.translationWalk pool ctx va acc) s =
       .next { s1 with outbox := s1.outbox ++ [.walked pool ctx.toNat va.toNat none reason level] }))

/-- EPOCH (R278, R287, R288): with nothing of the core outstanding, gd takes the number of the epoch that will commit, one above
the committed one, and the request goes to the job's coordinator; for a context with no protected job gd takes all ones and
nothing is sent.

A device's part in a commit (R287 to R289): PREPARE from the job's coordinator stops its groups for the next epoch; once
every part of the job stands at the cut PREPARED goes back; COMMIT opens the next epoch, frees the epoch's copies and
answers COMMITTED; ABANDON goes on with the open epoch; QUERY is answered with the slot's state and committed epoch. -/
def Obligations.EpochCommit : Prop :=
  (∀ (n : Fin 96) (f : RF) (s : State) (c : Iss),
     Issues s (.epoch (.cc n) f) (.cc n) c → active c f.guard = [0] → (getCC s n).sb = [] → (getCC s n).xinv = [] →
     (getCC s n).armed = false → (∀ r ∈ s.fabric.out, r.who ≠ .cc n) →
     (epochNumber s c.ctx.toNat = none → Answers (.epoch (.cc n) f) s fun t =>
       Writes c.th (getCC t n).th [0] f.gd.toNat (fun _ => BitVec.allOnes 64) ∧ t.outbox = s.outbox ∧ t.mem = s.mem) ∧
     (∀ q, getCtx s c.ctx.toNat = some q → (getSlot s q.slot).protect ≠ 0 →
       let sl := getSlot s q.slot
       Answers (.epoch (.cc n) f) s fun t =>
         Writes c.th (getCC t n).th [0] f.gd.toNat (fun _ => BitVec.ofNat 64 (sl.committed + 1)) ∧
         t.outbox = s.outbox ++ [.epoch (coordOf s sl) sl.job 1 0 (sl.committed + 1)] ∧
         (getCC t n).inEpoch = (inCommitSet s n || (getCC s n).inEpoch) ∧ t.mem = s.mem)) ∧
  (∀ (src job : W16) (gen : W32) (epoch : W64) (slot : Byte) (s : State) (j : Nat),
     let sl := getSlot s j
     let e := epoch.toNat
     let sent : Prop := halyard s = true ∧ slotOfJob s job.toNat = some j ∧
       ((sl.devices = 1 ∧ src.toNat = s.fabric.device) ∨ (managerOk s src.toNat gen.toNat false = true ∧ s.fabric.gen = gen.toNat))
     (sent → sl.protect ≠ 0 → e = sl.committed + 1 → sl.state = 1 ∨ sl.state = 5 → sl.cutFor = none →
       (∀ k ∈ ctxsOfSlot s j, (getCtx s k).map Ctx.saved = some []) → SortedCores s → Answers (.epochPrepare src gen job epoch) s fun t =>
         getSlot t j = { sl with state := 2, cutFor := some e } ∧ t.mem = s.mem ∧
         ∀ key n g, getGroup s key n = some g → g.ctx.toNat ∈ ctxsOfSlot s j →
           getGroup t key n = some { g with cutReq := true }) ∧
     (∀ c, slot.toNat = j → sl.cutFor = some c → running s = true → atCutAll s j = true → Answers (.cutReached slot) s fun t =>
       getSlot t j = { sl with cutFor := none } ∧ t.outbox = s.outbox ++ [.epoch (coordOf s sl) sl.job 3 0 c] ∧
       (∀ k ∈ ctxsOfSlot s j, ∃ y, getCtx t k = some y ∧ y.cut = some (snapOf s k)) ∧
       t = { s with epochs := t.epochs, disp := t.disp, outbox := t.outbox }) ∧
     (sent → sl.protect = 1 → sl.state = 2 → sl.cutFor = none → e = sl.committed + 1 → tsorted s.epochs.silt = true →
       Answers (.epochCommit src gen job epoch) s fun t =>
         getSlot t j = { sl with
           committed := e
           copied := []
           state := 1
           overflowed := false
           asked := false
           hold := sl.holdNext
           commits := sl.commits + 1 } ∧
         t.outbox.getLast? = some (.epoch (coordOf s sl) sl.job 5 0 e) ∧
         ∀ i r, tfind s.epochs.silt i = some r → r.slot = j → r.kind = 1 → r.epoch ≤ e →
           (tget s.disp.tracks r.part {}).on = false → tfind t.epochs.silt i = none) ∧
     (sent → sl.state = 2 → e = sl.committed + 1 → Answers (.epochAbandon src gen job epoch) s fun t =>
       getSlot t j = { sl with state := if sl.overflowed then 5 else 1, cutFor := none, asked := false } ∧ t.mem = s.mem ∧
       t.outbox = s.outbox) ∧
     (sent → exec (.epochQuery src gen job) s =
       .next { s with outbox := s.outbox ++ [.epoch src.toNat sl.job 15 sl.state sl.committed] }))

/-- A device's part in a rollback (R290 to R292): STOP tears the job's contexts down, and STOPPED follows where no request of
the job is outstanding; RESTORE gives a logged frame the bytes its copy holds, sets the committed epoch to the target and
answers RESTORED, or waits while a failed path that ended the job's requests leads outside the job (R293); RESUME makes torn
contexts live again and counts the rollback.

The coordinator (R287, R289, R290, R296): a request for the next epoch starts a commit with PREPARE to every device of the
job; the last PREPARED records the epoch and sends COMMIT, the last COMMITTED ends the commit; a fault that replay resolves
sends STOP, the last STOPPED sends RESTORE, the last RESTORED sends RESUME; a STATE that has committed decides for COMMIT;
the buddy's word that an epoch is mirrored advances the mirrored epoch. -/
def Obligations.EpochRollback : Prop :=
  (∀ (src job : W16) (gen : W32) (target : W64) (s : State) (j k : Nat) (c : Ctx),
     let sl := getSlot s j
     let t0 := target.toNat
     let sent : Prop := halyard s = true ∧ slotOfJob s job.toNat = some j ∧
       ((sl.devices = 1 ∧ src.toNat = s.fabric.device) ∨ (managerOk s src.toNat gen.toNat false = true ∧ s.fabric.gen = gen.toNat))
     (sent → sl.protect ≠ 0 → sl.state ≠ 6 → ctxsOfSlot s j = [k] → getCtx s k = some c → c.state ≠ .ended → k < 4096 →
       groupsOf s (BitVec.ofNat 12 k) = [] → arraysOf s (BitVec.ofNat 12 k) = [] → s.disp.entries = [] → coresOfSlot s j = [] →
       Answers (.epochStop src gen job) s fun t => (getCtx t k).map Ctx.state = some .torn ∧ t.mem = s.mem ∧
         (getSlot t j).state = (if sl.state = 4 then 4 else 3) ∧
         (s.fabric.out = [] → sl.reload = [] → (getSlot t j).stopping = false ∧
           t.outbox = s.outbox ++ [.epoch (coordOf s sl) sl.job 9 0 sl.committed])) ∧
     (∀ i r, sent → sl.state = 3 → sl.stopping = false → t0 ≤ sl.committed → recordsOf s j (fun e => decide (t0 < e)) = [(i, r)] →
       pathsBlocked s j = false → tfind s.epochs.silt i = some r → r.kind = 1 → (tget s.disp.tracks r.part {}).on = false → i < siltN s →
       5120 + siltP s ≤ r.frame → (∀ o ∈ s.hbm.own, o.2.poison = false) → ctxsOfSlot s j = [] → Memory.wf s.mem = true →
       Answers (.epochRestore src gen job target) s fun t =>
         (∀ a, a < 65536 → mread t.mem (r.frame * 65536 + a) = mread s.mem (siltSlotPa s i + a)) ∧
         (∀ a, a / 65536 ≠ r.frame → (a < siltBase + 32 * i ∨ siltBase + 32 * i + 32 ≤ a) → mread t.mem a = mread s.mem a) ∧
         getSlot t j = { sl with
           committed := t0
           copied := []
           target := t0
           far := []
           restoreAt := none } ∧
         t.outbox.getLast? = some (.epoch (coordOf s sl) sl.job 11 0 t0)) ∧
     (sent → sl.state = 3 → sl.stopping = false → t0 ≤ sl.committed → pathsBlocked s j = true →
       Answers (.epochRestore src gen job target) s fun t => getSlot t j = { sl with restoreAt := some t0 } ∧ t.mem = s.mem ∧
         t.outbox = s.outbox) ∧
     (sent → sl.state = 3 → sl.stopping = false → (∀ n y, getCtx s n = some y → y.replay = []) → getCtx s k = some c →
       k ∈ ctxsOfSlot s j → Answers (.epochResume src gen job) s fun t =>
         getSlot t j = { sl with
           state := if sl.overflowed then 5 else 1
           rollbacks := sl.rollbacks + 1
           faultClass := 0 } ∧
         (getCtx t k).map Ctx.state = some (if c.state = .torn then .live else c.state) ∧ t.mem = s.mem)) ∧
  (∀ (src job : W16) (epoch : W64) (cls state : Byte) (s : State) (c : Coord),
     let n := job.toNat
     let ds := devicesOf s n
     let toAll (kind e : Nat) : List Out := s.outbox ++ ds.map fun d => Out.epoch d n kind 0 e
     let becomes (t : State) (x : Coord) : Prop := findCoord t n = some x ∧ t = { s with epochs := t.epochs, outbox := t.outbox }
     let last (phase : Nat) : Prop := findCoord s n = some c ∧ c.phase = phase ∧ src.toNat ∈ ds ∧
       ∀ d ∈ ds, d = src.toNat ∨ d ∈ c.answered
     halyard s = true → coordinates s n = true → c.job = n →
     (findCoord s n = some c → c.phase = 0 → epoch.toNat = c.recorded + 1 → protectOf s n ≠ 2 →
       Answers (.epochRequest src job epoch) s fun t => t.outbox = toAll 2 epoch.toNat ∧
         becomes t { c with phase := 1, epoch := epoch.toNat, answered := [], wants := false }) ∧
     (findCoord s n = some c → c.phase = 0 → epoch.toNat = c.recorded + 1 → protectOf s n = 2 → c.mirrored ≠ c.recorded →
       Answers (.epochRequest src job epoch) s fun t => t.outbox = s.outbox ∧ becomes t { c with wants := true }) ∧
     (last 1 → epoch.toNat = c.epoch → Answers (.epochPrepared src job epoch) s fun t => t.outbox = toAll 4 c.epoch ∧
       becomes t { c with phase := 2, recorded := c.epoch, answered := [] }) ∧
     (last 2 → epoch.toNat = c.epoch → Answers (.epochCommitted src job epoch) s fun t => t.outbox = s.outbox ∧
       becomes t { c with phase := 0, answered := [] }) ∧
     (findCoord s n = some c → c.phase ≠ 3 → c.phase ≠ 4 → classEnds (protectOf s n) cls.toNat = false →
       Answers (.epochFault src job cls) s fun t => t.outbox = toAll 8 0 ∧
         becomes t { c with
           phase := 3
           epoch := if 5 ≤ cls.toNat then c.mirrored else c.recorded
           recorded := if 5 ≤ cls.toNat then c.mirrored else c.recorded
           answered := []
           wants := false }) ∧
     (last 3 → Answers (.epochStopped src job) s fun t => t.outbox = toAll 10 c.epoch ∧
       becomes t { c with phase := 4, answered := [] }) ∧
     (last 4 → Answers (.epochRestored src job) s fun t => t.outbox = toAll 12 0 ∧
       becomes t { c with phase := 0, answered := [] }) ∧
     (findCoord s n = some c → c.phase = 5 → epoch.toNat = c.epoch → Answers (.epochState src job state epoch) s fun t =>
       t.outbox = toAll 4 c.epoch ∧ becomes t { c with phase := 2, recorded := c.epoch, answered := [] }) ∧
     (findCoord s n = some c → (∀ i, slotOfJob s n = some i → (getSlot s i).buddy ≠ src.toNat) → c.wants = false →
       Answers (.epochMirrored src job epoch) s fun t => t.outbox = s.outbox ∧
         becomes t { c with mirrored := max c.mirrored epoch.toNat }))

/-- WATCH and UNWATCH of a control core at monitor level (R322, table "ZIS mnemonics"): WATCH of a line with fewer than four
handles, under a quota not used up, gives gd a handle that names the line and the core and counts against the partition;
with the quota used up it gives all ones; UNWATCH of such a handle frees it and gives the quota back. -/
def Obligations.WatchedLines : Prop :=  ∀ (n : Fin 96) (f : RF) (s : State) (c : Iss),
    let va := (rdG c.th 0 f.ga.toNat).toNat
    let p := getPart s c.part
    active c f.guard = [0] → c.level = .monitor → (getCC s n).armed = false →
    (Issues s (.watch (.cc n) f) (.cc n) c → va % 128 = 0 → paPass s .sys false va = true →
      (p.watchQuota ≤ p.watches → Answers (.watch (.cc n) f) s fun t =>
        Writes c.th (getCC t n).th [0] f.gd.toNat (fun _ => BitVec.allOnes 64) ∧ t.disp.watches = s.disp.watches) ∧
      (p.watches < p.watchQuota → (s.disp.watches.filter fun w => w.2.line = va / 128).length < 4 → (∃ h < 16384, tfind s.disp.watches h = none) →
        Answers (.watch (.cc n) f) s fun t => ∃ h, h < 16384 ∧ tfind s.disp.watches h = none ∧
          Writes c.th (getCC t n).th [0] f.gd.toNat (fun _ => BitVec.ofNat 64 h) ∧
          tfind t.disp.watches h = some { line := va / 128, consumer := .cc n, part := c.part, ctx := c.ctx } ∧
          (getPart t c.part).watches = p.watches + 1 ∧ t.mem = s.mem)) ∧
    (∀ w m, Issues s (.unwatch (.cc n) f) (.cc n) c → tsorted s.disp.watches = true →
      tfind s.disp.watches (rdG c.th 0 f.gb.toNat).toNat = some w → w.consumer = .cc m → w.part = c.part →
      Answers (.unwatch (.cc n) f) s fun t => tfind t.disp.watches (rdG c.th 0 f.gb.toNat).toNat = none ∧
        (getPart t c.part).watches = p.watches - 1 ∧ t.mem = s.mem)

/-- GCTL on the group GSEL selects (R70, R71): halt marks a running group of a context with a debug area to halt; resume and
single-step reload a halted group from an image that passes the check, and it runs again, a step armed for single-step.

GROUP_HALT and WORK_DONE_GROUP_IMAGE (R70, R72, R240): a halting group at an instruction boundary whose engines and stores
are done shows halted, or trapped with its cause; with a place for its image the dispatcher is told; a hardware cause writes
no image. The dispatcher's learning of an image changes nothing more. -/
def Obligations.GroupDebug : Prop :=
  (∀ (n : Fin 96) (f : IF) (s : State) (c : Iss) (k slot : Nat) (g : Group) (x : Ctx),
     let runs (i : Instr) (cmd : Nat) : Prop := Issues s i (.cc n) c ∧ active c f.guard = [0] ∧ f.imm = 0x108 ∧
       rdG c.th 0 f.ga.toNat = BitVec.ofNat 64 cmd ∧ selected s n = some (k, slot, g) ∧ getCtx s g.ctx.toNat = some x ∧
       x.debugOk = true
     let back (i : Instr) (cmd : Nat) (step : Bool) : Prop := runs i cmd → g.gstate = .halted →
       ∀ pa, imagePlace s k slot g = some pa → (∀ j, j < 134 → linePoisoned s (pa / 128 + j) = false) →
       imageOk (imageOf (memBytes s pa 17024)) g.alloc = true →
       (∃ e ∈ imageStack (imageOf (memBytes s pa 17024)), e.park = .run) →
       ∃ t h, exec i s = .next (finish c 4 (.go t)) ∧ getGroup t k slot = some h ∧ h.gstate = .running ∧ h.stepReq = step ∧
         h.th = imageThreads (imageOf (memBytes s pa 17024)) ∧ h.stack = imageStack (imageOf (memBytes s pa 17024)) ∧
         (g.cutReq = false → t.mem = s.mem)
     (runs (.gctlHalt (.cc n) f) 1 → g.gstate = .running → g.halting = false →
       ∃ t, exec (.gctlHalt (.cc n) f) s = .next (finish c 4 (.go t)) ∧
         getGroup t k slot = some { g with halting := true, cause := 0 } ∧ t.mem = s.mem) ∧
     back (.gctlResume (.cc n) f) 2 false ∧ back (.gctlSingleStep (.cc n) f) 3 true) ∧
  (∀ (d : Fin 4) (k : Fin 24) (slot : Fin 128) (ctx : BitVec 12) (s : State) (g : Group),
     let key := coreKey d k
     let shown : GState := if g.cause = 0 then .halted else .trapped
     exec (.workDoneGroupImage d k slot ctx) s = .next s ∧
     (running s = true → getGroup s key slot = some g → g.halting = true → g.tmoves = [] → g.matrix = 0 → g.waitIds = [] →
       g.stack ≠ [] ∨ g.cause ≠ 0 → (getCore s key).port = [] →
       Answers (.groupHalt d k slot) s fun t =>
         getGroup t key slot = some { g with
           halting := false
           gstate := shown
           faultRec := none } ∧
         (hardwareCause g.cause = true → t.outbox = s.outbox ∧ t.mem = s.mem) ∧
         (hardwareCause g.cause = false → ∀ x, getCtx s g.ctx.toNat = some x → x.debugOk = false →
           ∃ o, t.outbox = o ++ Out.workDone 3 d k slot :: ((g.trapRec.map Out.trap).toList ++
             (g.faultRec.map (Out.fault (.group d k slot))).toList))) ∧
     (running s = true → getGroup s key slot = some g → g.halting = true → g.tmoves ≠ [] ∨ g.matrix ≠ 0 ∨ g.waitIds ≠ [] →
       exec (.groupHalt d k slot) s = .next s))

/-- RD, RES and RLOCK at a home whose line is in V (R138, R157, R244, table "Memory and coherence opcodes"): each is answered
with the granules its header names, the line stays in V and no byte of memory changes; RES leaves the thread one
reservation, on this line; RLOCK leaves the line locked by its source with RP set; RD leaves reservations and locks as they
were. -/
def Obligations.HomeReads : Prop :=  ∀ (h : ReqHdr) (s : State),
    let ln := h.line.toNat
    let gm := if h.bsize.toNat < 4 then 2 ^ ((granules h.gmask.toNat).headD 0) else h.gmask.toNat
    let reply := answerTo h 0x20 0 0 gm (maskBytes s (ln * 128) gm)
    let only (t : State) : Prop := OtherLines s t ln ∧ t = { s with homes := t.homes, outbox := t.outbox }
    HomeReady s h false →
    (Answers (.rd h) s fun t => t.outbox = s.outbox ++ [reply] ∧ t.mem = s.mem ∧ (getLine t ln).st = .V ∧
      (getLine t ln).lock = none ∧ t.homes.resvs = s.homes.resvs ∧ only t) ∧
    (Answers (.res h) s fun t => t.outbox = s.outbox ++ [reply] ∧ t.mem = s.mem ∧ (getLine t ln).st = .V ∧
      hasResv t (reqBy h).key ln = true ∧ (∀ r ∈ t.homes.resvs, r.who = (reqBy h).key → r.line = ln) ∧ only t) ∧
    (Answers (.rlock h) s fun t => t.outbox = s.outbox ++ [reply] ∧ t.mem = s.mem ∧ (getLine t ln).st = .V ∧
      (getLine t ln).lock = some h.src.toNat ∧ (getLine t ln).rp = true ∧ t.homes.resvs = s.homes.resvs ∧ only t)

/-- WRF, WRP, SCOND, WUNLOCK and AMO at a home (R57, R140, R157, R172, R244): a write changes exactly the bytes its header
names, ends every reservation of the line and is answered; a conditional store without a reservation writes nothing and
answers 4; WUNLOCK frees the line; an atomic leaves the operation's result and answers the old value. -/
def Obligations.HomeWrites : Prop :=  ∀ (h : ReqHdr) (data : List Byte) (s : State),
    let ln := h.line.toNat
    let pa := ln * 128
    let gs := granules h.gmask.toNat
    let key := (reqBy h).key
    let freed (t : State) : Prop := (∀ r ∈ t.homes.resvs, r.line ≠ ln ∧ r.who ≠ key) ∧ OtherLines s t ln ∧
      t = { s with homes := t.homes, ccs := t.ccs, mem := t.mem, outbox := t.outbox }
    let inMask (a : Nat) : Prop := ∃ g ∈ gs, pa + 16 * g ≤ a ∧ a < pa + 16 * g + 16
    QuietLine s ln →
    (HomeReady s h true → data.length = 128 → Answers (.wrf h data) s fun t => Wrote s t pa data ∧ freed t ∧
      (getLine t ln).st = .V ∧ (getLine t ln).dirty = true ∧ (getLine t ln).poison = h.poison ∧
      t.outbox = s.outbox ++ [answerTo h 0x21 0 0 0 []]) ∧
    (HomeReady s h true → h.bsize.toNat < 4 → h.boff.toNat + subLen h ≤ 16 → data.length = 16 → Answers (.wrp h data) s fun t =>
      Wrote s t (pa + subOff h) ((data.drop h.boff.toNat).take (subLen h)) ∧ freed t ∧
      t.outbox = s.outbox ++ [answerTo h 0x21 0 0 0 []]) ∧
    (HomeReady s h true → 4 ≤ h.bsize.toNat → gs ≠ [] → data.length = 16 * gs.length → Answers (.wrp h data) s fun t =>
      maskBytes t pa h.gmask.toNat = data ∧ (∀ a, ¬ inMask a → mread t.mem a = mread s.mem a) ∧ freed t ∧
      t.outbox = s.outbox ++ [answerTo h 0x21 0 0 0 []]) ∧
    (HomeReady s h true → hasResv s key ln = true → h.boff.toNat + subLen h ≤ 16 → data.length = 16 →
      Answers (.scond h data) s fun t => Wrote s t (pa + subOff h) ((data.drop h.boff.toNat).take (subLen h)) ∧ freed t ∧
      t.outbox = s.outbox ++ [answerTo h 0x23 0 0 0 []]) ∧
    (HomeReady s h true → hasResv s key ln = false → Answers (.scond h data) s fun t => t.mem = s.mem ∧
      (∀ r ∈ t.homes.resvs, r.who ≠ key) ∧ t.outbox = s.outbox ++ [answerTo h 0x23 4 0 0 []] ∧
      t = { s with homes := t.homes, outbox := t.outbox }) ∧
    (∀ op dbl, HomeReady s h true → aopOf h.aop.toNat = some (op, dbl) → data.length = 16 → Answers (.amo h data) s fun t =>
      let n := if dbl then 8 else 4
      let old := leNat (memBytes s (pa + subOff h) n)
      Wrote s t (pa + subOff h) (natLe n (if op = .cas then
        amoApply .cas (8 * n) old (leNat ((data.drop 8).take n)) (leNat (data.take n))
        else amoApply op (8 * n) old (leNat (data.take n)) 0)) ∧
      t.outbox = s.outbox ++ [answerTo h 0x22 0 0 0 (natLe 8 old)]) ∧
    (let l := getLine s ln
     domainUp s = true → halyard s = true → 2 ^ 28 ≤ pa → paPass s (reqWho h) true pa = true → l.st = .V → l.pend = [] →
      l.lock = some h.src.toNat → l.hint = false → tfind s.homes.deferred ln = none → resvDefers s key ln = false →
      h.poison = false → gs ≠ [] → data.length = 16 * gs.length → Answers (.wunlock h data) s fun t =>
      maskBytes t pa h.gmask.toNat = data ∧ (∀ a, ¬ inMask a → mread t.mem a = mread s.mem a) ∧
      (getLine t ln).lock = none ∧ t.outbox = s.outbox ++ [answerTo h 0x21 0 0 0 []])

/-- Control-core requests at a home (R157, R159, R165): CRD of a line in V leaves it in X with its source as owner, CRDO the
same and ready to be modified; both send the line's 128 bytes. CWB of the owner writes the line, leaves it in V with D set
and is acknowledged; CEVN of the owner leaves it in V; of a holder it leaves the other holders. A read by another agent of a
line in X sends the directory a DREQ of KIND 0 and the line waits in K.

The directory, the HBM controllers and the answers they give (R157 to R160, R178, R191): DREQ of a line no control core
holds answers NOHOLD, of one held in X or S answers DRSP; FILL answers both lines of the 256-byte access; WBK of a line that
has left writes its 128 bytes; FILLDATA, DRSP and NOHOLD settle the line that awaits them. -/
def Obligations.CoherenceRequests : Prop :=
  (∀ (h : ReqHdr) (data : List Byte) (s : State),
     let ln := h.line.toNat
     let pa := ln * 128
     let l := getLine s ln
     let src := h.src.toNat
     let up : Prop := domainUp s = true ∧ halyard s = true ∧ tfind s.homes.deferred ln = none ∧ l.pend = [] ∧ l.lock = none
     (HomeReady s h false → Answers (.crd h) s fun t => (getLine t ln).st = .X ∧ (getLine t ln).owner = src ∧ t.mem = s.mem ∧
       t.outbox = s.outbox ++ [answerTo h 0x30 0 0 0xFF (memBytes s pa 128)]) ∧
     (HomeReady s h true → Answers (.crdo h) s fun t => (getLine t ln).st = .X ∧ (getLine t ln).owner = src ∧
       (getLine t ln).mod = true ∧ (∀ r ∈ t.homes.resvs, r.line ≠ ln) ∧ t.mem = s.mem ∧
       t.outbox = s.outbox ++ [answerTo h 0x30 0 0 0xFF (memBytes s pa 128)]) ∧
     (up → l.st = .X → l.owner = src → h.poison = false → data.length = 128 → Memory.wf s.mem = true →
       Answers (.cwb h data) s fun t => Wrote s t pa data ∧ (getLine t ln).st = .V ∧ (getLine t ln).dirty = true ∧
         t.outbox = s.outbox ++ [answerTo h 0x21 0 0 0 []]) ∧
     (up → l.st = .X → l.owner = src → Answers (.cevn h) s fun t => (getLine t ln).st = .V ∧ (getLine t ln).dirty = l.dirty ∧
       t.mem = s.mem ∧ t.outbox = s.outbox) ∧
     (up → l.st = .S → Answers (.cevn h) s fun t => (getLine t ln).sharers = l.sharers.filter (fun c => c ≠ src) ∧
       (getLine t ln).st = (if l.sharers.filter (fun c => c ≠ src) = [] then .V else .S) ∧ t.mem = s.mem ∧ t.outbox = s.outbox) ∧
     (up → l.st = .X → l.hint = true → l.owner ≠ src → paPass s (reqWho h) false pa = true →
       Answers (.rd h) s fun t => (getLine t ln).st = .K ∧ (getLine t ln).snoop = 0 ∧ (getLine t ln).pend = [⟨0x01, h, 0, []⟩] ∧
         t.mem = s.mem ∧ t.outbox = s.outbox ++ [.req 0x15 h 0 []])) ∧
  (∀ (h : ReqHdr) (kind : BitVec 4) (r : RspHdr) (data : List Byte) (s : State),
     let up : Prop := domainUp s = true ∧ halyard s = true
     let ln := h.line.toNat
     let l := getLine s ln
     let rl := r.line.toNat
     let m := getLine s rl
     (up → kind.toNat ≤ 2 → tfind s.homes.deferred ln = none → resvDefers s (reqBy h).key ln = false → s.ccs = [] →
       (l.st = .I ∨ l.st = .V → Answers (.dreq h kind) s fun t => t.outbox = s.outbox ++ [answerTo h 0x32 0 0 0 []] ∧
         t.mem = s.mem ∧ t.homes.lines = s.homes.lines) ∧
       (l.st = .X ∨ l.st = .S → l.poison = false → 2 ^ 28 ≤ ln * 128 → Answers (.dreq h kind) s fun t =>
         t.outbox = s.outbox ++ [answerTo h 0x31 0 0 0 (if l.mod then mreadN s.mem (ln * 128) 128 else [])] ∧
         t.mem = s.mem ∧ t.homes.lines = s.homes.lines)) ∧
     (up → 2 ^ 28 ≤ ln * 128 → paPass s (reqWho h) false (ln * 128) = true → (getOwn s (ln / 512)).poison = false →
       (getOwn s (ln / 512)).lost = false → Answers (.fill h) s fun t => t.mem = s.mem ∧ t.homes = s.homes ∧
         ∃ a b : RspHdr, t.outbox = s.outbox ++ [.rsp 0x25 a 0 (mreadN s.mem (ln / 2 * 256) 128),
           .rsp 0x25 b 0 (mreadN s.mem (ln / 2 * 256 + 128) 128)] ∧ a.line.toNat = ln / 2 * 2 ∧ b.line.toNat = ln / 2 * 2 + 1 ∧
           a.txn = h.txn ∧ b.txn = h.txn ∧ a.status = 0 ∧ b.status = 0) ∧
     (up → covered s (ln * 128) = true → l.st = .I ∨ l.st = .W → data.length = 128 → Memory.wf s.mem = true → h.poison = false →
       Answers (.wbk h data) s fun t => Wrote s t (ln * 128) data ∧ t.outbox = s.outbox ++ [answerTo h 0x21 0 0 0 []] ∧
         t.homes = s.homes) ∧
     (up → m.st = .F → m.pend = [] → r.poison = false → data.length = 128 → Memory.wf s.mem = true →
       Answers (.filldata r data) s fun t => (getLine t rl).st = .V ∧ (getLine t rl).poison = false ∧
         Wrote s t (rl * 128) data ∧ t.outbox = s.outbox) ∧
     (up → m.st = .K → m.pend = [] → r.poison = false → Answers (.drsp r []) s fun t =>
       (getLine t rl).st = (if m.snoop = 0 then .S else .V) ∧ (getLine t rl).dirty = (m.dirty || m.mod) ∧
       (getLine t rl).sharers = (if m.snoop = 0 then m.owner :: m.sharers else []) ∧ t.mem = s.mem ∧ t.outbox = s.outbox) ∧
     (up → m.st = .K → m.pend = [] → Answers (.nohold r) s fun t =>
       (getLine t rl).st = .V ∧ (getLine t rl).sharers = [] ∧ (getLine t rl).hint = false ∧ t.mem = s.mem ∧ t.outbox = s.outbox))

/-- Responses (R160, R238): DATA, AMORSP, SCRSP, ACK, REFUSE and GRANT close the transaction their TXN names and reach the agent
that asked, with their status and data, and change nothing else; ACK of a home's victim frees its line; REFUSE of a fill
refuses the request that waits for it. The end of a deferral window closes it and serves nothing where nothing is deferred
(R141). -/
def Obligations.ResponsesClose : Prop :=  ∀ (r : RspHdr) (data : List Byte) (n : Fin 96) (shared : Bool) (line : BitVec 41) (s : State),
    let l := getLine s r.line.toNat
    let closes (q : PendReq) (bs : List Byte) : State :=
      { s with
        homes := { s.homes with txns := tdel s.homes.txns r.txn.toNat }
        outbox := s.outbox ++ [.deliver q.h.src.toNat r.txn.toNat r.status.toNat r.poison bs] }
    domainUp s = true → halyard s = true →
    (∀ q, tfind s.homes.txns r.txn.toNat = some q →
      exec (.data r data) s = .next (closes q data) ∧ exec (.amorsp r data) s = .next (closes q data) ∧
      exec (.scrsp r) s = .next (closes q []) ∧
      (l.st ≠ .W → exec (.ack r) s = .next (closes q [])) ∧ (l.st ≠ .F → exec (.refuse r) s = .next (closes q [])) ∧
      (q.h.src.toNat = n.val → shared = true ∨ l.st = .X → exec (.grant r n shared data) s = .next (closes q data))) ∧
    (l.st = .W → l.pend = [] → tsorted s.homes.lines = true → Answers (.ack r) s fun t => (getLine t r.line.toNat).st = .I ∧
      OtherLines s t r.line.toNat ∧ t = { s with homes := t.homes }) ∧
    (∀ q, l.st = .F → l.pend = [q] → tsorted s.homes.lines = true → Answers (.refuse r) s fun t =>
      (getLine t r.line.toNat).st = .I ∧ OtherLines s t r.line.toNat ∧ t = { s with homes := t.homes, outbox := t.outbox } ∧
      t.outbox = s.outbox ++ [answerTo q.h 0x24 r.status.toNat 0 0 []]) ∧
    (tfind s.homes.deferred line.toNat = none → Answers (.reservationDeferralExpiry line) s fun t =>
      (∀ q ∈ t.homes.resvs, q.line = line.toNat → q.window = false) ∧ t.homes.resvs.length = s.homes.resvs.length ∧
      t = { s with homes := t.homes, ccs := t.ccs })

/-- Reduction packets (R173, R174): an untagged packet goes on unchanged from a router; at its home each granule it names
becomes the element-wise reduction of its data with what stood there, and every other byte stays; when the wait of a router
ends it forwards what it held for the line and tag, in order of arrival, and holds it no longer. -/
def Obligations.ReductionPackets : Prop :=  ∀ (h : RedHdr) (src : W16) (agent : BitVec 9) (router : BitVec 7) (data : List Byte) (s : State),
    let ln := h.line.toNat
    let pa := ln * 128
    (domainUp s = true → h.tag = 0 → exec (.reductionPacket (some router) h src agent data) s =
      .next { s with outbox := s.outbox ++ [.red h data] }) ∧
    (domainUp s = true → h.tag = 0 → data.length = 128 → fmtBits h.fmt.toNat ∈ [8, 16, 32] → 2 ^ 28 ≤ pa →
      paPass s (.ctx h.ctx (ctxPart s h.ctx.toNat)) true pa = true → (getLine s ln).st = .V → linePoisoned s ln = false →
      QuietLine s ln → Answers (.reductionPacket none h src agent data) s fun t =>
        (∀ g ∈ granules h.gmask.toNat, memBytes t (pa + 16 * g) 16 =
          reduceBytes h.rop.toNat h.fmt.toNat (granule data g) (memBytes s (pa + 16 * g) 16)) ∧
        (∀ a, (∀ g ∈ granules h.gmask.toNat, a < pa + 16 * g ∨ pa + 16 * g + 16 ≤ a) → mread t.mem a = mread s.mem a) ∧
        t.outbox = s.outbox) ∧
    (∀ r, routerRound s router.toNat ln h.tag.toNat = [r] → Answers (.combineWaitExpiry router h.line h.tag) s fun t =>
      t.outbox = s.outbox ++ r.vals.map (fun v => Out.red (hdrOf r v.1 v.2.1) v.2.2) ∧
      routerRound t router.toNat ln h.tag.toNat = [] ∧
      t = { s with homes := { s.homes with routers := t.homes.routers }, outbox := t.outbox })

/-- Errors of cores and arrays (R98, R298): an error below the threshold raises the count in the unit's open window; at the
threshold it retires the unit: a throughput core's number passes to its die's lowest spare, a control core is retired with
none; each retirement is counted. An error that touches a context of a protected job tears it down and sends FAULT of class
1 to the job's coordinator.

Windows and self-tests (R298, R300): a window that closes after its time leaves, its closing counted; a core's self-test
asks every group on it to save, and holds the core until it is empty, unless a strict-class job is on it. -/
def Obligations.ErrorsCounted : Prop :=
  (∀ (d : Fin 4) (k : Fin 24) (slot : Fin 128) (n : Fin 96) (s : State),
     let key := coreKey d k
     let counted (t : State) (unit : Nat) : Prop :=
       (tfind t.epochs.windows unit).map Window.count = some ((tget s.epochs.windows unit {}).count + 1) ∧
       t.epochs.map = s.epochs.map ∧ t.epochs.retired = s.epochs.retired
     let below (unit : Nat) : Prop := (tget s.epochs.windows unit {}).count + 1 < s.epochs.threshold
     let unit := unitId d 1 k
     running s = true → corePresent s key = true →
     (getGroup s key slot = none → below unit → Answers (.coreParityError d k slot) s fun t => counted t unit ∧ t.mem = s.mem ∧
       t.cores = s.cores) ∧
     ((getCore s key).groups = [] → ¬ below unit → Answers (.coreParityError d k slot) s fun t =>
       physOf t key = nth ((Config.goodCores d).drop 24) (tget s.epochs.used d 0) 0xFF ∧
       tget t.epochs.used d 0 = tget s.epochs.used d 0 + 1 ∧ t.epochs.retired = s.epochs.retired + 1 ∧
       t.obs.alarms.getLsbD 4 = true ∧ t.mem = s.mem) ∧
     (∀ ctx x, (getCore s key).array.owner = some ctx → (getCore s key).array.queue = [] → arraysOf s ctx = [key] →
       groupsOf s ctx = [] → getCtx s ctx.toNat = some x → (getSlot s x.slot).protect ≠ 0 → (getSlot s x.slot).overflowed = false →
       below unit → Answers (.arrayParityError d k) s fun t => (getCtx t ctx.toNat).map Ctx.state = some .torn ∧
         (getCore t key).array.owner = none ∧ t.mem = s.mem ∧
         .epoch (coordOf s (getSlot s x.slot)) (getSlot s x.slot).job 7 1 ((getSlot s x.slot).committed + 1) ∈ t.outbox) ∧
     ((getCC s n).retired = false → below (unitId 4 7 n) → Answers (.controlCoreParityError n) s fun t =>
       counted t (unitId 4 7 n) ∧ t.ccs = s.ccs ∧ t.mem = s.mem) ∧
     ((getCC s n).retired = false → ¬ below (unitId 4 7 n) → Answers (.controlCoreParityError n) s fun t =>
       getCC t n = { getCC s n with retired := true } ∧ t.epochs.retired = s.epochs.retired + 1 ∧
       t.obs.alarms.getLsbD 4 = true ∧ t.mem = s.mem)) ∧
  (∀ (unit : W32) (d : Fin 4) (k : Fin 24) (s : State),
     let c := getCore s (coreKey d k)
     (∀ w, tfind s.epochs.windows unit.toNat = some w → exec (.faultWindowClose unit) s = .next { s with
       epochs := { s.epochs with windows := tdel s.epochs.windows unit.toNat, closed := s.epochs.closed + 1 } }) ∧
     (running s = true → (∀ g ∈ c.groups, (getSlot s (slotOfCtx s g.2.ctx.toNat)).cls ≠ 0) →
       Answers (.selfTest d k) s fun t => t = { s with cores := t.cores } ∧
         (getCore t (coreKey d k)).testing = !c.groups.isEmpty ∧
         ∀ slot, getGroup t (coreKey d k) slot = (tfind c.groups slot).map fun g => { g with saveReq := true }) ∧
     (∀ g ∈ c.groups, (getSlot s (slotOfCtx s g.2.ctx.toNat)).cls = 0 → exec (.selfTest d k) s = .next s))

/-- The coherent domain goes down (R163, R179, R244, R247): on a snoop or a lock that times out, a tag or directory error, a
link lost or another event of the list, the domain is down and no link stays active; with no context and no core at work the
cause and the unit are recorded, the loss counted, alarm bit 0 set and memory kept.

DOMAIN_USABLE (R179): with every link active, every die locked and the monitor's frames good, the domain is up again with
every home empty, its restart time recorded, and each released control core at monitor level at the restart address.

Parity errors of a slice's data (R178): below the threshold, an error in a dirty line or in a fill that no replica repairs
leaves the line poisoned, one in a clean line whose frame is not poisoned leaves it good; no byte changes. -/
def Obligations.DomainLossAndReturn : Prop :=
  (∀ (line : BitVec 41) (agent : BitVec 9) (cause : Fin 5) (ref : W16) (slice : Fin 40) (s : State),
     let l := getLine s line.toNat
     let gone (i : Instr) (c r : Nat) : Prop := Answers i s fun t =>
       t.homes.down = true ∧ (∀ n, n < 8 → (getLink t n).state ≠ 6) ∧
       (s.ccs = [] → s.disp.ctxs = [] → t.homes.losses = s.homes.losses + 1 ∧ t.homes.cause = c ∧ t.homes.ref = r ∧
         t.obs.alarms.getLsbD 0 = true ∧ t.mem = s.mem)
     halyard s = true → s.life = .usable → s.homes.down = false → s.homes.dead = false →
     (l.st = .K → gone (.snoopTimeout line agent) 1 agent.toNat) ∧
     (∀ who, l.lock = some who → gone (.rlockTimeout line) 1 who) ∧
     (cause.val ≠ 0 → cause.val ≠ 2 → gone (.domainDown cause ref) cause.val ref.toNat) ∧
     (cause.val = 2 → ref.toNat < 8 → (getLink s ref.toNat).state = 6 → gone (.domainDown cause ref) 2 ref.toNat ∧
       Answers (.domainDown cause ref) s fun t => (getLink t ref.toNat).state = 9) ∧
     (gone (.sliceParityError slice .tag line) 4 slice.val) ∧
     (s.homes.spareRows ≠ 0 → gone (.sliceParityError slice .directory line) 3 40)) ∧
  (∀ (us : W32) (s : State),
     halyard s = true → s.life = .usable → s.homes.down = true → s.homes.dead = false → restartFailed s = false →
     linksActive s = true → monitorPoisoned s = false → s.pcie = [] → s.disp.vfs = [] → slotsInUse s = [] →
     (∀ c ∈ s.cores, c.2.array.queue = []) →
     Answers (.domainUsable us true) s fun t =>
       t.homes.down = false ∧ t.homes.lastUs = us.toNat ∧ t.homes.lines = [] ∧ t.homes.resvs = [] ∧ t.homes.txns = [] ∧
       (∀ n, (getCC s n).released = true → (getCC t n).pc = BitVec.ofNat 64 (0x10000000 + s.sec.restart) ∧
         (getCC t n).level = .monitor ∧ (getCC t n).resv = none)) ∧
  (∀ (slice : Fin 40) (line : BitVec 41) (s : State),
     let ln := line.toNat
     let l := getLine s ln
     let unit := unitId (sliceDie slice) 3 slice
     domainUp s = true → halyard s = true → l.st ≠ .I → (tget s.epochs.windows unit {}).count + 1 < s.epochs.threshold →
     (l.dirty = true → Answers (.sliceParityError slice .data line) s fun t =>
       getLine t ln = { l with poison := true } ∧ OtherLines s t ln ∧ t.mem = s.mem ∧
       (tget t.epochs.windows unit {}).count = (tget s.epochs.windows unit {}).count + 1) ∧
     (l.dirty = false → (getOwn s (ln / 512)).poison = false → Answers (.sliceParityError slice .data line) s fun t =>
       getLine t ln = { l with poison := false } ∧ OtherLines s t ln ∧ t.mem = s.mem) ∧
     (replicaOf s (ln * 128) = none → Answers (.sliceParityError slice .fill line) s fun t =>
       getLine t ln = { l with poison := true } ∧ OtherLines s t ln ∧ t.mem = s.mem))

/-- Saves (R65, R66, R288, R333): a group asked to save that is halted leaves its core, and its context keeps what the
dispatcher needs to restore it; one asked to stop at a cut stays and stands at the cut. The limit that passes with groups
not saved makes the pre-emption late, and late every entry with such a group.

GROUP_RESTORE (R67, R68): a saved group whose image is unpoisoned and passes the check comes back to a free slot of a core
of its partition, with the registers and the stack of its image; one whose image fails the check ends its context. -/
def Obligations.GroupImages : Prop :=
  (∀ (d : Fin 4) (k : Fin 24) (slot : Fin 128) (ctx : BitVec 12) (s : State) (g : Group) (x : Ctx),
     let key := coreKey d k
     (running s = true → getGroup s key slot = some g → getCtx s g.ctx.toNat = some x → g.gstate ≠ .running → g.atCut = false →
       outStores s (slotIssuer key slot) = [] → (getCore s key).port = [] →
       (g.saveReq = true → tsorted (getCore s key).groups = true → Answers (.cheapPointSave d k slot) s fun t =>
         getGroup t key slot = none ∧ ∃ y v, getCtx t g.ctx.toNat = some y ∧ tfind y.saved g.q = some v ∧ v.entry = g.entry ∧
           v.cohort = g.cohort ∧ v.alloc = g.alloc ∧ v.gstate = (if g.waiting then .running else g.gstate)) ∧
       (g.saveReq = false → g.cutReq = true → Answers (.cheapPointSave d k slot) s fun t =>
         getGroup t key slot = some { g with atCut := true, cutReq := false })) ∧
     (getCtx s ctx.toNat = some x → x.preempting = true → groupsOf s ctx ≠ [] → Answers (.preemptionLate ctx) s fun t =>
       getCtx t ctx.toNat = some { x with late := true } ∧ t = { s with disp := t.disp } ∧
       (∀ e y, getEntry s e = some y → y.ctx = ctx → (∃ p ∈ groupsOf s ctx, p.2.2.entry = e) →
         getEntry t e = some { y with late := true }) ∧
       (∀ e y, getEntry s e = some y → y.ctx ≠ ctx → getEntry t e = some y))) ∧
  (∀ (d : Fin 4) (k : Fin 24) (slot : Fin 128) (ctx : BitVec 12) (q : Nat) (s : State) (x : Ctx) (v : Saved),
     let key := coreKey d k
     let pa := if v.cut then x.epsave + 2 ^ 22 + 32768 * q else x.preempt + 32768 * q
     let m := imageOf (memBytes s pa 17024)
     running s = true → getCtx s ctx.toNat = some x → tfind x.saved q = some v → x.preempting = false →
     workOk s ctx.toNat = true → s.cores = [] → corePresent s key = true → bit (getPart s x.part).cores key = true →
     v.alloc ≤ 64 → v.lss ≤ 6 * 2 ^ 20 → (∀ j, j < 134 → linePoisoned s (pa / 128 + j) = false) →
     (imageOk m v.alloc = true → v.gstate = .running → (∃ e ∈ imageStack m, e.park = .run) → tsorted x.saved = true →
       Answers (.groupRestore d k slot ctx q) s fun t => t.mem = s.mem ∧
         (∃ h, getGroup t key slot = some h ∧ h.th = imageThreads m ∧ h.stack = imageStack m ∧ h.gstate = .running ∧ h.q = q ∧
           h.ctx = ctx ∧ h.entry = v.entry ∧ h.alloc = v.alloc) ∧
         (getCtx t ctx.toNat).map (fun y => tfind y.saved q) = some none) ∧
     (imageOk m v.alloc = false → x.state ≠ .ended → s.disp.entries = [] → Answers (.groupRestore d k slot ctx q) s fun t =>
       (getCtx t ctx.toNat).map Ctx.state = some .ended ∧ getGroup t key slot = none))

/-- Answers to a control core's requests through a PCI Express port, or elsewhere off the device (R30, R150, R151, R208, R265):
a completion gives the load its value and the core goes on; a read that gets none raises FABRIC_PATH at its instruction; an
acknowledged store is gone; one not acknowledged is marked failed, and on a Shroud path the path is declared failed.

Answers to a control core's Shroud requests (R30, R56, R140, R150, R151, R262, R265, table "Response status"): data and old
values go to the register and the core goes on; a conditional store's gd takes 0, or 1 where the reservation was lost; an
acknowledged store is gone; status 1 raises OWNERSHIP, 2 FABRIC_PATH and 3 POISON at the instruction; 5 and 6, and a request
that passes its timeout, declare the path failed. -/
def Obligations.OffDeviceAnswers : Prop :=
  (∀ (n : Fin 96) (id : Nat) (data : List Byte) (s : State) (r : OutReq) (l : OutLane),
     let q := getCC s n
     let v := leNat (data.take l.size)
     halyard s = true → s.fabric.out = [r] → r.id = id → r.who = .cc n → r.failed = false → r.denied = false → r.orphan = false →
     (r.tgt ≠ 3 → r.kind = .load → r.lanes = [l] → l.size ≤ 8 → q.waitIds = [id] → q.results = [] → q.armed = false →
       Answers (.pcieCompletion id false data) s fun t => t.fabric.out = [] ∧ t.mem = s.mem ∧ t.cores = s.cores ∧
         getCC t n = { q with
           th := wrG q.th l.lane l.gd (if l.signed then BitVec.ofInt 64 (sext (8 * l.size) v) else BitVec.ofNat 64 v)
           pc := q.pc + 4
           waitIds := [] }) ∧
     (r.tgt ≠ 3 → r.kind = .load → q.waitIds = [id] → Answers (.pcieRequestTimeout id) s fun t => t.fabric.out = [] ∧
       t.mem = s.mem ∧ getCC t n = takeTrap { q with waitIds := [], results := [] } cFabricPath (BitVec.ofNat 64 r.va) q.pc) ∧
     (r.tgt ≠ 3 → r.kind = .store → Answers (.pcieStoreAcknowledge id) s fun t => t.fabric.out = [] ∧ t.mem = s.mem ∧
       t.ccs = s.ccs) ∧
     (r.tgt ≠ 3 → r.kind = .store → Answers (.storeTimeout id) s fun t => t.fabric.out = [{ r with failed := true }] ∧
       t.mem = s.mem ∧ t.ccs = s.ccs) ∧
     (r.tgt = 3 → r.kind = .store → Answers (.storeTimeout id) s fun t => t.fabric.out = [{ r with failed := true }] ∧
       r.dev ∈ t.fabric.failed ∧ t.fabric.failures = s.fabric.failures + 1 ∧ t.mem = s.mem ∧
       .portev s.fabric.manager 4 0 r.dev ∈ t.outbox)) ∧
  (∀ (port : Fin 18) (p : SPkt) (data : List Byte) (n : Fin 96) (s : State) (r : OutReq) (l : OutLane),
     let q := getCC s n
     let v := leNat ((data.drop (r.addr % 16)).take l.size)
     let waits : Prop := AnswersOne s port p r ∧ r.who = .cc n ∧ q.waitIds = [r.id] ∧ q.results = [] ∧ q.armed = false
     let gone (t : State) : Prop := t.fabric.out = [] ∧ t.mem = s.mem
     let goesOn (t : State) (gd : Nat) (w : W64) : Prop := gone t ∧
       getCC t n = { q with th := wrG q.th l.lane gd w, pc := q.pc + 4, waitIds := [] }
     let traps (t : State) (cause va : Nat) : Prop := gone t ∧
       getCC t n = takeTrap { q with waitIds := [], results := [] } cause (BitVec.ofNat 64 va) q.pc
     let failed (t : State) : Prop := traps t cFabricPath r.va ∧ r.dev ∈ t.fabric.failed ∧
       .portev s.fabric.manager 4 0 r.dev ∈ t.outbox
     (waits → r.kind = .load ∨ r.kind = .res → r.lanes = [l] → l.size ≤ 8 →
       (p.status = 0 → p.poison = false → Answers (.shroudData port p data) s fun t =>
         goesOn t l.gd (if l.signed then BitVec.ofInt 64 (sext (8 * l.size) v) else BitVec.ofNat 64 v)) ∧
       (p.status = 3 → Answers (.shroudData port p data) s fun t => traps t cPoison (r.va / 128 * 128))) ∧
     (∀ op x y, waits → r.kind = .amo → aopOf r.aop = some (op, true) → r.lanes = [l] → r.items = [(l.lane, x, y)] → p.status = 0 →
       p.poison = false → Answers (.shroudAmorsp port p data) s fun t => goesOn t l.gd (BitVec.ofNat 64 (leNat (data.take 8)))) ∧
     (waits → r.kind = .scond → r.lanes = [l] →
       (p.status = 0 → Answers (.shroudScrsp port p) s fun t => goesOn t l.gd 0) ∧
       (p.status = 4 → Answers (.shroudScrsp port p) s fun t => goesOn t l.gd 1)) ∧
     (AnswersOne s port p r → r.who = .cc n → r.kind = .store → p.status = 0 → Answers (.shroudAck port p) s fun t => gone t ∧
       t.ccs = s.ccs) ∧
     (∀ i, i ∈ [Instr.shroudData port p data, .shroudAmorsp port p data, .shroudScrsp port p, .shroudRefuse port p] → waits →
       kindReads r.kind = true →
       (p.status = 1 → Answers i s fun t => traps t cOwnership r.va) ∧
       (p.status = 2 → Answers i s fun t => traps t cFabricPath r.va) ∧
       (p.status = 5 ∨ p.status = 6 → Answers i s failed)) ∧
     (∀ tag : BitVec 21, halyard s = true → s.fabric.out = [r] → r.id = tag.toNat → r.tgt = 3 → r.failed = false →
       r.denied = false → r.who = .cc n → q.waitIds = [r.id] → kindReads r.kind = true → Answers (.remoteRequestTimeout tag) s failed))

/-- LAUNCH and its messages (R328, R330, R331, R240): an eligible launch without a tag runs with every cohort still to place,
one that no core can hold completes with status 9; the next cohort goes to its core as a placement message; a core without
room refuses it, one with room starts its groups at the entry point with g1, g2 and g3 set; a refused cohort is placed
again; the end of the last cohort completes the descriptor with status 0. -/
def Obligations.LaunchesRun : Prop :=  ∀ (e : BitVec 10) (d : Fin 4) (k : Fin 24) (p : Placement) (ctx : BitVec 12) (cohort : W32) (s : State) (x : Entry) (w : Work),
    let key := coreKey d k
    let n := e.toNat
    let put (v' : Work) : List Work := x.parts.map fun v => if v.place = w.place then v' else v
    running s = true →
    (getEntry s n = some x → startable s x 1 = some w → tagBit w.words = false →
      (noResources s x.ctx w.words = false → Answers (.launch e) s fun t => t = { s with disp := t.disp } ∧
        getEntry t n = some { x with
          phase := .running
          parts := put { w with
            running := true
            tag := 0
            cores := coreList s x.ctx w.words
            toPlace := List.range (cohortCount w.words) } }) ∧
      (noResources s x.ctx w.words = true → x.parts = [w] → w.tag = 0 → x.phase = .checked →
        Answers (.launch e) s fun t => EntryEnds t n 9 ∧ t.mem = s.mem)) ∧
    (∀ i, getEntry s n = some x → workOk s x.ctx.toNat = true → restoreFirst s x = false → placing x = some (w, i) →
      cohortCore s x w i = some key → Answers (.cohortPlacement e d k) s fun t =>
        t.outbox.getLast? = some (.placement d k (placementOf x n w i)) ∧ t.mem = s.mem ∧ t.cores = s.cores ∧
        ∃ y, getEntry t n = some y ∧ y.parts = put { w with toPlace := w.toPlace.drop 1, placed := w.placed ++ [(key, i, false)] }) ∧
    (getEntry s p.entry.toNat = some x → x.ctx = p.ctx →
      x.parts.find? (fun v => v.placed.contains (key, p.cohort.toNat, false)) = some w →
      let fits := coreFits s key p.ncoh.toNat (16 * (p.alloc.toNat + 1)) (256 * p.lss.toNat) p.array p.ctx
      (fits = false → exec (.launchPlacement d k p) s = .next { s with outbox := s.outbox ++ [.workDone 4 d k p.cohort.toNat] }) ∧
      (fits = true → (getCore s key).groups = [] → 1 ≤ p.ncoh.toNat → Answers (.launchPlacement d k p) s fun t => t.mem = s.mem ∧
        ∃ slot g, slot < 128 ∧ getGroup t key slot = some g ∧ g.ctx = p.ctx ∧ g.number = p.first.toNat ∧
          g.alloc = 16 * (p.alloc.toNat + 1) ∧ g.stack = [{ pc := p.pc, mask := BitVec.allOnes 32, park := .run }] ∧
          ∀ l, l < 32 → rdG g.th l 1 = p.arg ∧ rdG g.th l 2 = BitVec.ofNat 64 p.first.toNat ∧
            rdG g.th l 3 = BitVec.ofNat 64 p.groups.toNat)) ∧
    (∀ m, s.disp.entries.find? (fun y => y.2.ctx = ctx && y.2.parts.any fun v => v.placed.contains (key, cohort.toNat, false)) =
        some (m, x) → getEntry s m = some x → x.parts.find? (fun v => v.placed.contains (key, cohort.toNat, false)) = some w →
      Answers (.workDonePlacementRefused d k ctx cohort) s fun t => t = { s with disp := t.disp } ∧
        ∃ y v, getEntry t m = some y ∧ v ∈ y.parts ∧ v.place = w.place ∧ cohort.toNat ∈ v.toPlace ∧
          (key, cohort.toNat, false) ∉ v.placed) ∧
    (∀ co, (getCore s key).cohorts.find? (fun y => y.ended && y.ctx = ctx && y.number = cohort.toNat) = some co →
      getEntry s co.entry = some x → x.parts = [w] → w.place = co.place → w.running = true → w.toPlace = [] → w.tag = 0 →
      w.placed = [(key, co.number, true)] → x.phase = .running → (∀ y, getCtx s ctx.toNat = some y → y.saved = []) →
      Answers (.workDoneCohortEnded d k ctx cohort) s fun t => EntryEnds t co.entry 0)

/-- COPY, STEP, PRIORITY_PREEMPTION and WATCHED_LINE_SIGNAL (R145, R322, R329, R330, R332): a copy of up to a line within local
memory writes the source's bytes to the destination and completes with status 0; an eligible step starts its graph; a launch
of priority 7 that cannot be placed makes the context of lowest priority save every group it has on a core; a signalled
handle of a control core becomes one pending interrupt. -/
def Obligations.DispatcherWork : Prop :=  ∀ (e : BitVec 10) (h : BitVec 14) (c : Fin 96) (s : State) (x : Entry) (w : Work) (a b : Leaf),
    let n := e.toNat
    let len := lenField w.words
    let src := outAddr a (dw w.words 4)
    let dst := outAddr b (dw w.words 5)
    running s = true →
    (getEntry s n = some x → startable s x 2 = some w → x.parts = [w] → x.phase = .checked → w.tag = 0 → w.wrote = false →
      heldOf s x.ctx.toNat (dw w.words 4) = some a → heldOf s x.ctx.toNat (dw w.words 5) = some b → a.tgt = 0 → b.tgt = 0 →
      0 < len → dw w.words 4 % 128 + len ≤ 128 → dw w.words 5 % 128 + len ≤ 128 → (getLine s (src / 128)).st = .V →
      linePoisoned s (src / 128) = false → lineDeferred s (copyBy s x.ctx).key (dst / 128) = false → QuietSpan s dst len →
      Answers (.copy e) s fun t => Wrote s t dst (memBytes s src len) ∧ EntryEnds t n 0) ∧
    (getEntry s n = some x → kindOf x.words = 4 → x.phase = .checked → orderOk s x = true → workOk s x.ctx.toNat = true →
      (∃ v ∈ x.parts, v.done = false) → Answers (.step e) s fun t =>
        getEntry t n = some { x with phase := .running } ∧ t = { s with disp := t.disp }) ∧
    (∀ i k y, getEntry s n = some x → prioOf s x = 7 → workOk s x.ctx.toNat = true → placing x = some (w, i) →
      cohortCore s x w i = none → victimCtx s x.ctx = some k → getCtx s k = some y → Answers (.priorityPreemption e) s fun t =>
        getCtx t k = some { y with preempting := true, byCommand := false, late := false } ∧
        t = { s with cores := t.cores, disp := t.disp } ∧
        ∀ key slot g, getGroup s key slot = some g →
          getGroup t key slot = some (if g.ctx = BitVec.ofNat 12 k then { g with saveReq := true } else g)) ∧
    (∀ v, tfind s.disp.watches h.toNat = some v → v.pending = true → v.consumer = .cc c →
      Answers (.watchedLineSignal [h] (some c)) s fun t => t = { s with ccs := t.ccs } ∧
        (getCC t c).irq = (if 0x1000 + h.toNat ∈ (getCC s c).irq then (getCC s c).irq else (getCC s c).irq ++ [0x1000 + h.toNat]))

/-- DESCRIPTOR_FETCH (R324, R325, R326): with nothing new the queue's watch is ready again and nothing else happens; a TAIL too
far ahead stops the queue; one new descriptor takes an in-flight entry, its 128 bytes as its words, and one of a bad form
completes with status 4.

FOOTPRINT_CHECK (R209, R210, R215, R216, R327): a footprint of which every page translates and passes leaves its entry
checked and holds every page; a form that is wrong completes it with that status, a page that fails the ownership check with
status 2; a translation fault makes it wait on the record sent.

COMPLETION_RECORD_WRITE and COMPLETION_RING_POLL (R334): the record of the first completed descriptor of a queue whose ring
has room goes to the ring's next place, the tail in memory and in the queue counts on, the entry is free, and no other byte
changes. -/
def Obligations.DescriptorsAndRecords : Prop :=
  (∀ (h : BitVec 14) (s : State) (q : Queue),
     let n := h.toNat
     let tail := leNat (memBytes s q.ring 8)
     running s = true → getQueue s n = some q → q.state = 1 → q.deleting = false → 2 ^ 28 ≤ q.ring →
     (tail ≤ q.head → Answers (.descriptorFetch h) s fun t => t.disp.entries = s.disp.entries ∧ t.disp.queues = s.disp.queues ∧
       t.mem = s.mem ∧ ∀ w, tfind s.disp.watches n = some w → tfind t.disp.watches n = some { w with pending := false }) ∧
     (q.head + 2 ^ (q.logn + 4) < tail → s.disp.entries = [] → Answers (.descriptorFetch h) s fun t => t.mem = s.mem ∧
       getQueue t n = some { q with state := 2, tail := tail } ∧
       ∃ e y, getEntry t e = some y ∧ y.phase = .completed ∧ y.status = 10 ∧ y.seq = tail) ∧
     (tail = q.head + 1 → s.disp.queues = [(n, q)] → mayFetch s q = true → s.disp.entries = [] →
       (getSlot s (slotOfCtx s q.ctx.toNat)).protect = 0 → Answers (.descriptorFetch h) s fun t =>
         let ws := wordsOf 16 (memBytes s (q.ring + 256 + 128 * (q.head % 2 ^ (q.logn + 4))) 128)
         (getQueue t n).map Queue.head = some tail ∧
         ∃ e y, getEntry t e = some y ∧ y.words = ws ∧ y.seq = q.head ∧ y.queue = n ∧ y.ctx = q.ctx ∧
           (descBad ws = false → y.phase = .fetched) ∧ (descBad ws = true → y.phase = .completed ∧ y.status = 4))) ∧
  (∀ (e : BitVec 10) (s s1 s2 : State) (x : Entry) (rs : List FRange) (ds : List (List Nat)) (bs : List Byte)
     (ps : List (Nat × Leaf)),
     let n := e.toNat
     running s = true → getEntry s n = some x → x.phase = .fetched → x.waiting = false → workOk s x.ctx.toNat = true →
     (gather s x = (s1, .ok rs, ds) → (pagesUnion rs).length ≤ 65536 → checkPages s1 x.ctx 0 (pagesUnion rs) = (s2, .ok bs, ps) →
       s2.xlat.held.length + ps.length ≤ 65536 → Answers (.footprintCheck e) s fun t =>
         (∀ y, getEntry s2 n = some y → (getEntry t n).map Entry.phase = some .checked ∧
           (getEntry t n).map Entry.pages = some ((pagesUnion rs).map Prod.fst)) ∧
         (∀ p ∈ ps, p.1 < 2 ^ 41 → (heldOf t x.ctx.toNat (p.1 * 65536)).isSome = true) ∧ t.mem = s2.mem) ∧
     (∀ status, gather s x = (s1, .status status, ds) → getEntry s1 n = some x → x.parts = [] →
       Answers (.footprintCheck e) s fun t => EntryEnds t n status) ∧
     (∀ va, gather s x = (s1, .own va, ds) → getEntry s1 n = some x → x.parts = [] →
       Answers (.footprintCheck e) s fun t => EntryEnds t n 2 ∧ (getEntry t n).map Entry.val = some va) ∧
     (∀ va reason level, gather s x = (s1, .fault va reason level, ds) → getEntry s1 n = some x →
       Answers (.footprintCheck e) s fun t => (getEntry t n).map Entry.waiting = some true ∧ t.mem = s1.mem ∧
         ∃ r : FaultRec, t.outbox = s1.outbox ++ [.fault (.entry e) r] ∧ r.ctx = x.ctx ∧ r.first = 4 ∧
           r.va = BitVec.ofNat 64 (va / 65536 * 65536))) ∧
  (∀ (e : BitVec 10) (h : BitVec 14) (s : State) (x : Entry) (q : Queue),
     let n := e.toNat
     let size := 2 ^ (q.clogn + 6)
     let place := q.compl + 256 + 32 * (q.ctail % size)
     let wrote (t : State) : Prop :=
       getEntry t n = none ∧ getQueue t h.toNat = some { q with ctail := q.ctail + 1 } ∧
       mreadN t.mem place 32 = recordBytes x ∧ mreadN t.mem q.compl 8 = natLe 8 (q.ctail + 1) ∧
       ∀ a, (a < place ∨ place + 32 ≤ a) → (a < q.compl ∨ q.compl + 8 ≤ a) → mread t.mem a = mread s.mem a
     running s = true → getEntry s n = some x → x.queue = h.toNat → getQueue s h.toNat = some q → x.phase = .completed →
     x.heldFor = none → firstWaiting s h.toNat = some n → q.ctail - leNat (memBytes s (q.compl + 128) 8) < size →
     bit (dw x.words 0) 56 = false → q.deleting = false → q.compl % 128 = 0 → tsorted s.disp.entries = true →
     (∀ p, (getPart s p).state ≠ 2) → (∀ c ∈ s.disp.ctxs, ∀ r ∈ c.2.replay, r.waiting = false) →
     (getLine s (q.compl / 128 + 1)).st = .V → QuietSpan s place 32 → QuietSpan s q.compl 8 →
     Answers (.completionRecordWrite e) s wrote ∧ Answers (.completionRingPoll h) s wrote)

/-- Trap and fault records (R44, R217 to R221): a trap record goes to its context's queue at its next place, its tail counts on
and the context's core is interrupted; a fault on a page without an open record opens one that holds its waiter; a later one
on the same page joins it; a ring entry's base, size or core is refused or takes the value written. -/
def Obligations.TrapAndFaultRecords : Prop :=  ∀ (r : TrapRec) (w : Waiter) (f : FaultRec) (s : State) (c : Ctx),
    let k := r.ctx.toNat
    let place := c.trapq + 256 + 32 * (c.trapTail % trapCap c)
    let mine (o : OpenRec) : Bool := o.rec0.ctx = f.ctx && o.rec0.va = f.va && !o.closed
    let ring := getRing s f.part.toNat
    running s = true →
    (getCtx s k = some c → c.state = .live → handledCause r.cause.toNat = true → c.trapTail - c.trapHead < trapCap c →
      c.trapq % 128 = 0 → QuietSpan s place 32 → QuietSpan s c.trapq 8 → Answers (.trapRecord r) s fun t =>
        getCtx t k = some { c with trapTail := c.trapTail + 1 } ∧ mreadN t.mem place 32 = trapBytes r ∧
        mreadN t.mem c.trapq 8 = natLe 8 (c.trapTail + 1) ∧ t.outbox.getLast? = some (.interrupt c.trapcore (0x5000 + k)) ∧
        ∀ a, (a < place ∨ place + 32 ≤ a) → (a < c.trapq ∨ c.trapq + 8 ≤ a) → mread t.mem a = mread s.mem a) ∧
    (stillWaits s w = true → s.xlat.records.find? mine = none → ringOn ring = true → ring.n ≤ ring.tail - ring.hd →
      (∀ o ∈ s.xlat.records, o.rec0.part = f.part ∧ o.closed = false) → s.xlat.records.length < 4096 → f.program = false →
      Answers (.faultNotice w f) s fun t => t.mem = s.mem ∧
        t.xlat.records = s.xlat.records ++ [{ rec0 := f, waiters := [w] }]) ∧
    (∀ o, stillWaits s w = true → s.xlat.records = [o] → mine o = true → o.index = none → Answers (.faultNotice w f) s fun t =>
      t.xlat.records = [{ o with
        rec0 := { o.rec0 with access := o.rec0.access ||| f.access }
        waiters := o.waiters ++ [w]
        joined := o.joined + 1 }] ∧ t.mem = s.mem ∧ (getRing t f.part.toNat).joined = ring.joined + 1) ∧
    (∀ (p : Fin 64) (head : W64), let g := getRing s p
      ringOn g = true → g.handle = none → min head.toNat g.tail ≤ g.hd → s.xlat.records = [] → s.xlat.stalled = [] →
      Answers (.faultRecordResolve p head) s fun t => t.mem = s.mem ∧ getRing t p = g) ∧
    (∀ (p : Fin 64) (o : OpenRec) (n : BitVec 10) (y : Entry) (head : W64), let g := getRing s p
      2 ^ 28 ≤ g.base →
      ringOn g = true → g.handle = none → g.hd < g.tail → head.toNat = g.hd + 1 → s.xlat.records = [o] → s.xlat.stalled = [] →
      o.rec0.part.toNat = p.val → o.index = some g.hd → o.closed = false → o.waiters = [.entry n] → getEntry s n.toNat = some y →
      leNat (memBytes s (faultAddr g g.hd + 24) 8) % 4 = 1 → Answers (.faultRecordResolve p head) s fun t =>
        t.xlat.records = [] ∧ getEntry t n.toNat = some { y with waiting := false } ∧ t.mem = s.mem ∧
        (getRing t p).hd = g.hd + 1) ∧
    (∀ (q : Requester) (p : Fin 64) (value : W64) (k : Cls), Granted s q (0x4500 + p) 3 k → k.trio = true → value.toNat < 96 →
      Served (.faultRingWrite q p 3 value) s q (0x4500 + p) 3 0 fun u =>
        getRing u p = { getRing s p with core := value.toNat } ∧ u.mem = s.mem)

/-- The trace engine and its destinations (R404 to R407): a record in order goes to each destination that is on and has room,
one out of order also counts what is missing as lost; eight queued records are written to the ring in one access where its
mode lets it take them; every 16,384 block times the lanes carry an alignment block.

Rings, log windows and markers (R406, R408, R409, R411): a granted write of a ring's base or size takes the value and makes
the new ring's frames system; a log window that closes with a count leaves a count record, one without leaves nothing; a
marker is a summary record of the Spar die.

Counters across dies (R239, R411): the die a counter is of answers with its value, any other die that it has none; the
answer ends the controller's read and reaches the requester. -/
def Obligations.Observation : Prop :=
  (∀ (d : Fin 5) (r : ObsRec) (s : State),
     let x := getDie s d
     let g := s.obs.ring
     let place := g.base + 32 * (g.tail % g.size)
     halyard s = true →
     (x.ringGap = none → x.laneGap = none → s.obs.ringQueue.length < 32767 → s.obs.laneQueue.length < 32767 → x.traceNext < 2 ^ 32 →
       Answers (.traceRecord d r) s fun t => t = { s with dies := t.dies, obs := t.obs } ∧
         (getDie t d).traceNext = (r.seq.toNat + spanOf r) % 2 ^ 32 ∧ (getDie t d).traceBuf = x.traceBuf.erase r ∧
         (r.seq.toNat = x.traceNext → (getDie t d).traceLost = x.traceLost ∧
           t.obs.ringQueue = (if traceRingOn s then s.obs.ringQueue ++ [r] else s.obs.ringQueue) ∧
           t.obs.laneQueue = (if s.obs.lanesOn = 1 then s.obs.laneQueue ++ [r] else s.obs.laneQueue)) ∧
         (x.traceNext < r.seq.toNat → (getDie t d).traceLost = x.traceLost + (r.seq.toNat - x.traceNext) ∧
           t.obs.alarms.getLsbD 15 = true ∧
           (traceRingOn s = true → t.obs.ringQueue = s.obs.ringQueue ++ [gapRec s d 2 x.traceNext (r.seq.toNat - x.traceNext), r]))) ∧
     (domainUp s = true → traceRingOn s = true → 8 ≤ s.obs.ringQueue.length → g.mode = 0 ∨ g.tail + 8 ≤ g.head + g.size →
       place % 128 = 0 → QuietSpan s place 128 → QuietSpan s (place + 128) 128 → Answers .traceRingWrite s fun t =>
         mreadN t.mem place 256 = (s.obs.ringQueue.take 8).flatMap obsBytes ∧
         (∀ a, a < place ∨ place + 256 ≤ a → mread t.mem a = mread s.mem a) ∧
         t.obs.ringQueue = s.obs.ringQueue.drop 8 ∧ t.obs.ring.tail = g.tail + 8 ∧
         t.obs.ring.lost = (if g.mode = 0 ∧ g.size < g.tail + 8 then g.lost + 8 else g.lost)) ∧
     exec .traceAlignmentBlock s = .next { s with outbox := s.outbox ++ [.align] }) ∧
  (∀ (q : Requester) (k : Cls) (sub : Byte) (value : W64) (mark : W32) (unit : W16) (s : State),
     let v := value.toNat
     let x := getDie s 4
     let marked := obsRec (unitId 4 0 0) 0x901 0 0 0 x.timer mark.toNat x.traceSeq 0
     let type : Nat := if sub = 1 then 3 else 2
     k.trio = true → (sub = 1 ∨ sub = 2) →
     (Granted s q 0x9020 sub.toNat k → obsRingCheck s s.obs.ring 26 sub.toNat v = 0 →
       Served (.traceRingSet q sub value) s q 0x9020 sub.toNat type fun u => u.obs.ring = obsRingWith s.obs.ring sub.toNat v ∧
         ∀ f ∈ ringFrames u.obs.ring.base u.obs.ring.size, (getOwn u f).state = 3) ∧
     (Granted s q 0x9100 sub.toNat k → obsRingCheck s s.obs.log 20 sub.toNat v = 0 → s.obs.logBuf = [] →
       Served (.logRingSet q sub value) s q 0x9100 sub.toNat type fun u =>
         u.obs.log = { obsRingWith s.obs.log sub.toNat v with mode := 1 } ∧
         ∀ f ∈ ringFrames u.obs.log.base u.obs.log.size, (getOwn u f).state = 3) ∧
     (∀ w, halyard s = true → tfind s.obs.logWins unit.toNat = some w → w.count = 0 → exec (.logWindowClose unit) s =
       .next { s with obs := { s.obs with logWins := tdel s.obs.logWins unit.toNat } }) ∧
     (∀ w, halyard s = true → tfind s.obs.logWins unit.toNat = some w → w.count ≠ 0 → s.obs.logBuf.length < 1024 →
       s.obs.log.base = 0 → exec (.logWindowClose unit) s = .next { s with obs := { s.obs with
         logBuf := s.obs.logBuf ++ [obsRec unit.toNat 0 0 3 0 (sparTimer s) 0 s.obs.logSeq w.count]
         logSeq := s.obs.logSeq + 1
         logWins := tdel s.obs.logWins unit.toNat } }) ∧
     (Granted s q 0x9000 1 k → s.obs.level ≠ 0 → x.traceBuf.length < 4096 → x.traceGap = none →
       Served (.marker q mark) s q 0x9000 1 2 fun u => (getDie u 4).traceBuf = x.traceBuf ++ [marked] ∧
         u.outbox = s.outbox ++ [.trace marked] ∧ u = { s with dies := u.dies, outbox := u.outbox })) ∧
  (∀ (d : Fin 5) (index : W16) (sub : Byte) (tag value : W64) (s : State) (r : CtrRead),
     halyard s = true →
     (∀ v, (getDie s d).clocks = true → counterDie index.toNat = d.val → counterAt s index.toNat sub.toNat = some v →
       exec (.counterRead d index sub tag) s =
         .next { s with outbox := s.outbox ++ [.counterData index.toNat sub.toNat tag.toNat v 0] }) ∧
     ((getDie s d).clocks = true → counterDie index.toNat ≠ d.val → exec (.counterRead d index sub tag) s =
         .next { s with outbox := s.outbox ++ [.counterData index.toNat sub.toNat tag.toNat 0 1] }) ∧
     (s.obs.reads = [r] → r.tag = tag.toNat → r.index = index.toNat → r.sub = sub.toNat → windowPort r.q = none →
       exec (.counterData index sub tag value 0) s = .next { s with
         obs := { s.obs with reads := [], ok := s.obs.ok + 1 }
         outbox := s.outbox ++ [.dict r.q r.op r.dtag r.index r.sub 0 3 (natLe 8 value.toNat)] }))

/-- Frame commands (R193 to R195): an accepted command joins the queue and reads in progress; a refused one shows its refusal;
the oldest command rewrites the next frame's entry once no unfinished descriptor holds it, a change of owner, partition,
state or share zeroing the frame's bytes and no others; zeroing that is complete clears ZERO.

PLACEMENT_REGION_WRITE (R184, R186): a granted write of one entry of a region, sound and with every frame it remaps free,
gives the region the value; every byte of a remapped frame reads as zero, every other byte as before; with a remapped frame
that is not free it is refused as busy and nothing changes. -/
def Obligations.FramesAndRegions : Prop :=
  (∀ (q : Requester) (k : Cls) (w0 w1 w2 : W64) (frame : BitVec 24) (s : State) (c : FrameCmd),
     let check := frameCheck s k w0.toNat w1.toNat w2.toNat
     let cmd : FrameCmd := { next := bits w0.toNat 23 0, last := bits w0.toNat 23 0 + bits w1.toNat 63 32 - 1, new := ownOf w2.toNat }
     let old := getOwn s c.next
     let shown : Bool := s.hbm.cmdResult ≠ 2 && s.hbm.cmdResult ≠ 3
     (Granted s q 0x4010 1 k → windowPort q = none → k.trio = true ∨ k.isPart = true → check = 0 →
       Served (.frameCommand q w0 w1 w2) s q 0x4010 1 7 fun u =>
         u = { s with hbm := { s.hbm with cmds := s.hbm.cmds ++ [cmd], cmdResult := 1, cmdDone := 0 } }) ∧
     (Granted s q 0x4010 1 k → windowPort q = none → k.trio = true ∨ k.isPart = true → check = 3 →
       exec (.frameCommand q w0 w1 w2) s =
         .next (answer { s with hbm := { s.hbm with cmdResult := 2, cmdDone := 0 } } q 0 0x4010 1 3 7 [])) ∧
     (halyard s = true → s.hbm.cmds = [c] → frameHeld s c.next = false → Answers .frameUpdate s fun t =>
       getOwn t c.next = { c.new with zero := old.zero || zeroes old c.new, lost := false } ∧
       (∀ f, f ≠ c.next → getOwn t f = getOwn s f) ∧
       (∀ a, mread t.mem a = if zeroes old c.new = true ∧ a / 65536 = c.next then 0 else mread s.mem a) ∧
       t.hbm.cmds = (if c.last ≤ c.next then [] else [{ c with next := c.next + 1, done := c.done + 1 }]) ∧
       (shown = true → t.hbm.cmdResult = (if c.last ≤ c.next then 0 else 1) ∧ t.hbm.cmdDone = c.done + 1) ∧
       (shown = false → t.hbm.cmdResult = s.hbm.cmdResult ∧ t.hbm.cmdDone = s.hbm.cmdDone)) ∧
     (halyard s = true → s.hbm.cmds = [c] → frameHeld s c.next = true →
       exec .frameUpdate s = .next (if shown then { s with hbm := { s.hbm with cmdResult := 4 } } else s)) ∧
     (halyard s = true → (getOwn s frame.toNat).zero = true → (regionOf s (frame.toNat * 65536)).isSome = true →
       Answers (.zeroingComplete frame) s fun t => getOwn t frame.toNat = { getOwn s frame.toNat with zero := false } ∧
         (∀ f, f ≠ frame.toNat → getOwn t f = getOwn s f) ∧ t = { s with hbm := t.hbm })) ∧
  (∀ (q : Requester) (k : Cls) (r sub : Byte) (value : W64) (s : State),
     let old := tget s.hbm.regions r.toNat {}
     let new := regionWith old sub.toNat value.toNat
     let type : Nat := match sub.toNat with | 1 => 3 | 2 => 3 | 3 => 6 | 4 => 0 | _ => 2
     1 ≤ sub.toNat → sub.toNat ≤ 5 → Granted s q (0x4100 + r.toNat) sub.toNat k → k.trio = true → regionBad s r.toNat new = false →
     (framesFree s old new = true → Served (.placementRegionWrite q r sub value) s q (0x4100 + r.toNat) sub.toNat type fun u =>
       tget u.hbm.regions r.toNat {} = new ∧ (∀ n, n ≠ r.toNat → tfind u.hbm.regions n = tfind s.hbm.regions n) ∧
       (∀ a, mread u.mem a = if remapped old new (a / 65536) = true then 0 else mread s.mem a)) ∧
     (framesFree s old new = false →
       RefusedWith (.placementRegionWrite q r sub value) s q (0x4100 + r.toNat) sub.toNat 4 type))

/-- HBM errors, refresh and calibration (R196, R198): below its channel's threshold each error has the outcome of the table: a
correction or a reissue is counted, uncorrectable data poison the line, a lost write its frame, both copies of an ownership
line their sixteen entries; a refresh reaches its bank; a temperature above 85 doubles refresh, below 82 it returns to
normal; the last channel completes a calibration pass. -/
def Obligations.StackEvents : Prop :=  ∀ (k : Fin 12) (j : Fin 32) (line : BitVec 33) (bank : Byte) (celsius : Int) (s : State),
    let unit := unitId (k.val / 3) 4 (32 * (k.val % 3) + j.val)
    let x := getStack s k
    let ln := line.toNat
    let counted (t : State) : Prop := (tget t.epochs.windows unit {}).count = (tget s.epochs.windows unit {}).count + 1 ∧ t.mem = s.mem
    halyard s = true →
    ((tget s.epochs.windows unit {}).count + 1 < s.epochs.threshold →
      Answers (.hbmError k j .corrected line) s (fun t => counted t ∧ getStack t k = { x with corrections := x.corrections + 1 }) ∧
      Answers (.hbmError k j (.readParity true) line) s (fun t => counted t ∧ getStack t k = { x with reissues := x.reissues + 1 }) ∧
      Answers (.hbmError k j (.writeParity true) line) s (fun t => counted t ∧ getStack t k = { x with reissues := x.reissues + 1 }) ∧
      Answers (.hbmError k j (.writeParity false) line) s
        (fun t => counted t ∧ getOwn t (ln / 512) = { getOwn s (ln / 512) with poison := true }) ∧
      Answers (.hbmError k j .bufferWrite line) s
        (fun t => counted t ∧ getOwn t (ln / 512) = { getOwn s (ln / 512) with poison := true }) ∧
      Answers (.hbmError k j .ownOne line) s (fun t => counted t ∧ t.hbm = s.hbm) ∧
      Answers (.hbmError k j .ownBoth line) s (fun t => counted t ∧ t.obs.alarms.getLsbD 1 = true ∧
        ∀ i, i < 16 → (getOwn t (ln / 512 / 16 * 16 + i)).lost = true) ∧
      ((getLine s ln).st = .V → replicaOf s (ln * 128) = none → Answers (.hbmError k j .uncorrectable line) s fun t =>
        counted t ∧ (getLine t ln).poison = true ∧ getStack t k = { x with uncorrectable := x.uncorrectable + 1 })) ∧
    Answers (.perBankRefresh k j bank) s (fun t => getStack t k = { x with banks := tput x.banks j bank.toNat } ∧
      t.outbox = s.outbox ++ [.refresh k j bank.toNat] ∧ t = { s with hbm := t.hbm, outbox := t.outbox }) ∧
    Answers (.hbmTemperatureChange k celsius) s (fun t => getStack t k = { x with
        temp := some celsius
        refresh := if 85 < celsius then 1 else if celsius < 82 then 0 else x.refresh } ∧
      (85 < celsius → x.refresh = 0 → t.obs.alarms.getLsbD 11 = true) ∧ t = { s with hbm := t.hbm, obs := t.obs }) ∧
    Answers (.interfaceRecalibration k j) s (fun t => getStack t k = { x with passes := if j = 31 then x.passes + 1 else x.passes } ∧
      t.outbox = s.outbox ++ [.refresh k j 0xFF] ∧ t = { s with hbm := t.hbm, outbox := t.outbox })

/-- Root PLLs (R10, R13, R18, R20, R181): a first lock starts the die's clocks and its timer from zero and its links' training;
a Loam die that does not lock in time fails start-up; a loss of lock stops the clocks and loses the die's links; a relock
starts the clocks with the timer where it stood and the lost links train again.

Position probe (R10 to R13): the first Spar answer on the interface that position calls Inner gives a Loam die its position
and port map and the Inner link that identity; an answer on a second interface fails start-up with code 3, and silence with
code 2; the Spar die takes a Loam die's identity for that port's link. -/
def Obligations.PllsAndProbe : Prop :=
  (∀ (d : Fin 5) (loc : BitVec 3) (s : State),
     let x := getDie s d
     let on : Prop := s.life = .starting ∨ s.life = .usable ∨ s.life = .failed
     (on → x.everLocked = false → Answers (.rootPllLock d loc) s fun t =>
       getDie t d = { x with
         everLocked := true
         clocks := true
         timer := 0
         straps := if d = 4 then 0 else loc.toNat
         position := if d = 4 then 4 else x.position } ∧
       (∀ n ∈ linksOfDie d, (getLink t n).state = if (getLink s n).state = 0 then 1 else (getLink s n).state) ∧
       t = { s with dies := t.dies, links := t.links }) ∧
     (s.life = .starting → x.everLocked = false → d ≠ 4 → Answers (.pllLockTimeout d) s fun t => t.life = .failed ∧
       getDie t d = { x with lost := true, startState := if x.startState ≤ 1 then 6 else x.startState } ∧
       t = { s with dies := t.dies, life := t.life }) ∧
     (x.clocks = true → Answers (.lossOfLock d) s fun t => (getDie t d).clocks = false ∧
       (∀ n ∈ linksOfDie d, (getLink t n).state ≠ 6) ∧
       (domainRuns s = false → (getDie t d).lockLosses = x.lockLosses + 1 ∧ (getDie t d).timer = x.timer ∧ t.mem = s.mem) ∧
       (domainRuns s = true → s.homes.down = false → s.homes.dead = false → t.homes.down = true)) ∧
     (on → x.everLocked = true → x.clocks = false → x.lost = false → Answers (.pllRelock d) s fun t =>
       getDie t d = { x with clocks := true } ∧
       (∀ n ∈ linksOfDie d, (getLink t n).state = if (getLink s n).state = 9 then 1 else (getLink s n).state) ∧
       t = { s with dies := t.dies, links := t.links })) ∧
  (∀ (d : Fin 4) (phy : Fin 4) (port : Byte) (rev : W16) (s : State),
     let x := getDie s d
     s.life = .starting →
     (x.clocks = true → phy ≠ 3 → x.answered = [] → port.toNat < 4 → roleOf (portMapOf port.toNat) phy = 0 →
       Answers (.ident ⟨d, by omega⟩ phy true port rev) s fun t => (getDie t d).position = port.toNat ∧
         (getDie t d).portMap = portMapOf port.toNat ∧ (getDie t d).strapWarn = decide (x.straps ≠ port.toNat) ∧
         (getLink t d).identB = some port.toNat ∧ t = { s with dies := t.dies, links := t.links, obs := t.obs }) ∧
     (x.clocks = true → phy ≠ 3 → x.answered ≠ [] → phy.val ∉ x.answered →
       Answers (.ident ⟨d, by omega⟩ phy true port rev) s fun t => t.life = .failed ∧
         (getDie t d).startState = (if x.startState ≤ 1 then 3 else x.startState) ∧ t = { s with dies := t.dies, life := t.life }) ∧
     ((getDie s 4).clocks = true → Answers (.ident 4 phy false port rev) s fun t => (getLink t phy).identA = some port.toNat ∧
       t = { s with links := t.links }) ∧
     (x.everLocked = true → x.answered = [] → Answers (.positionProbeTimeout d) s fun t => t.life = .failed ∧
       (getDie t d).startState = (if x.startState ≤ 1 then 2 else x.startState) ∧ t = { s with dies := t.dies, life := t.life }))

/-- Training (R229, R241): a module that has its partner's clock moves the link to lane training once every module has; a failed
clock pair moves it to the spare, and a second fails the link; a module whose lanes are centred with at most four excluded
moves the link to the identity stage once every module has; a stage that takes too long is tried again from lane training,
eight times.

Negotiation (R15, R16, R242): the second advertisement puts the intersection in force and both ends say so; another major
version refuses the link; credits of the second end bring the link up, its SEQ and ACK starting over; a refusal stops it; an
in-band retrain keeps the intersection it must come back to. -/
def Obligations.LinkTraining : Prop :=
  (∀ (link : Fin 8) (far : Bool) (m : Fin 50) (failing : List (Fin 84)) (s : State),
     let n := link.val
     let l := getLink s n
     let x := getMod s n far m
     let others (p : Module → Bool) : Bool := (List.range (moduleCount n)).all fun j =>
       [false, true].all fun f => (f = far && j = m.val) || p (getMod s n f j)
     let failed (t : State) : Prop := t.life = .failed ∧ (getLink t n).state = 8
     (getDie s (endDie n far)).clocks = true → m.val < moduleCount n → s.life = .starting →
     (l.state = 1 → Answers (.forwardedClockDetected link far m false) s fun t => getMod t n far m = { x with clock := true } ∧
       (getLink t n).state = (if others Module.clock then 2 else 1) ∧ t = { s with links := t.links }) ∧
     (l.state = 1 → x.pairs = 0 → Answers (.forwardedClockDetected link far m true) s fun t =>
       getMod t n far m = { x with pairs := 1 } ∧ (getLink t n).state = 1 ∧ t = { s with links := t.links }) ∧
     (l.state = 1 → x.pairs = 1 → Answers (.forwardedClockDetected link far m true) s failed) ∧
     (l.state = 2 → x.retired = [] → failing.length ≤ 4 → failing.Nodup → Answers (.laneTrainingComplete link far m failing) s fun t =>
       getMod t n far m = { x with excluded := failing.map Fin.val, lanes := true } ∧
       (getLink t n).state = (if others Module.lanes then 3 else 2) ∧ t = { s with links := t.links }) ∧
     (l.state = 2 → x.retired = [] → 5 ≤ failing.length → failing.Nodup → Answers (.laneTrainingComplete link far m failing) s failed) ∧
     (1 ≤ l.state → l.state ≤ 5 → l.tries < 8 → Answers (.trainingStageTimeout link) s fun t =>
       (getLink t n).state = 2 ∧ (getLink t n).tries = l.tries + 1 ∧ (getMod t n far m).lanes = false ∧ t = { s with links := t.links }) ∧
     (1 ≤ l.state → l.state ≤ 5 → 8 ≤ l.tries → Answers (.trainingStageTimeout link) s failed)) ∧
  (∀ (link : Fin 8) (far : Bool) (minor reason module : Byte) (mask credits : W64) (s : State),
     let n := link.val
     let l := getLink s n
     let refused (t : State) : Prop := t.life = .failed ∧ (getLink t n).state = 7
     s.life = .starting →
     (l.state = 4 → mask.getLsbD 0 = true → l.before = none → (if far then l.gotA else l.gotB) = true →
       Answers (.caps link far 1 minor mask) s fun t =>
         (getLink t n).inter = (if far then l.advA else l.advB) &&& mask ∧ (getLink t n).state = 5 ∧
         t.outbox = s.outbox ++ [.ctl n false 3 0, .ctl n true 3 0] ∧ t = { s with links := t.links, outbox := t.outbox }) ∧
     (l.state = 4 → (if far then l.gotA else l.gotB) = false → mask.getLsbD 0 = true → Answers (.caps link far 1 minor mask) s fun t =>
       (if far then (getLink t n).advB else (getLink t n).advA) = mask ∧ (getLink t n).state = 4 ∧ t = { s with links := t.links }) ∧
     (l.state = 4 → Answers (.caps link far 2 minor mask) s refused) ∧
     (l.state = 4 → mask.getLsbD 0 = false → Answers (.caps link far 1 minor mask) s refused) ∧
     (l.state = 5 → (if far then l.creditA else l.creditB) = true → Answers (.credit link far credits) s fun t =>
       (getLink t n).state = 6 ∧ (getLink t n).tries = 0 ∧
       ∀ j, j < moduleCount n → (getMod t n (!far) j).credits = creditsOf credits ∧ (getMod t n (!far) j).txSeq = 0 ∧
         (getMod t n (!far) j).acked = 4095) ∧
     (1 ≤ l.state → l.state ≤ 5 → 1 ≤ reason.toNat → reason.toNat ≤ 3 → Answers (.linkRefuse link far reason) s refused) ∧
     (l.state = 6 → module = 0xFF ∨ module.toNat < moduleCount n → Answers (.retrain link module) s fun t =>
       t = { s with links := t.links } ∧ getLink t n = { l with
         state := 4
         before := some l.inter
         gotA := false
         gotB := false
         creditA := false
         creditB := false
         trafficHeld := true }))

/-- A link that runs (R228, R233 to R237, R249 to R251): a parity error below the threshold is counted, and in a header loses
the link; recalibration takes one lane out and returns it, or holds the traffic; a flit in order is taken and its
acknowledgement frees the replay buffer; a bad CRC or a gap in SEQ asks once for a replay; owed credits leave with an idle
flit.

Loss of a link and its sideband (R247, R248): a link lost reads lost and takes the domain down; a valid sideband frame
counts on, three in a row align the receiver; an aligned receiver that goes silent, or reads the partner's state as lost,
loses the link. -/
def Obligations.LinkTraffic : Prop :=
  (∀ (link : Fin 8) (far : Bool) (m : Fin 50) (lane : Fin 84) (flit : List Byte) (s : State),
     let n := link.val
     let l := getLink s n
     let x := getMod s n far m
     let unit := unitModule n far m
     let below : Prop := (tget s.epochs.windows unit {}).count + 1 < s.epochs.threshold
     l.state = 6 → m.val < moduleCount n →
     (below → Answers (.ratlineParityError link far m false lane) s fun t => t.links = s.links ∧ t.mem = s.mem ∧
       (tget t.epochs.windows unit {}).count = (tget s.epochs.windows unit {}).count + 1) ∧
     (below → s.life = .usable → s.homes.down = false → s.homes.dead = false →
       Answers (.ratlineParityError link far m true lane) s fun t => (getLink t n).state = 9 ∧ t.homes.down = true) ∧
     (x.recal = none → l.inter.getLsbD 7 = true → (excludedOf x).length < 4 → Answers (.ratlineRecalibration link far m lane) s fun t =>
       getMod t n far m = { x with excluded := x.excluded ++ [lane.val], recal := some lane.val } ∧ t = { s with links := t.links }) ∧
     (x.recal = none → l.inter.getLsbD 7 = false → Answers (.ratlineRecalibration link far m lane) s fun t =>
       getLink t n = { l with holds := l.holds + 1 } ∧ t = { s with links := t.links }) ∧
     (x.recal = some lane.val → Answers (.recalibrationLaneReturn link far m lane) s fun t =>
       getMod t n far m = { x with excluded := x.excluded.filter (fun i => i ≠ lane.val), recal := none } ∧
       t = { s with links := t.links }) ∧
     (flitGood flit = true → flitBad flit = false → flitSeq flit = (x.rxLast + 1) % 4096 → flitNak flit = false →
       Answers (.ratlineFlitReceived link far m flit) s fun t => t = { s with links := t.links } ∧
         (getMod t n far m).rxLast = (if flitIdle flit then x.rxLast else (x.rxLast + 1) % 4096) ∧
         (getMod t n far m).acked = flitAck flit ∧ (getMod t n far m).replay = afterAck (flitAck flit) x.replay) ∧
     (flitGood flit = true → flitBad flit = false → flitSeq flit ≠ (x.rxLast + 1) % 4096 → x.nakWait = false →
       Answers (.ratlineFlitReceived link far m flit) s fun t => getMod t n far m = { x with nakWait := true } ∧
         t.outbox = s.outbox ++ [.flit n far m x.txSeq x.rxLast true []] ∧ t = { s with links := t.links, outbox := t.outbox }) ∧
     (flitGood flit = false → below → Answers (.ratlineFlitReceived link far m flit) s fun t =>
       (getLink t n).badCrc = l.badCrc + 1 ∧ (getMod t n far m).nakWait = true ∧ (getMod t n far m).rxLast = x.rxLast ∧
       t.mem = s.mem) ∧
     Answers (.idleFlit link far m) s (fun t => t = { s with links := t.links, outbox := t.outbox } ∧
       ∃ r, t.outbox = s.outbox ++ [.flit n far m x.txSeq x.rxLast x.nakWait r] ∧
         ∀ v, v < 6 → nth (getMod t n far m).owed v 0 + nth r v 0 = nth x.owed v 0) ∧
     ((∃ v ∈ x.owed, v ≠ 0) → Answers (.creditReturnIdle link far m) s fun t =>
       ∃ r, t.outbox = s.outbox ++ [.flit n far m x.txSeq x.rxLast x.nakWait r] ∧
         ∀ v, v < 6 → nth (getMod t n far m).owed v 0 + nth r v 0 = nth x.owed v 0)) ∧
  (∀ (link : Fin 8) (why : LinkLoss) (far : Bool) (frame : W16) (s : State),
     let n := link.val
     let l := getLink s n
     let b := sideOf l far
     let lost (t : State) : Prop := (getLink t n).state = 9 ∧ t.homes.down = true
     let up : Prop := s.life = .usable ∧ s.homes.down = false ∧ s.homes.dead = false ∧ l.state = 6
     let form : Prop := frame.toNat / 256 = 0x7E ∧ frame.toNat / 16 % 16 < 5
     (up → Answers (.linkLossTimeout link why) s lost) ∧
     (up → (getDie s (endDie n far)).clocks = true → b.aligned = true → Answers (.sidebandTimeout link far) s lost) ∧
     ((getDie s (endDie n far)).clocks = true → form → frame.toNat % 16 = (b.count + 1) % 16 → frame.toNat / 16 % 16 < 3 →
       Answers (.sidebandFrame link far frame) s fun t => t = { s with links := t.links } ∧
         sideOf (getLink t n) far = { count := frame.toNat % 16, good := min 3 (b.good + 1), aligned := b.aligned || decide (2 ≤ b.good) } ∧
         (getLink t n).state = l.state) ∧
     (up → (getDie s (endDie n far)).clocks = true → form → frame.toNat % 16 = (b.count + 1) % 16 → 3 ≤ frame.toNat / 16 % 16 →
       2 ≤ b.good ∨ b.aligned = true → Answers (.sidebandFrame link far frame) s lost))

/-- Partition commands (R307 to R313, R397): a granted create makes the partition active with the units, quotas and channels its
words name, no other partition changed, and the general registers of its control cores zero; a reset by drain with work left
drains, one with none, a squash, and a drain past its limit leave it active; destroying leaves it absent, its Reef windows
disabled and its fault ring gone. -/
def Obligations.PartitionCommands : Prop :=  ∀ (q : Requester) (k : Cls) (ws : List W64) (p : Fin 64) (s : State),
    let n := partNum ws
    let given : Prop := Granted s q 0x3100 1 k ∧ windowPort q = none ∧ k.trio = true ∧ hostMay s k n = true ∧ ws.length = 13 ∧
      partCheck s ws = 0
    (given → opOf ws = 1 → Served (.partitionCreate q ws) s q 0x3100 1 7 fun u =>
      getPart u n = { state := 1
                      cores := partCores ws
                      ccores := partCcores ws
                      ways := bits (wordAt ws 5) 47 40
                      slices := bits (wordAt ws 5) 39 0
                      watchQuota := bits (wordAt ws 6) 63 49
                      ctxQuota := bits (wordAt ws 6) 48 36
                      port := portOf q
                      guaranteed := 1024 * popN 96 (partCores ws) / 96
                      channels := partChans ws } ∧
      (∀ m, m ≠ n → getPart u m = getPart s m) ∧ u.mem = s.mem ∧
      (∀ c, getCC u c = if bit (partCcores ws) c && c < 96 then
          { getCC s c with th := { (getCC s c).th with gpr := [] }, icache := [] } else getCC s c) ∧ tfind u.disp.results (transport q) = some (0, n)) ∧
    (given → opOf ws = 2 → partBusy s n = true → Served (.partitionResetByDrain q ws) s q 0x3100 1 7 fun u =>
      getPart u n = { getPart s n with state := 2, limit := bits (wordAt ws 0) 31 0 } ∧
      tfind u.disp.results (transport q) = some (1, n) ∧ u = { s with disp := u.disp }) ∧
    (given → opOf ws = 2 → partBusy s n = false → Served (.partitionResetByDrain q ws) s q 0x3100 1 7 fun u =>
      (getPart u n).state = 1 ∧ (getPart u n).limit = 0) ∧
    (given → opOf ws = 3 → Served (.partitionResetBySquash q ws) s q 0x3100 1 7 fun u =>
      (getPart u n).state = 1 ∧ (getPart u n).limit = 0) ∧
    (given → opOf ws = 4 → Served (.partitionDestroy q ws) s q 0x3100 1 7 fun u => getPart u n = {} ∧
      (∀ w r, tfind u.homes.reef w = some r → r.part = n → r.size = 0) ∧ (getRing u n).base = 0 ∧
      (∀ c, c < 96 → bit (getPart s n).ccores c = true → (getCC u c).th.gpr = []) ∧
      tfind u.disp.results (transport q) = some (0, n)) ∧
    (halyard s = true → (getPart s p).state = 2 → (getPart s p).limit ≠ 0 → Answers (.drainLimitExpiry p) s fun t =>
      (getPart t p).state = 1 ∧ (getPart t p).limit = 0)

/-- Context commands (R317, R318, R321, R333): a granted create makes a live context with the fields its words name, counted
against its partition; a squash of a context with no work left moves its queue's HEAD to TAIL and leaves it live; destroying
it removes it and gives its frames back to the partition; a pre-emption asks each of its groups to save, and is done at once
where there is none.

Queue commands (R323): a granted create takes a free handle and makes the queue its words name, its HEAD the TAIL found in
memory; a delete of a queue with no descriptor left removes it, of another stops its fetching; a selection is held. -/
def Obligations.ContextsAndQueues : Prop :=
  (∀ (q : Requester) (k : Cls) (ws : List W64) (s : State) (c : Ctx),
     let n := ctxNum ws
     let b := BitVec.ofNat 12 n
     let given : Prop := Granted s q 0x3110 1 k ∧ windowPort q = none ∧ k.trio = true ∧ ws.length = 9 ∧ ctxCheck s ws = 0
     let idle : Prop := groupsOf s b = [] ∧ arraysOf s b = [] ∧ s.disp.entries = []
     let result (u : State) (r : Nat) : Prop := tfind u.disp.results (128 + transport q) = some (r, n)
     given →
     (opOf ws = 1 → Served (.contextCreate q ws) s q 0x3110 1 7 fun u => result u 0 ∧ u.mem = s.mem ∧
       (getPart u (ctxOf ws).part).contexts = (getPart s (ctxOf ws).part).contexts + 1 ∧
       ∃ y, getCtx u n = some y ∧ y.state = .live ∧ y.part = (ctxOf ws).part ∧ y.slot = (ctxOf ws).slot ∧ y.root = nth ws 2 0 ∧
         y.maxres = (ctxOf ws).maxres ∧ y.rm = s.defRm ∧ y.ovf = s.defOvf ∧ y.nrflag = false) ∧
     (∀ h r, opOf ws = 2 → getCtx s n = some c → idle → s.disp.queues = [(h, r)] → r.ctx.toNat = n →
       QuietSpan s (r.ring + 128) 8 → Served (.contextSquash q ws) s q 0x3110 1 7 fun u => result u 0 ∧
         (getCtx u n).map Ctx.state = some c.state ∧ getQueue u h = some { r with head := max r.head r.tail } ∧
         Wrote s u (r.ring + 128) (natLe 8 (max r.head r.tail))) ∧
     (opOf ws = 3 → getCtx s n = some c → idle → queuesOf s n = [] → tsorted s.disp.ctxs = true →
       Served (.contextDestroy q ws) s q 0x3110 1 7 fun u => result u 0 ∧ getCtx u n = none ∧
         ∀ f o, tfind s.hbm.own f = some o → o.state = 2 → o.owner = n → (getOwn u f).state = 1 ∧ (getOwn u f).owner = 0) ∧
     (opOf ws = 4 → getCtx s n = some c → groupsOf s b = [] → Served (.contextPreempt q ws) s q 0x3110 1 7 fun u =>
       result u 0 ∧ (getCtx u n).map Ctx.preempting = some false ∧ u.mem = s.mem) ∧
     (opOf ws = 4 → getCtx s n = some c → groupsOf s b ≠ [] → Served (.contextPreempt q ws) s q 0x3110 1 7 fun u =>
       result u 1 ∧ (getCtx u n).map Ctx.preempting = some true ∧ u.mem = s.mem ∧
       ∀ key slot g, getGroup s key slot = some g →
         getGroup u key slot = some (if g.ctx = b then { g with saveReq := true } else g))) ∧
  (∀ (q : Requester) (k : Cls) (ws : List W64) (handle : W16) (s : State) (r : Queue),
     let x := queueOf ws
     let h := queueHandle ws
     let given : Prop := Granted s q 0x3120 1 k ∧ windowPort q = none ∧ k.trio = true ∧ ws.length = 8 ∧ queueCheck s ws = 0
     (given → opOf ws = 1 → (∃ i, i < 16384 ∧ tfind s.disp.watches i = none) → 2 ^ 28 ≤ x.ring → 2 ^ 28 ≤ x.compl →
       Served (.queueCreate q ws) s q 0x3120 1 7 fun u => ∃ i, i < 16384 ∧ tfind s.disp.watches i = none ∧
         tfind u.disp.results (256 + transport q) = some (0, i) ∧
         getQueue u i = some { x with
           head := leNat (memBytes s x.ring 8)
           tail := leNat (memBytes s x.ring 8)
           ctail := leNat (memBytes s (x.compl + 128) 8) }) ∧
     (given → opOf ws = 2 → getQueue s h = some r → (∀ e ∈ s.disp.entries, e.2.queue ≠ h) → tsorted s.disp.queues = true →
       Served (.queueDelete q ws) s q 0x3120 1 7 fun u => getQueue u h = none ∧ u.mem = s.mem) ∧
     (given → opOf ws = 2 → getQueue s h = some r → (∃ e ∈ s.disp.entries, e.2.queue = h) →
       Served (.queueDelete q ws) s q 0x3120 1 7 fun u => getQueue u h = some { r with deleting := true } ∧
         u = { s with disp := u.disp }) ∧
     (Granted s q 0x3121 3 k → k.trio = true → Served (.queueSelect q handle) s q 0x3121 3 1 fun u =>
       u = { s with disp := { s.disp with selected := handle.toNat } }))

/-- The silt pool (R280, R284, R340, R341) and replica pairs (R301): before the first write of an epoch to a preserved frame of
a protected job a free slot takes the frame's bytes and a record of it, the frame itself unchanged; the pool's size,
tracking and a replica pair take the value of a granted write; a harvest writes a tracked frame's number to the buffer and
frees its record. -/
def Obligations.SiltAndReplicas : Prop :=  ∀ (frame : BitVec 24) (writer : W16) (q : Requester) (k : Cls) (pct value : Byte) (p : Fin 64) (r : Fin 32) (sub : Byte)
    (w0 w1 word : W64) (s : State),
    let f := frame.toNat
    let o := getOwn s f
    let j := slotOfCtx s o.owner
    let sl := getSlot s j
    let i := lowestFree s.epochs.silt 0
    (running s = true → o.presv = true → o.state = 2 → (getCtx s o.owner).isSome = true → sl.protect ≠ 0 → f ∉ sl.copied →
      i < siltN s → (tget s.disp.tracks o.part {}).on = false → 5120 + siltP s ≤ f → Memory.wf s.mem = true →
      Answers (.siltCopy frame writer) s fun t =>
        (∀ a, a < 65536 → mread t.mem (siltSlotPa s i + a) = mread s.mem (f * 65536 + a)) ∧
        (∀ a, a / 65536 = f → mread t.mem a = mread s.mem a) ∧
        (∃ x, tfind t.epochs.silt i = some x ∧ x.frame = f ∧ x.kind = 1 ∧ x.slot = j ∧ x.epoch = sl.committed + 1 ∧
          x.seq = sl.seq + 1) ∧ f ∈ (getSlot t j).copied) ∧
    (Granted s q 0x7010 1 k → k.local2 = true → 2 ≤ pct.toNat → pct.toNat ≤ 40 → s.epochs.silt = [] →
      anyHeld s (5120 + siltP s) (5120 + poolFrames pct.toNat) = false → Served (.siltPoolResize q pct) s q 0x7010 1 0 fun u =>
        u.epochs = { s.epochs with pct := pct.toNat }) ∧
    (Granted s q (0x3400 + p) 1 k → k.trio = true → value = 1 → Served (.migrationTrackingSet q p value) s q (0x3400 + p) 1 6 fun u =>
      tget u.disp.tracks p {} = { tget s.disp.tracks p {} with on := true } ∧ u = { s with disp := u.disp }) ∧
    (∀ n x, Granted s q (0x3400 + p) 3 k → k.trio = true → windowPort q = none → w0.toNat % 4 = 0 → w1.toNat % 2 ^ 32 = 0 →
      1 ≤ w1.toNat / 2 ^ 32 → w0.toNat < 2 ^ 40 → rangeFrames w0.toNat (max 1 (4 * (w1.toNat / 2 ^ 32))) (harvestFrame s p) = true →
      s.epochs.silt = [(n, x)] → x.part = p → x.kind = 2 → (tget s.disp.tracks p {}).overflow = false → QuietSpan s w0.toNat 4 →
      w0.toNat + 4 ≤ siltBase → Served (.harvest q p w0 w1) s q (0x3400 + p) 3 7 fun u =>
        mreadN u.mem w0.toNat 4 = natLe 4 x.frame ∧ u.epochs.silt = [] ∧
        (tget u.disp.tracks p {}).state = 2 ∧ (tget u.disp.tracks p {}).count = 1) ∧
    (Granted s q (0x7400 + r) sub.toNat k → k.trio = true → 1 ≤ sub.toNat → sub.toNat ≤ 3 →
      replicaForm sub.toNat word.toNat = false →
      let x := replicaWith (tget s.epochs.replicas r {}) sub.toNat word.toNat
      x.size = 0 ∨ replicaBad s x = false → Served (.replicaPairActivate q r sub word) s q (0x7400 + r) sub.toNat 3 fun u =>
        tget u.epochs.replicas r {} = { x with state := if x.size = 0 then 0 else 1 } ∧ u = { s with epochs := u.epochs })

/-- Ports of Shroud that carry flits (R255 to R257): a flit in order is taken and its acknowledgement frees the replay buffer; a
bad CRC, a failed tag of a protected port, or a gap in SEQ asks for a replay and is counted where it is an error; a reserved
field or a loss sends the port back to training with nothing held, counted and reported.

A port's bring-up (R276): no partner, training, credits, identities, keys where the port is protected, up; a stage that
overran trains again, and after the third the port reads failed until it is tried again. -/
def Obligations.ShroudPorts : Prop :=
  (∀ (port : Fin 18) (flit : List Byte) (tagOk : Bool) (why : PortLoss) (s : State),
     let n := port.val
     let p := getPort s n
     let keyed : Prop := p.protect = 1 ∧ p.keyState = 2
     let below : Prop := (tget s.epochs.windows (unitPort n) {}).count + 1 < s.epochs.threshold
     let left := afterAck (flitAck flit) p.replay
     let lost (t : State) : Prop := (getPort t n).state = 2 ∧ (getPort t n).losses = p.losses + 1 ∧ (getPort t n).replay = [] ∧
       (getPort t n).queue = [] ∧ (∀ v ∈ (getPort t n).credits, v = 0) ∧
       .portev s.fabric.manager 1 n p.partner ∈ t.outbox ∧ t.mem = s.mem
     halyard s = true → 3 ≤ p.state → p.state ≤ 5 →
     (flitGood flit = true → sflitBad flit = false → (keyed → tagOk = true) → flitSeq flit = (p.rxLast + 1) % 4096 →
       flitNak flit = false → p.queue = [] → p.replays < 32 → Answers (.shroudFlitReceived port flit tagOk) s fun t =>
         t = { s with fabric := t.fabric } ∧
         (getPort t n).rxLast = (if flitIdle flit then p.rxLast else (p.rxLast + 1) % 4096) ∧
         (getPort t n).nakWait = false ∧ (getPort t n).acked = flitAck flit ∧ (getPort t n).replay = left ∧
         (getPort t n).state = p.state) ∧
     (flitGood flit = true → sflitBad flit = false → (keyed → tagOk = true) → flitSeq flit ≠ (p.rxLast + 1) % 4096 →
       Answers (.shroudFlitReceived port flit tagOk) s fun t => getPort t n = { p with nakWait := true } ∧
         t.outbox = s.outbox ++ (if p.nakWait then [] else [.sflit n p.txSeq p.rxLast true]) ∧
         t = { s with fabric := t.fabric, outbox := t.outbox }) ∧
     (flitGood flit = false → below → Answers (.shroudFlitReceived port flit tagOk) s fun t =>
       getPort t n = { p with badCrc := p.badCrc + 1, nakWait := true } ∧ t.mem = s.mem) ∧
     (flitGood flit = true → keyed → tagOk = false → below → Answers (.shroudFlitReceived port flit tagOk) s fun t =>
       getPort t n = { p with tagFails := p.tagFails + 1, nakWait := true } ∧ t.mem = s.mem) ∧
     (flitGood flit = true → sflitBad flit = true → (keyed → tagOk = true) →
       Answers (.shroudFlitReceived port flit tagOk) s lost) ∧
     ((why = .replayed32 → 32 ≤ p.replays) → (why = .unacked → p.replay ≠ []) → Answers (.shroudPortLoss port why) s lost)) ∧
  (∀ (port : Fin 18) (i : PortIdent) (s : State),
     let n := port.val
     let p := getPort s n
     let goes (t : State) (st : Nat) : Prop := (getPort t n).state = st ∧ t.mem = s.mem ∧ ∀ m, m ≠ n → getPort t m = getPort s m
     halyard s = true → s.life = .usable →
     (p.state ≤ 2 → Answers (.portBringup port .noPartner) s fun t => goes t 1) ∧
     (p.state ≤ 1 → Answers (.portBringup port .detect) s fun t => goes t 2) ∧
     (p.state = 2 → Answers (.portBringup port .trained) s fun t => goes t 3 ∧ (getPort t n).rxLast = 4095) ∧
     (p.state = 3 → Answers (.portBringup port .initialised) s fun t => getPort t n = { p with credits := portCredits } ∧
       t = { s with fabric := t.fabric }) ∧
     (p.state = 3 → p.credits = portCredits → p.protect ≠ 1 → p.queue = [] → Answers (.portBringup port (.ident i)) s fun t =>
       goes t 5 ∧ (getPort t n).partner = i.device.toNat ∧ (getPort t n).partnerPort = i.port.toNat ∧
       .portev s.fabric.manager 2 n i.device.toNat ∈ t.outbox ∧
       t.fabric.role = (if s.fabric.role = 1 ∧ s.fabric.gen < i.gen.toNat then 2 else s.fabric.role)) ∧
     (p.state = 3 → p.credits = portCredits → p.protect = 1 → Answers (.portBringup port (.ident i)) s fun t =>
       goes t 4 ∧ (getPort t n).keyState = 1 ∧ .keyx n 1 ∈ t.outbox ∧ .keyx n 2 ∈ t.outbox) ∧
     (p.state = 4 → p.keyState = 2 → p.queue = [] → Answers (.portBringup port .keyed) s fun t => goes t 5 ∧
       .portev s.fabric.manager 2 n p.partner ∈ t.outbox) ∧
     (2 ≤ p.state → p.state ≤ 4 → Answers (.portBringup port .overrun) s fun t =>
       goes t (if 2 ≤ p.failures then 7 else 2) ∧ (getPort t n).failures = p.failures + 1) ∧
     (p.state = 7 → Answers (.portFailedRetry port) s fun t => goes t 2 ∧ (getPort t n).failures = 0))

/-- Routing (R258, R260, R262): a packet for another device leaves by the port and lane its generation's entry names, with one
hop less; one with no entry or no usable port, or with no hops left, is dropped, a request among them refused with 6 or 5.

Failed paths, route tables and the device's identifier (R258, R262, R265): a write clears one destination's failed path, or
every one; a load fills the bank that is not current, entry by entry, and its old generation serves no more; a switch under
a higher generation makes it current and tries failed paths again; the identifier is written while no job and no request is
open. -/
def Obligations.RoutingAndTables : Prop :=
  (∀ (port : Fin 18) (op : BitVec 6) (p : SPkt) (data : List Byte) (s : State) (o : Nat),
     let n := op.toNat
     let dst := p.dst.toNat
     let dropped (status : Nat) : Prop :=
       (pktClass n ≠ 0 → exec (.packetForward port op p data) s = .next s) ∧
       (pktClass n = 0 → AnswerBy s p 0x24 [] o → Answers (.packetForward port op p data) s fun t =>
         t.outbox = s.outbox ++ [.packet o 0x24 (answerHdr s p status false 0) []] ∧
         t = { s with fabric := t.fabric, outbox := t.outbox })
     arrives s port p = true → dst ≠ 0xFFFF → s.fabric.device ≠ 0xFFFF → dst ≠ s.fabric.device →
     (routeEntry s p.rgen.toNat dst = none → dropped 6) ∧
     (∀ e, routeEntry s p.rgen.toNat dst = some e → routePort s e p.src.toNat = none ∨ p.hops = 0 → dropped 5) ∧
     (∀ e vl, routeEntry s p.rgen.toNat dst = some e → routePort s e p.src.toNat = some (o, vl) → p.hops ≠ 0 →
       (getPort s o).queue = [] → portCan s o { vc := 2 * pktClass n + vl, op := n, p := p, data := data } = true →
       Answers (.packetForward port op p data) s fun t =>
         t.outbox = s.outbox ++ [.packet o n { p with hops := p.hops - 1 } data] ∧
         nth (getPort t o).credits (2 * pktClass n + vl) 0 + (2 + (data.length + 15) / 16) =
           nth (getPort s o).credits (2 * pktClass n + vl) 0 ∧
         t = { s with fabric := t.fabric, outbox := t.outbox })) ∧
  (∀ (q : Requester) (k : Cls) (dest first id : W16) (count : BitVec 9) (res : Bool) (es : List W32) (gen : W32) (s : State),
     let f := s.fabric
     let other (t : State) : Tab W32 := if f.current = 0 then t.fabric.bank1 else t.fabric.bank0
     let current (t : State) : Tab W32 := if f.current = 0 then t.fabric.bank0 else t.fabric.bank1
     let i0 := first.toNat
     (Granted s q 0x5010 3 k → k.local2 = true → Served (.pathClear q dest) s q 0x5010 3 1 fun u =>
       u = { s with fabric := { f with failed := if dest = 0xFFFF then [] else f.failed.filter fun d => d ≠ dest.toNat } }) ∧
     (Granted s q 0x5200 3 k → windowPort q = none → k.trio = true → res = false → 1 ≤ count.toNat → count.toNat ≤ 256 →
       es.length = count.toNat → i0 + es.length ≤ 65536 → es.all routeOk = true →
       Served (.routeTableLoad q first count res es) s q 0x5200 3 7 fun u =>
         (∀ j, j < es.length → tget (other u) (i0 + j) 0 = es.getD j 0) ∧
         (∀ j, j < i0 ∨ i0 + es.length ≤ j → tget (other u) j 0 = tget (other s) j 0) ∧ current u = current s ∧
         u.fabric.loaded = false ∧ u = { s with fabric := u.fabric }) ∧
     (Granted s q 0x5200 4 k → k.trio = true → f.routeGen < gen.toNat →
       Served (.routeGenerationSwitch q gen) s q 0x5200 4 2 fun u =>
         u.fabric.current = 1 - f.current ∧ u.fabric.routeGen = gen.toNat ∧ u.fabric.otherGen = f.routeGen ∧
         u.fabric.loaded = true ∧ u.fabric.failed = [] ∧ u.fabric.bank0 = f.bank0 ∧ u.fabric.bank1 = f.bank1 ∧
         u = { s with fabric := u.fabric }) ∧
     (Granted s q 0x5200 4 k → k.trio = true → gen.toNat ≤ f.routeGen →
       RefusedWith (.routeGenerationSwitch q gen) s q 0x5200 4 3 2) ∧
     (Granted s q 0x5000 2 k → k.trio = true → deviceQuiet s = true → Served (.deviceIdentifierWrite q id) s q 0x5000 2 1 fun u =>
       u = { s with fabric := { f with device := id.toNat } }) ∧
     (Granted s q 0x5000 2 k → k.trio = true → deviceQuiet s = false → RefusedWith (.deviceIdentifierWrite q id) s q 0x5000 2 4 1))

/-- Remote requests served at the homes (R140, R149, R172, R263, R264): a read answers the granules its header names and changes
no byte, a reservation read also reserves the line; a write changes exactly the bytes it names; an atomic leaves the
operation's result and answers the old value; a conditional store writes only where its reservation holds; a reduction
reduces each granule.

Remote requests not served (R258, R263): with no enabled entry of its job, or failing the ownership check, a request is
refused with 1; of a job that rolls back, or outside what the device serves, with 2; a reserved field from another device
loses the port. Nothing of memory changes. -/
def Obligations.RemoteRequests : Prop :=
  (∀ (port : Fin 18) (p : SPkt) (data : List Byte) (s : State) (e : JobEntry) (o : Nat),
     let b := pktBy p e
     let pa := pktPa p
     let gs := pktGranules p
     let size := 2 ^ p.bsize.toNat
     let bytes := (data.drop p.boff.toNat).take size
     let read := gs.flatMap fun g => memBytes s (p.addr.toNat + 16 * g) 16
     let sends (t : State) (op status gmask : Nat) (d : List Byte) : Prop :=
       t.outbox = s.outbox ++ [.packet o op (answerHdr s p status false gmask) d]
     let inGranules (a : Nat) : Prop := ∃ g ∈ gs, p.addr.toNat + 16 * g ≤ a ∧ a < p.addr.toNat + 16 * g + 16
     (Accepted s port 0x01 p [] e → AnswerBy s p 0x20 read o → Answers (.shroudRd port p) s fun t =>
       sends t 0x20 0 (maskOf gs) read ∧ t.homes.resvs = s.homes.resvs ∧
       t = { s with homes := t.homes, fabric := t.fabric, outbox := t.outbox }) ∧
     (Accepted s port 0x04 p [] e → AnswerBy s p 0x20 read o → Answers (.shroudRes port p) s fun t =>
       sends t 0x20 0 (maskOf gs) read ∧ hasResv t b.key (pa / 128) = true ∧
       t = { s with homes := t.homes, fabric := t.fabric, outbox := t.outbox }) ∧
     (Accepted s port 0x02 p data e → AnswerBy s p 0x21 [] o → p.bsize.toNat < 4 → p.boff.toNat + size ≤ 16 → data.length = 16 →
       p.poison = false → Answers (.wr port p data) s fun t => Wrote s t pa bytes ∧ sends t 0x21 0 0 []) ∧
     (Accepted s port 0x02 p data e → AnswerBy s p 0x21 [] o → p.bsize = 4 → data.length = 16 * gs.length → p.poison = false →
       Answers (.wr port p data) s fun t => gs.flatMap (fun g => memBytes t (p.addr.toNat + 16 * g) 16) = data ∧
         (∀ a, ¬ inGranules a → mread t.mem a = mread s.mem a) ∧ sends t 0x21 0 0 []) ∧
     (∀ op dbl, aopOf p.aop.toNat = some (op, dbl) → Accepted s port 0x03 p data e → data.length = 16 →
       let n := if dbl then 8 else 4
       let old := leNat (memBytes s pa n)
       p.boff.toNat + n ≤ 16 → AnswerBy s p 0x22 (natLe 16 old) o → Answers (.shroudAmo port p data) s fun t =>
         Wrote s t pa (natLe n (if op = .cas then
           amoApply .cas (8 * n) old (leNat ((data.drop 8).take n)) (leNat (data.take n))
           else amoApply op (8 * n) old (leNat (data.take n)) 0)) ∧ sends t 0x22 0 1 (natLe 16 old)) ∧
     (Accepted s port 0x05 p data e → AnswerBy s p 0x23 [] o → p.boff.toNat + size ≤ 16 → data.length = 16 →
       hasResv s b.key (pa / 128) = true → Answers (.shroudScond port p data) s fun t => Wrote s t pa bytes ∧
         hasResv t b.key (pa / 128) = false ∧ sends t 0x23 0 0 []) ∧
     (Accepted s port 0x05 p data e → AnswerBy s p 0x23 [] o → hasResv s b.key (pa / 128) = false →
       Answers (.shroudScond port p data) s fun t => t.mem = s.mem ∧ sends t 0x23 4 0 []) ∧
     (Accepted s port 0x06 p data e → AnswerBy s p 0x21 [] o → p.bsize = 4 → data.length = 16 * gs.length →
       fmtBits (bits p.opx.toNat 7 2) ∈ [8, 16, 32] → Answers (.red port p data) s fun t =>
         (∀ x ∈ gs.zipIdx, memBytes t (p.addr.toNat + 16 * x.1) 16 = reduceBytes (bits p.opx.toNat 10 8) (bits p.opx.toNat 7 2)
           ((data.drop (16 * x.2)).take 16) (memBytes s (p.addr.toNat + 16 * x.1) 16)) ∧
         (∀ a, ¬ inGranules a → mread t.mem a = mread s.mem a) ∧ sends t 0x21 0 0 [])) ∧
  (∀ (port : Fin 18) (p : SPkt) (data : List Byte) (s : State) (i : Instr) (op o : Nat),
     let refused (status : Nat) : Prop := Answers i s fun t =>
       t.outbox = s.outbox ++ [.packet o 0x24 (answerHdr s p status false 0) []] ∧
       t = { s with fabric := t.fabric, outbox := t.outbox }
     let x := getPort s port
     (i, op) ∈ [(Instr.shroudRd port p, 0x01), (.wr port p data, 0x02), (.shroudAmo port p data, 0x03), (.shroudRes port p, 0x04),
       (.shroudScond port p data, 0x05), (.red port p data, 0x06)] →
     arrives s port p = true → p.dst.toNat ≠ 0xFFFF →
     (requestBad op p = true → p.src.toNat ≠ s.fabric.device → Answers i s fun t => (getPort t port).state = 2 ∧
       (getPort t port).losses = x.losses + 1 ∧ t.mem = s.mem) ∧
     (requestBad op p = false → s.fabric.device ≠ 0xFFFF → p.dst.toNat = s.fabric.device → AnswerBy s p 0x24 [] o →
       (jobEntry s p.job.toNat = none → refused 1) ∧
       (∀ e, jobEntry s p.job.toNat = some e → e.rolling = true ∨ domainUp s = false ∨ covered s p.addr.toNat = false → refused 2) ∧
       (∀ e, jobEntry s p.job.toNat = some e → e.rolling = false → domainUp s = true → covered s p.addr.toNat = true →
         paPass s (pktBy p e).who (op ≠ 0x01 && op ≠ 0x04) p.addr.toNat = false → refused 1)))

/-- Collectives (R267, R269): an eligible descriptor takes its tree's next round; a child's chunk is kept until every child's is
in, then the parts are reduced in index order onto the device's own chunk and sent up; the parent's result for a chunk that
was sent up is written, and the last one completes the descriptor; a packet that matches none is counted; a wait too long
fails the path of the device waited for and tears the context down. -/
def Obligations.Collectives : Prop :=  ∀ (e : BitVec 10) (p : SPkt) (data : List Byte) (tree : Byte) (s : State) (x : Entry) (w : Work) (c : Collective)
    (chunk child : Nat),
    let tr := getTree s c.tree
    let kept (c : Collective) : Collective := { c with got := c.got ++ [(chunk, child, data)] }
    let pieces := copyPieces (c.dst + 256 * chunk) 256
    let s1 := modColl s c.tree kept
    let fits : Prop := 1 ≤ child ∧ child ≤ tr.children ∧ chunk < c.chunks ∧ contribution c chunk child = none ∧ chunk ∉ c.sent
    let here : Prop := collArrives s p = true ∧ collMatch s p = some (c, chunk, child) ∧ c.done.length < c.chunks
    (running s = true → getEntry s e.toNat = some x → startable s x 3 = some w →
      let t0 := treeOf w.words
      let tr := getTree s t0
      tr.job ≠ 0 → tr.job = ctxJob s x.ctx.toNat → collOn s t0 = none → 1 ≤ tr.children → 1 ≤ lenField w.words / 256 →
      Answers (.collective e) s fun t => t = { s with disp := t.disp, fabric := t.fabric } ∧
        (∃ y, getEntry t e.toNat = some y ∧ y.phase = .running ∧
          y.parts = x.parts.map fun v => if v.place = w.place then { w with running := true } else v) ∧
        ∃ c', t.fabric.running = s.fabric.running ++ [c'] ∧ c'.tree = t0 ∧ c'.entry = e.toNat ∧ c'.ctx = x.ctx ∧
          c'.round = (tr.round + 1) % 65536 ∧ c'.chunks = lenField w.words / 256 ∧ c'.got = [] ∧ c'.done = []) ∧
    (here → fits → (∃ j, 1 ≤ j ∧ j ≤ tr.children ∧ j ≠ child ∧ contribution c chunk j = none) →
      Answers (.contrib p data) s fun t => collOn t c.tree = some (kept c) ∧
        t = { s with fabric := { s.fabric with running := t.fabric.running } }) ∧
    (∀ parts s2 own o vl, here → fits → chunk ∉ c.done → tr.parent < 0xFFFF →
      contributions (kept c) chunk ((List.range tr.children).map fun i => i + 1) = some parts →
      copySource s1 c.ctx [] (copyPieces (c.src + 256 * chunk) 256) = (s2, own, none) → outPort s tr.parent = some (o, vl) →
      (o = 32 ∨ ((getPort s o).queue = [] ∧ ∀ d : List Byte, d.length ≤ 256 →
        portCan s o { vc := 4 + vl, op := 0x30, p := p, data := d } = true)) →
      (parts.foldl (fun a q => reduceBytes c.rop c.fmt q a) own).length ≤ 256 → Answers (.contrib p data) s fun t =>
        (collOn t c.tree).map Collective.sent = some (c.sent ++ [chunk]) ∧
        ∃ h, t.outbox.getLast? = some (.packet o 0x30 h (parts.foldl (fun a q => reduceBytes c.rop c.fmt q a) own)) ∧
          h.dst = BitVec.ofNat 16 tr.parent ∧ h.opx = BitVec.ofNat 64 (collWord c chunk tr.index)) ∧
    (here → chunk ∈ c.sent → chunk ∉ c.done → c.done.length + 1 < c.chunks → Answers (.result p data) s fun t =>
      (collOn t c.tree).map Collective.done = some (c.done ++ [chunk]) ∧
      t.mem = (copyWrites s c.entry c.ctx pieces data).1.mem) ∧
    (here → chunk ∈ c.sent → chunk ∉ c.done → c.done.length + 1 = c.chunks → getEntry s c.entry = some x → x.parts = [w] →
      x.phase = .running → w.running = true → kindOf w.words = 3 → treeOf w.words = c.tree → w.ids = [] → w.tag = 0 →
      (∀ q ∈ pieces, ∃ l, heldOf s c.ctx.toNat q.1 = some l ∧ l.tgt = 0) → Answers (.result p data) s fun t =>
        EntryEnds t c.entry 0 ∧ (getTree t c.tree).round = c.round ∧ collOn t c.tree = none) ∧
    (∀ i, i ∈ [Instr.contrib p data, .result p data] → collArrives s p = true → collMatch s p = none →
      let n := bits p.opx.toNat 63 56
      exec i s = .next (modTree s n fun y => { y with discarded := y.discarded + 1 })) ∧
    (∀ d y, running s = true → collOn s tree.toNat = some c → collWaits s c = some d → s.fabric.out = [] →
      getCtx s c.ctx.toNat = some y → Answers (.collectiveTimeout tree) s fun t => d ∈ t.fabric.failed ∧
        (getCtx t c.ctx.toNat).map Ctx.state = some .torn)

/-- Roles (R257, R265, R271, R272, R276): a heartbeat of its manager is timed by a standby, and one of a higher generation makes
a manager a standby; a standby that hears none takes over with the next generation and claims the role; a claim of the
standby with a higher generation is accepted and answered with the manager in force; port events reach the manager's
software. An unassigned device accepts none of these packets (R258). -/
def Obligations.RolesChange : Prop :=  ∀ (src peer : W16) (gen : W32) (port : Byte) (s : State),
    let f := s.fabric
    let role := if f.device ≠ 0xFFFF ∧ f.role = 1 ∧ f.gen < gen.toNat then 2 else f.role
    let good : Prop := f.device ≠ 0xFFFF ∧ src.toNat = f.standby ∧ f.gen < gen.toNat
    let reports (i : Instr) (kind : Nat) : Prop := f.device ≠ 0xFFFF → f.role = 1 →
      exec i s = .next { s with outbox := s.outbox ++ [.portevIn src.toNat kind port.toNat peer.toNat] }
    halyard s = true →
    (f.role = 2 → Answers (.heartbeatTimeout) s fun t => .claim ((f.gen + 1) % 2 ^ 32) ∈ t.outbox ∧
      t = { s with
        fabric := { f with role := 1, gen := (f.gen + 1) % 2 ^ 32, manager := f.device }
        epochs := t.epochs
        outbox := t.outbox }) ∧
    (exec (.heartbeat src gen) s = .next { s with fabric := { f with
      role := role
      lastBeat := if f.device ≠ 0xFFFF ∧ role = 2 ∧ src.toNat = f.manager then sparTimer s else f.lastBeat } }) ∧
    (good → Answers (.claim src gen) s fun t => t.fabric = { f with role := role, manager := src.toNat, gen := gen.toNat } ∧
      ∃ op tag, t.outbox = s.outbox ++ [.dict (.fabric src gen false) op tag 0x5000 3 0 1 (natLe 2 src.toNat)]) ∧
    (¬ good → Answers (.claim src gen) s fun t => t.fabric = { f with role := role } ∧
      ∃ op tag, t.outbox = s.outbox ++ [.dict (.fabric src gen false) op tag 0x5000 3 2 1 (natLe 2 f.manager)]) ∧
    reports (.portevPortLost src port peer) 1 ∧ reports (.portevPortUp src port peer) 2 ∧
    reports (.portevPortRetired src port peer) 3 ∧ reports (.portevPathFailed src port peer) 4

/-- Key exchange (R273 to R275): chunks of the partner's chain are kept until it is whole and then verified; its OFFER is
verified against the chain and answered with CONFIRM; its CONFIRM ends the exchange, and the new phase is in force; whatever
does not verify, and an exchange that takes too long, leaves the port refused; a refused port tries again, and a rekey
starts an exchange while the old phase serves. -/
def Obligations.KeysExchanged : Prop :=  ∀ (port : Fin 18) (chunk nchunk : Byte) (sport : BitVec 5) (kph : Bool) (payload c i o : List Byte) (s : State),
    let n := port.val
    let p := getPort s n
    let p1 := { p with chain := tput p.chain chunk.toNat payload, chainLen := nchunk.toNat }
    let refused (t : State) : Prop := (getPort t n).state = 6 ∧ (getPort t n).keyState = 3 ∧ (getPort t n).offerOut = none ∧
      (getPort t n).chain = [] ∧ t.mem = s.mem
    let started (t : State) (st : Nat) : Prop := (getPort t n).state = st ∧ (getPort t n).offerOut = some (Config.offerOf n (!p.kph)) ∧
      (getPort t n).kph = p.kph ∧ (getPort t n).chain = [] ∧ .keyx n 1 ∈ t.outbox ∧ .keyx n 2 ∈ t.outbox ∧ t.mem = s.mem
    let formed : Prop := p.protect = 1 ∧ (p.state = 4 ∨ p.state = 5) ∧ p.offerOut = some o ∧ sport.toNat ≤ 17 ∧ payload.length = 192
    halyard s = true →
    (formed → chunk.toNat < nchunk.toNat → chainBytes p1 = none → Answers (.keyxChain port chunk nchunk sport kph false payload) s
      fun t => getPort t n = p1 ∧ t = { s with fabric := t.fabric }) ∧
    (formed → chunk.toNat < nchunk.toNat → chainBytes p1 = some c → Config.chainVerifies c = true →
      Answers (.keyxChain port chunk nchunk sport kph false payload) s fun t => getPort t n = { p1 with chainGood := true } ∧
        t = { s with fabric := t.fabric }) ∧
    (formed → chunk.toNat < nchunk.toNat → chainBytes p1 = some c → Config.chainVerifies c = false →
      Answers (.keyxChain port chunk nchunk sport kph false payload) s refused) ∧
    (formed → p.chainGood = true → chainBytes p = some c → Config.offerVerifies c payload = true → p.confirmIn = false →
      Answers (.keyxOffer port sport kph false payload) s fun t =>
        getPort t n = { p with offerIn := some payload, confirmOut := true } ∧ t.outbox = s.outbox ++ [.keyx n 3] ∧
        t = { s with fabric := t.fabric, outbox := t.outbox }) ∧
    (formed → p.chainGood = true → chainBytes p = some c → Config.offerVerifies c payload = false →
      Answers (.keyxOffer port sport kph false payload) s refused) ∧
    (formed → p.chainGood = false → Answers (.keyxOffer port sport kph false payload) s refused) ∧
    (formed → p.offerIn = some i → p.confirmOut = true → (∀ b ∈ payload.drop 48, b = 0) →
      (Config.confirmVerifies i o (payload.take 48) = true → Answers (.keyxConfirm port sport kph false payload) s fun t =>
        getPort t n = { p with
          keyState := 2
          exchanges := p.exchanges + 1
          kph := p.kphNext
          flits := 0
          chain := []
          chainLen := 0
          chainGood := false
          offerIn := none
          offerOut := none
          confirmIn := false
          confirmOut := false } ∧ t = { s with fabric := t.fabric }) ∧
      (Config.confirmVerifies i o (payload.take 48) = false → Answers (.keyxConfirm port sport kph false payload) s refused)) ∧
    (p.protect = 1 → p.state = 4 ∨ p.state = 5 → (∀ j, j ∈ [Instr.keyxChain port chunk nchunk sport kph true payload,
      .keyxOffer port sport kph true payload, .keyxConfirm port sport kph true payload] → Answers j s refused)) ∧
    (p.offerOut = some o → Answers (.keyExchangeTimeout port) s refused) ∧
    (p.state = 6 → Answers (.keyExchangeRetry port) s fun t => started t 4 ∧ (getPort t n).keyState = 1) ∧
    (p.state = 5 → p.protect = 1 → p.keyState = 2 → p.offerOut = none → Answers (.rekey port) s fun t =>
      started t 5 ∧ (getPort t n).keyState = 2)

/-- Reads by message and NEXT (R347 to R349, R411): the checks in their order give status 3, then the life's, 1, 2; an entry
that may be read answers its type and value, a counter of a Loam die is asked of its die; NEXT answers the first readable
entry after the one named, or status 1. Each request is answered once and counted.

Writes by message (R345, R347): the checks in their order give the life's status, 1 for an entry that is not there, 2 for a
class that may not write it, 5 for a wrong length, and the entry's own; a write that passes has its effect and is answered
with status 0. So the trace level, the rounding default and the missed-heartbeat count take the value of a granted write.

The BAR 0 window (R355, R356): an aligned read of a scalar entry returns its value, or the half asked for, and leaves status
0; one of an entry that is not scalar, or misaligned, returns 0 and leaves status 3; a write of eight aligned bytes is
checked as any write, and its status left; the window's own slots read as the status and the error count.

Directed control packets (R257, R270, R272, R344): one with hops to go is passed on by the port its next field names, that
field of the hop taking the port it came by; an answer goes back the same way, and is delivered where HOP comes to 0; one at
its end is handled, a read of the dictionary answered by the port it came by; a reserved field loses the port. -/
def Obligations.DictionaryAccess : Prop :=
  (∀ (q : Requester) (b : DictBody) (s : State) (k : Cls),
     let i := b.index.toNat
     let j := b.sub.toNat
     let tells (c : Instr) (i j status type : Nat) (v : List Byte) : Prop := Answers c s fun t =>
       t.outbox = s.outbox ++ [.dict q b.op.toNat b.tag.toNat i j status type v] ∧ t = { s with obs := t.obs, outbox := t.outbox } ∧
       t.obs.ok + t.obs.bad = s.obs.ok + s.obs.bad + 1
     let e := entryVal s q i j
     halyard s = true → reaches s q = true → windowPort q = none → classify s q = (s, some k) →
     (b.op ≠ 2 → b.op ≠ 3 → malformed q b = true → tells (.dictionaryRead q b) i j 3 0 []) ∧
     (b.op = 1 → malformed q b = false →
       (lifeStatus s false i j ≠ 0 → tells (.dictionaryRead q b) i j (lifeStatus s false i j) 0 []) ∧
       (lifeStatus s false i j = 0 → entryThere i j = false → tells (.dictionaryRead q b) i j 1 0 []) ∧
       (lifeStatus s false i j = 0 → entryThere i j = true → mayRead s k i j = false →
         tells (.dictionaryRead q b) i j 2 e.1 []) ∧
       (lifeStatus s false i j = 0 → entryThere i j = true → mayRead s k i j = true → onLoam i = false →
         tells (.dictionaryRead q b) i j 0 e.1 e.2) ∧
       (lifeStatus s false i j = 0 → entryThere i j = true → mayRead s k i j = true → onLoam i = true →
         Answers (.dictionaryRead q b) s fun t => t.outbox = s.outbox ++ [.counterRead (counterDie i) i j s.obs.nextRead] ∧
           (∃ r ∈ t.obs.reads, r.tag = s.obs.nextRead ∧ r.q = q ∧ r.index = i ∧ r.sub = j) ∧
           t = { s with obs := t.obs, outbox := t.outbox })) ∧
     (b.op = 3 → malformed q b = false →
       (s.life = .starting → tells (.next q b) i j 6 0 []) ∧
       (s.life ≠ .starting → nextEntry s k i j = none → tells (.next q b) 0xFFFF 0xFF 1 0 []) ∧
       (∀ m n, s.life ≠ .starting → nextEntry s k i j = some (m, n) → onLoam m = false →
         tells (.next q b) m n 0 (entryVal s q m n).1 (entryVal s q m n).2))) ∧
  (∀ (q : Requester) (b : DictBody) (s : State) (k : Cls) (c : Cmd) (mask : W64),
     let i := b.index.toNat
     let j := b.sub.toNat
     let bs := (b.rest ++ List.replicate b.len.toNat 0).take b.len.toNat
     let type := (entryVal s q i j).1
     let done (status type : Nat) (u : State) : Prop :=
       exec (.dictionaryWrite q b) s = .next (respondTo u q 2 b.tag.toNat i j status type [])
     let fits : Prop := lengthFits q i j (entryVal s q i j).2.length bs.length = true
     (halyard s = true → reaches s q = true → windowPort q = none → classify s q = (s, some k) → b.op = 2 → malformed q b = false →
       (lifeStatus s true i j ≠ 0 → done (lifeStatus s true i j) 0 s) ∧
       (lifeStatus s true i j = 0 → entryThere i j = false → done 1 0 s) ∧
       (lifeStatus s true i j = 0 → entryThere i j = true →
         (entryCmd s q i j bs = none → done 2 type (refusedEffect s q i j 2 bs)) ∧
         (entryCmd s q i j bs = some c → c.may s k = false → done 2 type (refusedEffect s q i j 2 bs)) ∧
         (entryCmd s q i j bs = some c → c.may s k = true → ¬ fits → done 5 type (refusedEffect s q i j 5 bs)) ∧
         (entryCmd s q i j bs = some c → c.may s k = true → fits → c.check s k ≠ 0 →
           done (c.check s k) type (refusedEffect s q i j (c.check s k) bs)) ∧
         (entryCmd s q i j bs = some c → c.may s k = true → fits → c.check s k = 0 → done 0 type (c.apply s k)) ∧
         (k.trio = true → bs.length = 1 → j = 1 → i = 0x2200 → leNat bs ≤ 2 →
           done 0 6 { s with obs := { s.obs with level := leNat bs } }) ∧
         (k.trio = true → bs.length = 1 → j = 1 → i = 0x2500 → leNat bs ≤ 3 → done 0 6 { s with defRm := leNat bs }) ∧
         (k.trio = true → bs.length = 1 → j = 7 → i = 0x5000 → 2 ≤ leNat bs → leNat bs ≤ 100 →
           done 0 0 { s with fabric := { s.fabric with missed := leNat bs } }))) ∧
     (Granted s q 0x7000 2 k → k.trio = true → mask.toNat < 2 ^ 19 → Served (.alarmClear q mask) s q 0x7000 2 3 fun u =>
       u = { s with obs := { s.obs with alarms := s.obs.alarms &&& ~~~mask } }) ∧
     (Granted s q 0x7000 2 k → k.trio = true → 2 ^ 19 ≤ mask.toNat → RefusedWith (.alarmClear q mask) s q 0x7000 2 3 3)) ∧
  (∀ (port : Fin 2) (offset : BitVec 27) (size : Byte) (value : W64) (s : State) (k : Cls) (c : Cmd),
     let q : Requester := .window port
     let o := offset.toNat
     let i := o / 2048
     let j := o % 2048 / 8
     let n := size.toNat
     let half := o % 8 / 4
     let aligned : Prop := (n = 8 ∧ o % 8 = 0) ∨ (n = 4 ∧ o % 4 = 0)
     let e := entryVal s q i j
     let x := getPcie s port
     let left (t : State) (status : Nat) : Prop := getPcie t port = { x with
       winStatus := status
       winErrors := if status = 0 then x.winErrors else x.winErrors + 1 }
     let returns (v : W64) (status : Nat) : Prop := Answers (.windowRead port offset size) s fun t => left t status ∧
       t.outbox = s.outbox ++ [.window port v] ∧ t = { s with pcie := t.pcie, outbox := t.outbox }
     let leaves (status : Nat) : Prop := Answers (.windowWrite port offset size value) s fun t => left t status ∧
       t = { s with pcie := t.pcie }
     halyard s = true → reaches s q = true → classify s q = (s, some k) →
     (i = 0 → aligned → exec (.windowRead port offset size) s = .next { s with outbox := s.outbox ++
       [.window port (halfOf (if j = 0 then x.winStatus else if j = 1 then x.winErrors else 0) half n)] }) ∧
     (i ≠ 0 → ¬ aligned → returns 0 3) ∧
     (i ≠ 0 → aligned → lifeStatus s false i j ≠ 0 → returns 0 (lifeStatus s false i j)) ∧
     (i ≠ 0 → aligned → lifeStatus s false i j = 0 → entryThere i j = false → returns 0 1) ∧
     (i ≠ 0 → aligned → lifeStatus s false i j = 0 → entryThere i j = true → mayRead s k i j = true →
       (7 ≤ e.1 → returns 0 3) ∧ (e.1 < 7 → onLoam i = false → returns (halfOf (slotValue e) half n) 0)) ∧
     (n ≠ 8 ∨ o % 8 ≠ 0 ∨ i = 0 → leaves 3) ∧
     (n = 8 → o % 8 = 0 → i ≠ 0 → lifeStatus s true i j ≠ 0 → entryThere i j = false → leaves (lifeStatus s true i j)) ∧
     (n = 8 → o % 8 = 0 → i ≠ 0 → lifeStatus s true i j = 0 → entryThere i j = true →
       entryCmd s q i j (natLe e.2.length value.toNat) = some c → e.1 < 7 → c.may s k = true → c.check s k = 0 →
       lengthFits q i j e.2.length e.2.length = true → highBad e.1 e.2.length value.toNat = false →
       exec (.windowWrite port offset size value) s = .next (windowStatus (c.apply s k) port 0))) ∧
  (∀ (port : Fin 18) (op : BitVec 6) (p : SPkt) (data : List Byte) (s : State),
     let n := op.toNat
     let w := p.opx.toNat
     let ndir := bits w 63 60
     let hop := bits w 59 56
     let x := getPort s port
     let clear (o m : Nat) (d : List Byte) : Prop := o < 18 ∧ (getPort s o).queue = [] ∧
       portCan s o { vc := 2 * pktClass m, op := m, p := p, data := d } = true
     let there := setHop (setHopPort w hop port) (hop + 1)
     let gen := p.addr.toNat % 2 ^ 32
     halyard s = true → x.state = 5 → 1 ≤ ndir →
     (∀ r, bit w 55 = true ∨ 11 < ndir ∨ pktClass n ≠ 3 → Answers (.directedPacket port op r p data) s fun t =>
       (getPort t port).state = 2 ∧ (getPort t port).losses = x.losses + 1 ∧ t.mem = s.mem) ∧
     (bit w 55 = false → ndir ≤ 11 → pktClass n = 3 →
       (hop + 1 < ndir → clear (hopPort there (hop + 1)) n data → Answers (.directedPacket port op false p data) s fun t =>
         t.outbox = s.outbox ++ [.packet (hopPort there (hop + 1)) n { p with opx := BitVec.ofNat 64 there } data] ∧
         hopPort there hop = port ∧ t = { s with fabric := t.fabric, outbox := t.outbox }) ∧
       (hop = 1 → exec (.directedPacket port op true p data) s =
         .next { s with outbox := s.outbox ++ [.packet 32 n { p with opx := BitVec.ofNat 64 (setHop w 0) } data] }) ∧
       (1 < hop → hop ≤ ndir → clear (hopPort (setHop w (hop - 1)) (hop - 2)) n data →
         Answers (.directedPacket port op true p data) s fun t =>
           t.outbox = s.outbox ++ [.packet (hopPort (setHop w (hop - 1)) (hop - 2)) n
             { p with opx := BitVec.ofNat 64 (setHop w (hop - 1)) } data] ∧
           t = { s with fabric := t.fabric, outbox := t.outbox }) ∧
       (hop + 1 = ndir → n = 0x3B → s.fabric.role = 2 → p.src.toNat = s.fabric.manager →
         exec (.directedPacket port op false p data) s =
           .next { s with fabric := { s.fabric with lastBeat := sparTimer s } }) ∧
       (∀ s' r, hop + 1 = ndir → n = 0x38 → (bodyOf data).op = 1 →
         serveBody (noteGen s gen) (.fabric p.src (BitVec.ofNat 32 gen) true) (bodyOf data) = (s', r) → x.queue = [] →
         portCan s port { vc := 6, op := 0x3A, p := p, data := respBytes 1 (bodyOf data).tag.toNat r } = true →
         Answers (.directedPacket port op false p data) s fun t => t.mem = s.mem ∧
           t.outbox = s.outbox ++ [.packet port 0x3A { directedHdr s' p with opx := BitVec.ofNat 64 there }
             (respBytes 1 (bodyOf data).tag.toNat r)])))

/-- Links and resets of the ports (R314, R316, R419, R421, R422): a port out of reset trains; an assertion that is taken drops
the link, its streams and its virtual functions; one too short may be ignored; a reset of a function squashes its
partitions, at once or when the coherent domain is back.

Requests of hosts (R141, R148, R179, R183, R192, R315, R396, R419): configuration requests are retried until the device is
usable, then completed with their effect; a read of HBM through a function completes with the bytes, poisoned where a line
is, or with Unsupported Request or Completer Abort where no region covers it or ownership forbids it; a write changes
exactly its bytes, or waits at its port where a line of it is deferred or locked; while the coherent domain is down reads
complete with Completer Abort and writes are discarded and counted; an integrity failure makes a secure stream Insecure.

Management endpoints (R346, R360, R393 to R396, R423): an endpoint takes its identifier and answers with it, and names its
versions and message types (numbers of the DMTF specifications, log entry 7); SPDM requests are served in order and counted:
the version, a measurement, a session more, up to four, and in a session a stream of IDE made secure. -/
def Obligations.HostAndManagement : Prop :=
  (∀ (port : Fin 2) (f : Fin 32) (s : State),
     let x := getPcie s port
     let v := getVF s (vfKey port f)
     ((getDie s 4).clocks = true → x.perst = false → portUsed s port = true → halyard s = true → Answers (.pcieLinkUp port) s fun t =>
       getPcie t port = { x with up := true } ∧ t = { s with pcie := t.pcie }) ∧
     (Answers (.perstDeassert port) s fun t => getPcie t port = { x with perst := false } ∧ t = { s with pcie := t.pcie }) ∧
     (exec (.perstAssert port false) s = .next s) ∧
     (portUsed s port = true → x.up = false → Answers (.perstAssert port true) s fun t => getPcie t port = { x with perst := true } ∧
       t = { s with pcie := t.pcie }) ∧
     (portUsed s port = true → x.up = true → Answers (.perstAssert port true) s fun t =>
       ((getPcie t port).perst = true ∧ (getPcie t port).up = false ∧ (getPcie t port).eid = 0 ∧ (getPcie t port).ideLink = 0 ∧
         (getPcie t port).ideSel = [] ∧ (getVF t (vfKey port f)).enabled = false)) ∧
     (halyard s = true → served s = true → x.up = true →
       (domainUp s = false → Answers (.functionLevelReset (.pf port)) s fun t => getPcie t port = { x with flr := true } ∧
         t = { s with pcie := t.pcie }) ∧
       (domainUp s = true → tsorted s.pcie = true → Answers (.functionLevelReset (.pf port)) s fun t =>
         (getPcie t port).flr = false ∧ (getPcie t port).up = true ∧
         ∀ n y, s.disp.portMode = 0 → tfind s.disp.parts n = some y → y.port = port → y.state = 2 →
           (getPart t n).state = 1) ∧
       (v.enabled = true → domainUp s = false → Answers (.functionLevelReset (.vf port f)) s fun t =>
         getVF t (vfKey port f) = { v with flr := true } ∧ t = { s with disp := t.disp }) ∧
       (v.enabled = true → domainUp s = true → v.part < 64 → Answers (.functionLevelReset (.vf port f)) s fun t =>
         (getVF t (vfKey port f)).flr = false ∧ (getVF t (vfKey port f)).busMaster = false ∧
         (getVF t (vfKey port f)).enabled = true ∧ ((getPart s v.part).state = 2 → (getPart t v.part).state = 1)))) ∧
  (∀ (port : Fin 2) (f : Func) (r : CfgReq) (m : Fin 33) (v : Fin 32) (on : Bool) (pa : BitVec 40) (size : Byte) (d : List Byte)
     (stream : Fin 9) (s : State) (p : Nat) (w : Who),
     let a := pa.toNat
     let b : By := { who := w, agent := agentPcie p }
     let x := getPcie s port
     let covers (n : Nat) : Prop := ∀ ln ∈ spanLines a n, covered s (ln * 128) = true
     let open0 (n : Nat) (write : Bool) : Prop := answers s p = true ∧ running s = true ∧ 0 < n ∧ (getPcie s p).waiting = [] ∧
       ∀ ln ∈ spanLines a n, (getLine s ln).lock = none ∧ (write = true → resvDefers s b.key ln = false)
     (answers s port = true → served s = false →
       exec (.configurationRequest port r) s = .next { s with outbox := s.outbox ++ [.config port true] }) ∧
     (answers s port = true → served s = true →
       (Answers (.configurationRequest port (.enableVfs m)) s fun t => t.outbox = s.outbox ++ [.config port false] ∧
         (getVF t (vfKey port v)).enabled = decide (v.val < m.val) ∧ t = { s with disp := t.disp, outbox := t.outbox }) ∧
       ((getVF s (vfKey port v)).enabled = true → Answers (.configurationRequest port (.busMaster v on)) s fun t =>
         getVF t (vfKey port v) = { getVF s (vfKey port v) with busMaster := on } ∧ t.outbox = s.outbox ++ [.config port false] ∧
         t = { s with disp := t.disp, outbox := t.outbox }) ∧
       exec (.configurationRequest port .other) s = .next { s with outbox := s.outbox ++ [.config port false] }) ∧
     (funcWho s f = (p, none) → answers s p = true → running s = true → 0 < size.toNat → (getPcie s p).waiting = [] →
       exec (.bar2Access f pa size none) s = .next { s with outbox := s.outbox ++ [.bar2 f 1 false []] }) ∧
     ((funcWho s f).1 = p → answers s p = true → domainLost s = true →
       (0 < size.toNat → exec (.bar2Access f pa size none) s = .next { s with outbox := s.outbox ++ [.bar2 f 2 false []] }) ∧
       (d ≠ [] → Answers (.bar2Access f pa size (some d)) s fun t =>
         getPcie t p = { getPcie s p with discarded := (getPcie s p).discarded + 1 } ∧ t = { s with pcie := t.pcie })) ∧
     (funcWho s f = (p, some w) → answers s p = true → running s = true → d ≠ [] →
       ((getPcie s p).waiting ≠ [] ∨ ∃ ln ∈ spanLines a d.length, lineDeferred s b.key ln = true) →
       Answers (.bar2Access f pa size (some d)) s fun t =>
         getPcie t p = { getPcie s p with waiting := (getPcie s p).waiting ++ [{ f := f, pa := a, n := d.length, data := some d }] } ∧
         t = { s with pcie := t.pcie }) ∧
     (funcWho s f = (p, some w) → open0 size.toNat false →
       (¬ covers size.toNat → exec (.bar2Access f pa size none) s = .next { s with outbox := s.outbox ++ [.bar2 f 1 false []] }) ∧
       (covers size.toNat → rangePass s w false a size.toNat = false → Answers (.bar2Access f pa size none) s fun t =>
         t.outbox = s.outbox ++ [.bar2 f 2 false []] ∧ t = { s with disp := t.disp, outbox := t.outbox }) ∧
       (covers size.toNat → rangePass s w false a size.toNat = true → Answers (.bar2Access f pa size none) s fun t => t.mem = s.mem ∧
         t.outbox.getLast? = some (.bar2 f 0 ((spanLines a size.toNat).any (linePoisoned s)) (memBytes s a size.toNat)))) ∧
     (funcWho s f = (p, some w) → open0 d.length true →
       (covers d.length → rangePass s w true a d.length = true → QuietSpan s a d.length →
         Answers (.bar2Access f pa size (some d)) s fun t => Wrote s t a d ∧ t.outbox = s.outbox) ∧
       (covers d.length → rangePass s w true a d.length = false → Answers (.bar2Access f pa size (some d)) s fun t =>
         (getPcie t p).caErrors = (getPcie s p).caErrors + 1 ∧ t = { s with disp := t.disp, pcie := t.pcie })) ∧
     (x.up = true → x.ideLink = 1 → Answers (.ideIntegrityFailure port 0) s fun t =>
       getPcie t port = { x with ideFails := x.ideFails + 1, ideLink := 2 } ∧ t = { s with pcie := t.pcie }) ∧
     (x.up = true → stream ≠ 0 → tget x.ideSel stream.val 0 = 1 → Answers (.ideIntegrityFailure port stream) s fun t =>
       (getPcie t port).ideFails = x.ideFails + 1 ∧ tget (getPcie t port).ideSel stream.val 0 = 2 ∧
       (getPcie t port).ideLink = x.ideLink ∧ t = { s with pcie := t.pcie })) ∧
  (∀ (ep : Fin 3) (eid address n : Byte) (port : Fin 2) (stream : Fin 9) (r : Responder) (s : State),
     let served0 (m : SpdmReq) (code : Nat) (v : List Byte) (t : State) : Prop :=
       exec (.spdmRequest r m) s = .next { t with sec := { t.sec with spdm := s.sec.spdm + 1 }, outbox := s.outbox ++ [.spdm r code v] }
     (halyard s = true → exec (.i3cDynamicAddressAssignment address) s = .next { s with i3cAddr := address.toNat }) ∧
     (epUp s ep = true → eid ≠ 0 → eid ≠ 0xFF → Answers (.setEndpointId ep eid) s fun t => eidOf t ep = eid.toNat ∧
       t.outbox = s.outbox ++ [.mctp ep 1 eid.toNat] ∧
       t = { s with i3cEid := if ep = 0 then eid.toNat else s.i3cEid, pcie := t.pcie, outbox := t.outbox }) ∧
     (epUp s ep = true → eid = 0 ∨ eid = 0xFF →
       exec (.setEndpointId ep eid) s = .next { s with outbox := s.outbox ++ [.mctp ep 1 (eidOf s ep)] }) ∧
     (epUp s ep = true → exec (.getEndpointId ep) s = .next { s with outbox := s.outbox ++ [.mctp ep 2 (eidOf s ep)] } ∧
       exec (.getMctpVersionSupport ep) s = .next { s with outbox := s.outbox ++ [.mctp ep 4 Config.mctpVersions] } ∧
       exec (.getMessageTypeSupport ep) s = .next { s with outbox := s.outbox ++ [.mctp ep 5 0x7E0605] }) ∧
     (responderUp s r = true → served0 (.negotiate 0x13 true) 0 [0x13] s ∧
       (∀ v, measurement s r n.toNat = some v → served0 (.measurement n) 0 (v ++ Config.spdmSigned 1 v) s) ∧
       served0 .certificate 0 (certificate s) s ∧ served0 .digests 0 (sha384 (certificate s)) s ∧
       (sessionsOf s r < 4 → Answers (.spdmRequest r .keyExchange) s fun t => sessionsOf t r = sessionsOf s r + 1 ∧
         t.sec.spdm = s.sec.spdm + 1) ∧
       (4 ≤ sessionsOf s r → served0 .keyExchange 0x0A [] s) ∧
       (sessionsOf s r = 0 → served0 .heartbeat 0x02 [] s ∧ served0 .finish 0x02 [] s) ∧
       (sessionsOf s r ≠ 0 → Answers (.spdmRequest r .endSession) s fun t => sessionsOf t r = sessionsOf s r - 1)) ∧
     (responderUp s (.doePf port) = true → sessionsOf s (.doePf port) ≠ 0 → Answers (.spdmRequest (.doePf port) (.ideKeyProg stream)) s
       fun t => if stream = 0 then (getPcie t port).ideLink = 1 else tget (getPcie t port).ideSel stream.val 0 = 1))

/-- Power modes and trim (R364, R380, R381, R383): a change into efficiency mode lowers the Loam dies' array ceilings and writes
their setpoints; an acknowledged setpoint is in force, and outside that mode raises the ceiling again; an unacknowledged one
sets the fault flag; a monitor inside its guard band raises the trim by 5 mV up to +20; the package ceiling falls above the
cap and rises after four milliseconds well below it.

Rails, droop and temperature (R375, R376, R382, R384, R385): a sample enters the window; above the projected limit the
rail's ceiling falls by 1, and after 64 samples well below it rises by 1, between 2 and 16; a stretch is counted with its
alarm, and a long one lowers the die's ceilings; a reading of 100 °C or more lowers the thermal ceiling, and 110 °C trips
the package. -/
def Obligations.PowerAndTemperature : Prop :=
  (∀ (q : Requester) (k : Cls) (mode : Byte) (d : Fin 5) (inside : Bool) (watts : W32) (s : State) (mv : Nat),
     let x := getDie s d
     let p := s.power
     let w := watts.toNat
     let cap := packageCap s
     let trim1 := x.trim + 5
     (Granted s q 0x2100 1 k → k.trio = true → mode.toNat = 2 → p.mode ≠ 2 → Served (.powerModeChange q mode) s q 0x2100 1 6 fun u =>
       u.power = { p with mode := 2 } ∧ (d.val < 4 → (getDie u d).modeCeil = 8 ∧
         (getDie u d).avsPending = some (720 + x.trim).toNat ∧ (getDie u d).setpoint = x.setpoint) ∧ getDie u 4 = getDie s 4) ∧
     (Granted s q 0x2100 1 k → k.trio = true → mode.toNat < 2 → p.mode = 2 → Served (.powerModeChange q mode) s q 0x2100 1 6 fun u =>
       u.power = { p with mode := mode.toNat } ∧ (d.val < 4 → (getDie u d).modeCeil = x.modeCeil ∧
         (getDie u d).avsPending = some (750 + x.trim).toNat)) ∧
     (Granted s q 0x2100 1 k → k.trio = true → mode.toNat < 2 → p.mode < 2 → Served (.powerModeChange q mode) s q 0x2100 1 6 fun u =>
       u = { s with power := { p with mode := mode.toNat } }) ∧
     (Granted s q 0x2100 1 k → k.trio = true → 2 < mode.toNat → RefusedWith (.powerModeChange q mode) s q 0x2100 1 3 6) ∧
     (x.avsPending = some mv → x.clocks = true → (Answers (.avsbusAcknowledge d) s fun t => t = { s with dies := t.dies } ∧
         getDie t d = { x with setpoint := mv, avsPending := none, modeCeil := if p.mode = 2 then x.modeCeil else 16 }) ∧
       Answers (.avsbusTimeout d) s fun t => t = { s with dies := t.dies } ∧
         getDie t d = { x with avsPending := none, avsFault := true }) ∧
     (x.clocks = true → inside = true → trim1 ≤ 20 → Answers (.ageingMeasure d inside) s fun t => (getDie t d).trim = trim1 ∧
       (getDie t d).ageLimit = x.ageLimit ∧ t = { s with dies := t.dies, outbox := t.outbox }) ∧
     (x.clocks = true → inside = true → 20 < trim1 → Answers (.ageingMeasure d inside) s fun t => (getDie t d).trim = x.trim ∧
       (getDie t d).ageLimit = true ∧ t = { s with dies := t.dies, outbox := t.outbox }) ∧
     (x.clocks = true → x.setpoint = wantedSetpoint s d → exec (.ageingMeasure d false) s = .next s) ∧
     (halyard s = true → Answers (.packageCeilingUpdate watts) s fun t => t = { s with power := t.power } ∧ t.power.watts = w ∧
       (cap < w → t.power.ceil = max 2 (p.ceil - 1) ∧ t.power.calm = 0) ∧
       (w ≤ cap → 19 * cap ≤ 20 * w → t.power.ceil = p.ceil ∧ t.power.calm = 0) ∧
       (20 * w < 19 * cap → p.calm = 3 → t.power.ceil = min 16 (p.ceil + 1) ∧ t.power.calm = 0) ∧
       (20 * w < 19 * cap → p.calm ≠ 3 → t.power.ceil = p.ceil ∧ t.power.calm = p.calm + 1))) ∧
  (∀ (rail : Fin 24) (milliamps roots : W32) (d : Fin 5) (celsius : Int) (s : State),
     let r := rail.val
     let v := milliamps.toNat
     let x := getRail s r
     let y : Rail := { x with samples := (v :: x.samples).take 250 }
     let die := getDie s d
     let limit := railLimit s r
     let moves (c : Nat) (t : State) : Prop := (getRail t r).ceil = c ∧ (getRail t r).samples = y.samples ∧
       (getRail t r).estimate = railEstimate y ∧ (getRail t r).peak = max x.peak (railEstimate y) ∧
       t.power.energy = s.power.energy + railSetpoint s r * v ∧ t.mem = s.mem
     (r ≠ 23 → (getDie s (railDie r)).clocks = true →
       (250 * limit < railProjected y → Answers (.estimatorSample rail milliamps) s fun t =>
         moves (if 2 < x.ceil then x.ceil - 1 else x.ceil) t ∧ (getRail t r).calm = 0 ∧ t.obs.alarms.getLsbD 16 = true) ∧
       (20 * railProjected y < 19 * 250 * limit → x.calm < 63 → Answers (.estimatorSample rail milliamps) s fun t =>
         moves x.ceil t ∧ (getRail t r).calm = x.calm + 1) ∧
       (20 * railProjected y < 19 * 250 * limit → 63 ≤ x.calm → x.calm ≤ 64 → Answers (.estimatorSample rail milliamps) s fun t =>
         moves (if x.ceil < 16 then x.ceil + 1 else x.ceil) t) ∧
       (railProjected y ≤ 250 * limit → 19 * 250 * limit ≤ 20 * railProjected y → Answers (.estimatorSample rail milliamps) s fun t =>
         moves x.ceil t ∧ (getRail t r).calm = 0)) ∧
     (die.clocks = true → die.stretching = false → Answers (.droopTrip d) s fun t =>
       getDie t d = { die with stretching := true, stretches := die.stretches + 1 } ∧ t.obs.alarms.getLsbD 17 = true ∧
       t = { s with dies := t.dies, obs := t.obs }) ∧
     (die.stretching = true → Answers (.droopEnd d roots) s fun t => (getDie t d).stretching = false ∧
       (getDie t d).rootsAdded = die.rootsAdded + roots.toNat ∧ t = { s with dies := t.dies, obs := t.obs, outbox := t.outbox }) ∧
     (die.stretching = true → r ∈ dieRails d → Answers (.longStretch d) s fun t =>
       (getRail t r).ceil = (if 2 < x.ceil then x.ceil - 1 else x.ceil) ∧ t.mem = s.mem) ∧
     (die.clocks = true → celsius < 110 → Answers (.thermalReading d celsius) s fun t => t.life = s.life ∧
       (getDie t d).temp = some celsius ∧ (getDie t d).thermal = (if 100 ≤ celsius then max 2 (die.thermal - 1)
         else if celsius < 97 then min 16 (die.thermal + 1) else die.thermal) ∧
       t = { s with dies := t.dies, obs := t.obs }) ∧
     (die.clocks = true → 110 ≤ celsius → Answers (.thermalReading d celsius) s fun t => t.life = .tripped ∧ t.thermTrip = true ∧
       (∀ e, (getDie t e).clocks = false) ∧ t.obs.alarms.getLsbD 18 = true ∧ t.mem = s.mem))

/-- Supplies (R307, R358, R391, R413 to R416): the last rail to become valid begins start-up; the loss of a rail powers the
device down: every register is at its power-up value, memory lists nothing, and only the fuses, the levels on the board's
lines and what waits outside are kept.

Boot, fuses and update (R387 to R392, R419): the better of two good slots runs, and its values are the firmware's; with no
good slot start-up fails; the end of the monitor's initialisation makes the device usable; a minimum rises to the running
SVN, and a key that is neither the last nor the running one is revoked; chunks go to the flash, a good slot is activated, an
update abandoned. -/
def Obligations.SuppliesAndBoot : Prop :=
  (∀ (rail : Fin 24) (s : State),
     let r := rail.val
     (s.life = .unpowered → (∀ m, m < 24 → m ≠ r → (getRail s m).valid = true) → Answers (.supplyValid rail) s fun t =>
       t.life = .starting ∧ getRail t r = { getRail s r with valid := true } ∧ t = { s with life := t.life, power := t.power }) ∧
     (s.life = .unpowered → (∃ m, m < 24 ∧ m ≠ r ∧ (getRail s m).valid = false) → Answers (.supplyValid rail) s fun t =>
       t = { s with power := t.power } ∧ getRail t r = { getRail s r with valid := true }) ∧
     (Answers (.supplyLoss rail) s fun t => t = { State.reset with
         pending := s.pending
         outbox := s.outbox
         freeCtr := s.freeCtr
         power := { rails := t.power.rails }
         sec := { minimums := s.sec.minimums, revoked := s.sec.revoked }
         pcie := t.pcie } ∧ getRail t r = {} ∧ (∀ m, m ≠ r → getRail t m = { valid := (getRail s m).valid }) ∧
       ∀ p, getPcie t p = { perst := (getPcie s p).perst })) ∧
  (∀ (a b : FwSlot) (q : Requester) (k : Cls) (id key : Byte) (offset : W64) (data : List Byte) (s : State),
     let free : Prop := (s.sec.update ≠ 1 ∧ s.sec.update ≠ 2) ∨ s.sec.binding = some (transport q)
     let local2 : Prop := Granted s q 0x8020 2 k ∧ k.local2 = true
     let boots : Prop := halyard s = true ∧ s.life = .starting ∧ s.sec.boot = 0
     (boots → manifestFault s a = 0 → compsGood a = true → manifestFault s b ≠ 0 ∨ b.version.toNat < a.version.toNat →
       Answers (.rootOfTrustBoot a b) s fun t => t.sec.boot = 2 ∧ t.sec.version = a.version.toNat ∧ t.sec.svn = a.svn.toNat ∧
         t.sec.manifest = a.manifest ∧ t.sec.minimums = s.sec.minimums ∧ t.sec.revoked = s.sec.revoked) ∧
     (boots → manifestFault s b = 0 → compsGood b = true → manifestFault s a ≠ 0 ∨ a.version.toNat < b.version.toNat →
       Answers (.rootOfTrustBoot a b) s fun t => t.sec.boot = 3 ∧ t.sec.version = b.version.toNat ∧ t.sec.svn = b.svn.toNat ∧
         t.sec.manifest = b.manifest ∧ t.sec.minimums = s.sec.minimums ∧ t.sec.revoked = s.sec.revoked) ∧
     (boots → slotFaultCode s a ≠ 0 → slotFaultCode s b ≠ 0 → Answers (.rootOfTrustBoot a b) s fun t =>
       t.life = .failed ∧ t.sec.boot = 4 ∧ t.mem = s.mem) ∧
     (halyard s = true → s.life = .starting → domainUp s = true → Answers .deviceUsable s fun t => t.life = .usable ∧
       (∀ p, p < 2 → (getPcie s p).up = true → .drs p ∈ t.outbox) ∧ t = { s with life := t.life, outbox := t.outbox }) ∧
     (Granted s q 0x8010 2 k → k.isBmc = true → id.toNat ≤ 5 → s.sec.minimums.length = 6 →
       Served (.raiseMinimumSvn q id) s q 0x8010 2 0 fun u =>
         nth u.sec.minimums id.toNat 0 = max (nth s.sec.minimums id.toNat 0) (svnOf s id.toNat) ∧
         (∀ m, m ≠ id.toNat → nth u.sec.minimums m 0 = nth s.sec.minimums m 0) ∧
         u = { s with sec := { s.sec with minimums := u.sec.minimums } }) ∧
     (Granted s q 0x8010 3 k → k.isBmc = true → key.toNat ≤ 3 → key.toNat ≠ s.sec.signer →
       Nat.lor s.sec.revoked (2 ^ key.toNat) ≠ 15 → Served (.revokeKey q key) s q 0x8010 3 0 fun u =>
         u = { s with sec := { s.sec with revoked := Nat.lor s.sec.revoked (2 ^ key.toNat) } }) ∧
     (Granted s q 0x8010 3 k → k.isBmc = true → key.toNat = s.sec.signer ∨ Nat.lor s.sec.revoked (2 ^ key.toNat) = 15 →
       RefusedWith (.revokeKey q key) s q 0x8010 3 3 0) ∧
     (Granted s q 0x8020 1 k → k.local2 = true → windowPort q = none → free → offset.toNat % 1024 = 0 → data ≠ [] →
       data.length ≤ 1024 → offset.toNat + data.length ≤ 2 ^ 25 → Served (.updateChunk q offset data) s q 0x8020 1 7 fun u =>
         u.sec = { s.sec with update := 1, binding := some (transport q) } ∧
         u.outbox = s.outbox ++ [.flash offset.toNat data] ∧ u = { s with sec := u.sec, outbox := u.outbox }) ∧
     (local2 → free → Served (.checkAndActivate q a) s q 0x8020 2 6 fun u =>
       u = { s with sec := { s.sec with update := if slotFaultCode s a = 0 then 3 else 4, binding := none } }) ∧
     (local2 → free → Served (.abandon q) s q 0x8020 2 6 fun u =>
       u = { s with sec := { s.sec with update := 5, binding := none } }))

/-- The state at power-up (R307, R184, R258, R358, R361): the tables of partitions, regions and settings read their defaults, no
command waits and no rail is valid. Where the specification gives a register no value, the model's is named by a log entry
(6).

With no command waiting a step is a tick of the management clock (the model's choice, log entry 1): the timer of each die
whose clocks run counts one, no other timer moves, and no command appears (R20). -/
def Obligations.ResetAndTicks : Prop :=
  (let s := State.reset
   s.pending = [] ∧ s.life = .unpowered ∧ s.mem = [] ∧
   getPart s 0 = { state := 1, cores := 2 ^ 96 - 1, ccores := 2 ^ 96 - 1, watchQuota := 16384, ctxQuota := 4096, guaranteed := 1024 } ∧
   (∀ p, p ≠ 0 → (getPart s p).state = 0) ∧
   (tget s.hbm.regions 0 {}).size = 768000000000 ∧ (∀ r, r ≠ 0 → (tget s.hbm.regions r {}).size = 0) ∧
   s.fabric.device = 0xFFFF ∧ s.fabric.manager = 0xFFFF ∧ s.fabric.standby = 0xFFFF ∧ s.fabric.hops = 16 ∧ s.fabric.timeoutUs = 25 ∧
   s.epochs.pct = 10 ∧ s.epochs.threshold = 3 ∧ s.disp.waitUs = 1000 ∧ s.obs.level = 1 ∧ s.defRm = 0 ∧ s.defOvf = 0 ∧
   (∀ j, (getSlot s j).protect = 1 ∧ (getSlot s j).cls = 2 ∧ (getSlot s j).devices = 1 ∧ (getSlot s j).buddy = 0xFFFF) ∧
   (∀ n, (getCC s n).level = .monitor) ∧ Memory.wf s.mem = true ∧ ∀ k, Memory.wf (getCore s k).ls = true) ∧
  (∀ s : State, s.pending = [] → ∃ t, step s = .next t ∧ t.pending = [] ∧
     ∀ d : Fin 5, (getDie t d).timer = if (getDie s d).clocks then (getDie s d).timer + 1 else (getDie s d).timer)

/-- Every command, whoever sends it and in whatever state, has an effect and changes everything but the queue: the model stops
on none (no fault, no refusal), and the commands that wait are the same after it. -/
def Obligations.EveryCommandAnswers : Prop := ∀ (i : Instr) (s : State), ∃ t, exec i s = .next t ∧ t.pending = s.pending

/-- HBM and every local store keep their canonical form over every step: addresses strictly rising, no byte listed that an
unlisted address reads as. -/
def Obligations.MemoriesStayCanonical : Prop :=  let inv (s : State) : Prop := Memory.wf s.mem = true ∧ ∀ k, Memory.wf (getCore s k).ls = true
  ∀ s t : State, inv s → step s = .next t → inv t

/-- The worked examples of the encodings (R29, R34): each word decodes to the instruction the specification writes beside it;
the word of the reserved scope decodes to one that is not legal.

Decoding undoes encoding (R29, R30, R34, R89, tables "Instruction formats" and "Major opcode map"): for every instruction
with a legal encoding, every operand at every value the encoding admits, the decoder reads its words back as that
instruction. The rows of GCTL commands have the words of SWR, and read back as SWR. -/
def Obligations.EncodingRoundTrip : Prop :=
  (∀ x : Issuer,
     zisDecode x 0x6C095181 0 = some (.rel x { scope := 3, guard := 0, gd := 9, ga := 20, sz := 3, imm := 1 }) ∧
     zisDecode x 0x4C045181 0 = some (.acq x { scope := 3, guard := 0, gd := 4, ga := 20, sz := 3, imm := 1 }) ∧
     zisDecode x 0x8C853078 0 = some (.amoAdd x { scope := 3, guard := 2, gd := 5, ga := 12, gb := 7, dbl := true }) ∧
     zisDecode x 0x8C853118 0 = some (.amoAdd x { scope := 3, guard := 2, gd := 5, ga := 12, gb := 17, dbl := true }) ∧
     (zisDecode x 0x5C045181 0).map zisLegal = some false) ∧
  (∀ (i : Instr) (w imm : W32), zisEncode i = some (w, imm) → zisLegal i = true → ∃ x, zisDecode x w imm = some (match i with
     | .gctlHalt y f => .swr y f
     | .gctlResume y f => .swr y f
     | .gctlSingleStep y f => .swr y f
     | j => j))
end

