-- ==== Sys2Proof/Laws/Tab.lean ====
section
/-! SUPPORT. Laws of sparse tables and byte memories: a read after a write, what a write leaves alone, and
the canonical form every operation keeps. -/

namespace Sys2Proof.Machine

/-! ## Reads after writes -/

@[simp] theorem tfind_tput_same {α : Type} (t : Tab α) (k : Nat) (v : α) : tfind (tput t k v) k = some v := by
  induction t with
  | nil => simp [tput, tfind]
  | cons p r ih =>
    obtain ⟨j, w⟩ := p
    simp only [tput]
    split
    · simp [tfind]
    · split
      · simp [tfind]
      · rename_i h; simp [tfind, Ne.symm h, ih]

theorem tfind_tput_other {α : Type} (t : Tab α) {k j : Nat} (v : α) (h : j ≠ k) :
    tfind (tput t k v) j = tfind t j := by
  induction t with
  | nil => simp [tput, tfind, Ne.symm h]
  | cons p r ih =>
    obtain ⟨i, w⟩ := p
    simp only [tput]
    split
    · simp [tfind, Ne.symm h]
    · split
      · subst i; simp [tfind, Ne.symm h]
      · simp only [tfind]; split
        · rfl
        · exact ih

@[simp] theorem tget_tput_same {α : Type} (t : Tab α) (k : Nat) (v d : α) : tget (tput t k v) k d = v := by
  simp [tget]

theorem tget_tput_other {α : Type} (t : Tab α) {k j : Nat} (v d : α) (h : j ≠ k) :
    tget (tput t k v) j d = tget t j d := by
  simp [tget, tfind_tput_other t v h]

theorem tget_tput {α : Type} (t : Tab α) (k j : Nat) (v d : α) :
    tget (tput t k v) j d = if j = k then v else tget t j d := by
  split
  · subst j; simp
  · rename_i h; exact tget_tput_other t v d h

theorem tfind_tdel_other {α : Type} (t : Tab α) {k j : Nat} (h : j ≠ k) : tfind (tdel t k) j = tfind t j := by
  induction t with
  | nil => rfl
  | cons p r ih =>
    obtain ⟨i, w⟩ := p
    simp only [tdel]
    split
    · subst i; simp [tfind, Ne.symm h]
    · simp only [tfind]; split
      · rfl
      · exact ih

@[simp] theorem tget_tmod_same {α : Type} (t : Tab α) (k : Nat) (d : α) (f : α → α) :
    tget (tmod t k d f) k d = f (tget t k d) := by simp [tmod]

theorem tget_tmod_other {α : Type} (t : Tab α) {k j : Nat} (d : α) (f : α → α) (h : j ≠ k) :
    tget (tmod t k d f) j d = tget t j d := by simp [tmod, tget_tput_other _ _ _ h]

theorem tfind_tadj_same {α : Type} (t : Tab α) (k : Nat) (f : α → α) : tfind (tadj t k f) k = (tfind t k).map f := by
  induction t with
  | nil => rfl
  | cons p r ih =>
    obtain ⟨i, w⟩ := p
    simp only [tadj]
    split
    · rename_i h; simp [tfind, h]
    · rename_i h; simp [tfind, h, ih]

theorem tfind_tadj_other {α : Type} (t : Tab α) {k j : Nat} (f : α → α) (h : j ≠ k) :
    tfind (tadj t k f) j = tfind t j := by
  induction t with
  | nil => rfl
  | cons p r ih =>
    obtain ⟨i, w⟩ := p
    simp only [tadj]
    split
    · subst i; simp [tfind, Ne.symm h]
    · simp only [tfind]; split
      · rfl
      · exact ih

/-! ## The canonical form -/

/-- Every key of a table is above `n`. -/
theorem tsorted_cons {α : Type} (p : Nat × α) (t : Tab α) :
    tsorted (p :: t) = true ↔ (∀ q ∈ t, p.1 < q.1) ∧ tsorted t = true := by
  induction t generalizing p with
  | nil => simp [tsorted]
  | cons q r ih =>
    simp only [tsorted, Bool.and_eq_true, decide_eq_true_eq, List.mem_cons]
    constructor
    · rintro ⟨h, hs⟩
      refine ⟨?_, hs⟩
      rintro x (rfl | hx)
      · exact h
      · exact Nat.lt_trans h ((ih q).1 hs |>.1 x hx)
    · rintro ⟨h, hs⟩
      exact ⟨h q (.inl rfl), hs⟩

theorem mem_tput {α : Type} {t : Tab α} {k : Nat} {v : α} {q : Nat × α} (h : q ∈ tput t k v) : q = (k, v) ∨ q ∈ t := by
  induction t with
  | nil => simp [tput] at h; exact .inl h
  | cons p r ih =>
    obtain ⟨j, w⟩ := p
    simp only [tput] at h
    split at h
    · simp at h ⊢; exact h
    · split at h
      · simp at h ⊢; rcases h with h | h
        · exact .inl h
        · exact .inr (.inr h)
      · simp only [List.mem_cons] at h ⊢
        rcases h with h | h
        · exact .inr (.inl h)
        · rcases ih h with h | h
          · exact .inl h
          · exact .inr (.inr h)

theorem mem_tdel {α : Type} {t : Tab α} {k : Nat} {q : Nat × α} (h : q ∈ tdel t k) : q ∈ t := by
  induction t with
  | nil => simp [tdel] at h
  | cons p r ih =>
    obtain ⟨j, w⟩ := p
    simp only [tdel] at h
    split at h
    · simp [h]
    · simp only [List.mem_cons] at h ⊢
      rcases h with h | h
      · exact .inl h
      · exact .inr (ih h)

theorem tsorted_tput {α : Type} {t : Tab α} (k : Nat) (v : α) (h : tsorted t = true) : tsorted (tput t k v) = true := by
  induction t with
  | nil => rfl
  | cons p r ih =>
    obtain ⟨j, w⟩ := p
    have hr := (tsorted_cons (j, w) r).1 h
    simp only [tput]
    split
    · rename_i hk
      refine (tsorted_cons _ _).2 ⟨?_, h⟩
      intro q hq
      rcases List.mem_cons.1 hq with rfl | hq
      · exact hk
      · exact Nat.lt_trans hk (hr.1 q hq)
    · split
      · rename_i hk; subst hk
        exact (tsorted_cons _ _).2 ⟨hr.1, hr.2⟩
      · rename_i h1 h2
        refine (tsorted_cons _ _).2 ⟨?_, ih hr.2⟩
        intro q hq
        rcases mem_tput hq with rfl | hq
        · show j < k
          omega
        · exact hr.1 q hq

theorem tsorted_tdel {α : Type} {t : Tab α} (k : Nat) (h : tsorted t = true) : tsorted (tdel t k) = true := by
  induction t with
  | nil => rfl
  | cons p r ih =>
    obtain ⟨j, w⟩ := p
    have hr := (tsorted_cons (j, w) r).1 h
    simp only [tdel]
    split
    · exact hr.2
    · exact (tsorted_cons _ _).2 ⟨fun q hq => hr.1 q (mem_tdel hq), ih hr.2⟩

theorem tsorted_filter {α : Type} {t : Tab α} (f : Nat × α → Bool) (h : tsorted t = true) : tsorted (t.filter f) = true := by
  induction t with
  | nil => rfl
  | cons p r ih =>
    have hr := (tsorted_cons p r).1 h
    simp only [List.filter_cons]
    split
    · exact (tsorted_cons _ _).2 ⟨fun q hq => hr.1 q (List.mem_filter.1 hq).1, ih hr.2⟩
    · exact ih hr.2

/-- The canonical form of a memory, as its two parts. -/
theorem Memory.wf_iff (m : Memory) : Memory.wf m = true ↔ tsorted m = true ∧ ∀ p ∈ m, p.2 ≠ 0 := by
  simp [Memory.wf]

theorem Memory.wf_mwrite {m : Memory} (a : Nat) (b : Byte) (h : Memory.wf m = true) : Memory.wf (mwrite m a b) = true := by
  rw [Memory.wf_iff] at h ⊢
  unfold mwrite
  split
  · exact ⟨tsorted_tdel a h.1, fun p hp => h.2 p (mem_tdel hp)⟩
  · rename_i hb
    refine ⟨tsorted_tput a b h.1, fun p hp => ?_⟩
    rcases mem_tput hp with rfl | hp
    · exact hb
    · exact h.2 p hp

theorem Memory.wf_mwriteN {m : Memory} (a : Nat) (bs : List Byte) (h : Memory.wf m = true) :
    Memory.wf (mwriteN m a bs) = true := by
  induction bs generalizing m a with
  | nil => exact h
  | cons b r ih => exact ih (a + 1) (Memory.wf_mwrite a b h)

theorem Memory.wf_mzero {m : Memory} (a n : Nat) (h : Memory.wf m = true) : Memory.wf (mzero m a n) = true := by
  rw [Memory.wf_iff] at h ⊢
  exact ⟨tsorted_filter _ h.1, fun p hp => h.2 p (List.mem_filter.1 hp).1⟩

/-- A key the table does not list, in a sorted table whose keys are all above it. -/
theorem tfind_none_of_lt {α : Type} {t : Tab α} {k : Nat} (h : ∀ q ∈ t, k < q.1) : tfind t k = none := by
  induction t with
  | nil => rfl
  | cons p r ih =>
    have : ¬ p.1 = k := by have := h p (by simp); omega
    simp only [tfind, this, if_false]
    exact ih fun q hq => h q (by simp [hq])

theorem tfind_tdel_same {α : Type} {t : Tab α} (k : Nat) (h : tsorted t = true) : tfind (tdel t k) k = none := by
  induction t with
  | nil => rfl
  | cons p r ih =>
    obtain ⟨j, w⟩ := p
    have hr := (tsorted_cons (j, w) r).1 h
    simp only [tdel]
    split
    · rename_i hj; subst hj; exact tfind_none_of_lt hr.1
    · rename_i hj; simp [tfind, hj, ih hr.2]

/-- A byte read after a write of one byte: the byte written at its address, the old byte elsewhere. -/
theorem mread_mwrite {m : Memory} (a x : Nat) (b : Byte) (h : Memory.wf m = true) :
    mread (mwrite m a b) x = if x = a then b else mread m x := by
  have hs := ((Memory.wf_iff m).1 h).1
  unfold mread mwrite
  split
  · rename_i hb
    split
    · rename_i hx; subst hx; simp [tget, tfind_tdel_same x hs, hb]
    · rename_i hx; simp [tget, tfind_tdel_other m hx]
  · exact tget_tput m a x b 0

/-- A byte read after a write of several bytes from an address upward. -/
theorem mread_mwriteN {m : Memory} (a x : Nat) (bs : List Byte) (h : Memory.wf m = true) :
    mread (mwriteN m a bs) x = if a ≤ x ∧ x < a + bs.length then bs.getD (x - a) 0 else mread m x := by
  induction bs generalizing m a with
  | nil => simp only [mwriteN, List.length_nil]; rw [if_neg (by omega)]
  | cons b r ih =>
    simp only [mwriteN, ih (a + 1) (Memory.wf_mwrite a b h), mread_mwrite a x b h, List.length_cons]
    by_cases h1 : a + 1 ≤ x ∧ x < a + 1 + r.length
    · rw [if_pos h1, if_pos (by omega)]
      have : x - a = (x - (a + 1)) + 1 := by omega
      rw [this, List.getD_cons_succ]
    · rw [if_neg h1]
      by_cases h2 : x = a
      · rw [if_pos h2, if_pos (by omega)]; subst h2; simp
      · rw [if_neg h2, if_neg (by omega)]

/-- An entry that is found is one of the table's. -/
theorem tfind_mem {α : Type} {t : Tab α} {k : Nat} {v : α} (h : tfind t k = some v) : (k, v) ∈ t := by
  induction t with
  | nil => simp [tfind] at h
  | cons p r ih =>
    obtain ⟨j, w⟩ := p
    simp only [tfind] at h
    split at h
    · cases h; subst k; simp
    · exact List.mem_cons_of_mem _ (ih h)

/-- What holds of the default and of every entry holds of what is read. -/
theorem tget_all {α : Type} {P : α → Prop} {t : Tab α} {d : α} (hd : P d) (ht : ∀ q ∈ t, P q.2) (k : Nat) : P (tget t k d) := by
  simp only [tget]
  cases h : tfind t k with
  | none => exact hd
  | some v => exact ht _ (tfind_mem h)

end Sys2Proof.Machine
end

