-- ==== Sys2Proof/Laws/Lanes.lean ====
section
/-! SUPPORT. Laws of a lane's registers: g0 and p0 are hard-wired, a write reads back, other registers and
other lanes keep their values; and what a change made lane by lane comes to. -/

namespace Sys2Proof.Machine

@[simp] theorem rdG_zero (t : Threads) (l : Nat) : rdG t l 0 = 0 := rfl
@[simp] theorem wrG_zero (t : Threads) (l : Nat) (v : W64) : wrG t l 0 v = t := rfl
@[simp] theorem wrG_pred (t : Threads) (l r : Nat) (v : W64) : (wrG t l r v).pred = t.pred := by unfold wrG; split <;> rfl
@[simp] theorem wrG_tile (t : Threads) (l r : Nat) (v : W64) : (wrG t l r v).tile = t.tile := by unfold wrG; split <;> rfl
@[simp] theorem wrG_fcsr (t : Threads) (l r : Nat) (v : W64) : (wrG t l r v).fcsr = t.fcsr := by unfold wrG; split <;> rfl
@[simp] theorem wrP_gpr (t : Threads) (l p : Nat) (v : Bool) : (wrP t l p v).gpr = t.gpr := by
  unfold wrP; split <;> rfl
@[simp] theorem wrP_tile (t : Threads) (l p : Nat) (v : Bool) : (wrP t l p v).tile = t.tile := by
  unfold wrP; split <;> rfl
@[simp] theorem wrP_fcsr (t : Threads) (l p : Nat) (v : Bool) : (wrP t l p v).fcsr = t.fcsr := by
  unfold wrP; split <;> rfl
@[simp] theorem rdG_wrP (t : Threads) (l p : Nat) (v : Bool) (k r : Nat) : rdG (wrP t l p v) k r = rdG t k r := by
  simp [rdG]
@[simp] theorem rdG_wrF (t : Threads) (l : Nat) (v : BitVec 7) (k r : Nat) : rdG (wrF t l v) k r = rdG t k r := rfl
@[simp] theorem rdF_wrG (t : Threads) (l r : Nat) (v : W64) (k : Nat) : rdF (wrG t l r v) k = rdF t k := by simp [rdF]
@[simp] theorem rdF_wrP (t : Threads) (l p : Nat) (v : Bool) (k : Nat) : rdF (wrP t l p v) k = rdF t k := by simp [rdF]
@[simp] theorem rdP_wrG (t : Threads) (l r : Nat) (v : W64) (k p : Nat) : rdP (wrG t l r v) k p = rdP t k p := by
  simp [rdP, rdPMask]
@[simp] theorem rdP_wrF (t : Threads) (l : Nat) (v : BitVec 7) (k p : Nat) : rdP (wrF t l v) k p = rdP t k p := rfl

/-- A write of a general register reads back, but for g0; every other register of every lane keeps its value. -/
theorem rdG_wrG (t : Threads) (l r : Nat) (v : W64) (k q : Nat) (hr : r < 64) (hq : q < 64) :
    rdG (wrG t l r v) k q = if k = l ∧ q = r ∧ r ≠ 0 then v else rdG t k q := by
  by_cases hr0 : r = 0
  · subst hr0; simp
  · by_cases hq0 : q = 0
    · subst hq0; simp only [rdG_zero]; rw [if_neg (by omega)]
    · simp only [rdG, wrG, hr0, hq0, if_false, tget_tput]
      by_cases h : k = l ∧ q = r
      · rw [if_pos (by omega), if_pos ⟨h.1, h.2, by simp [hr0]⟩]
      · rw [if_neg (by omega), if_neg (fun h' => h ⟨h'.1, h'.2.1⟩)]

theorem rdF_wrF (t : Threads) (l : Nat) (v : BitVec 7) (k : Nat) : rdF (wrF t l v) k = if k = l then v else rdF t k := by
  simp [rdF, wrF, tget_tput]

/-- Bit `l` of a mask of one bit. -/
theorem getLsbD_oneBit (l k : Nat) (hl : l < 32) : (BitVec.ofNat 32 (2 ^ l)).getLsbD k = decide (k = l) := by
  simp only [BitVec.getLsbD_ofNat, Nat.testBit_two_pow]
  by_cases h : k = l
  · simp [h, hl]
  · simp [h, Ne.symm h]

/-- A write of a predicate reads back, but for p0; every other predicate of every lane keeps its value. -/
theorem rdP_wrP (t : Threads) (l p : Nat) (v : Bool) (k q : Nat) (hl : l < 32) (hk : k < 32) :
    rdP (wrP t l p v) k q = if k = l ∧ q = p ∧ p ≠ 0 then v else rdP t k q := by
  by_cases hp : p = 0
  · subst hp; simp [wrP]
  · by_cases hq : q = 0
    · subst hq; simp only [rdP, rdPMask, if_true]; rw [if_neg (by omega)]
    · simp only [rdP, rdPMask, wrP, hp, hq, if_false, tget_tput]
      by_cases h : q = p
      · subst h
        simp only [if_true]
        have e : ∀ m : W32, (if v then m ||| BitVec.ofNat 32 (2 ^ l) else m &&& ~~~(BitVec.ofNat 32 (2 ^ l))).getLsbD k =
            if k = l then v else m.getLsbD k := by
          intro m
          have hb := getLsbD_oneBit l k hl
          cases v <;> by_cases h' : k = l <;>
            simp only [Bool.false_eq_true, if_true, if_false, BitVec.getLsbD_or, BitVec.getLsbD_and, BitVec.getLsbD_not, hb,
              h', decide_false] <;> simp_all
        rw [e]
        by_cases h' : k = l
        · simp [h', hp]
        · simp [h', hp]
      · rw [if_neg h, if_neg (fun x => h x.2.1)]

/-! ## Changes made lane by lane -/

/-- The lanes of a mask, each once. -/
theorem mem_bitsSetFrom (k n v i : Nat) : i ∈ bitsSetFrom k n v ↔ ∃ j, j < n ∧ i = k + j ∧ v.testBit j := by
  induction n generalizing k v with
  | zero => simp [bitsSetFrom]
  | succ n ih =>
    have key : (∃ j, j < n + 1 ∧ i = k + j ∧ v.testBit j) ↔
        ((i = k ∧ v % 2 = 1) ∨ ∃ j, j < n ∧ i = k + 1 + j ∧ (v / 2).testBit j) := by
      constructor
      · rintro ⟨j, hj, rfl, hb⟩
        cases j with
        | zero => left; simpa [Nat.testBit_zero] using hb
        | succ j => right; exact ⟨j, by omega, by omega, by simpa [Nat.testBit_succ] using hb⟩
      · rintro (⟨rfl, hb⟩ | ⟨j, hj, rfl, hb⟩)
        · exact ⟨0, by omega, rfl, by simpa [Nat.testBit_zero] using hb⟩
        · exact ⟨j + 1, by omega, by omega, by simpa [Nat.testBit_succ] using hb⟩
    rw [key]
    simp only [bitsSetFrom]
    split
    · rename_i h; simp [ih, h]
    · rename_i h; simp [ih, h]

theorem nodup_bitsSetFrom (k n v : Nat) : (bitsSetFrom k n v).Nodup := by
  induction n generalizing k v with
  | zero => simp [bitsSetFrom]
  | succ n ih =>
    simp only [bitsSetFrom]
    split
    · refine List.nodup_cons.2 ⟨?_, ih _ _⟩
      rw [mem_bitsSetFrom]; rintro ⟨j, _, h, _⟩; omega
    · exact ih _ _

theorem mem_lanesOf (m : W32) (l : Nat) : l ∈ lanesOf m ↔ l < 32 ∧ m.getLsbD l = true := by
  simp only [lanesOf, bitsSet, mem_bitsSetFrom, BitVec.getLsbD, Nat.zero_add]
  exact ⟨fun ⟨j, h, e, b⟩ => e ▸ ⟨h, b⟩, fun ⟨h, b⟩ => ⟨l, h, rfl, b⟩⟩

theorem nodup_active (c : Iss) (g : BitVec 4) : (active c g).Nodup :=
  (nodup_bitsSetFrom 0 32 _).filter _

theorem mem_active (c : Iss) (g : BitVec 4) (l : Nat) :
    l ∈ active c g ↔ l < 32 ∧ c.mask.getLsbD l = true ∧ guardOf c.th g l = true := by
  simp [active, mem_lanesOf, and_assoc]

/-- A property that each lane's change keeps holds after all of them. -/
theorem eachLane_keeps {P : Threads → Prop} {f : Threads → Nat → Threads} (ls : List Nat) (t : Threads)
    (h : ∀ t l, P t → P (f t l)) (h0 : P t) : P (eachLane t ls f) := by
  induction ls generalizing t with
  | nil => exact h0
  | cons l r ih => exact ih (f t l) (h t l h0)

/-- Each lane of a list writes one general register with a value read from its own registers only. -/
theorem rdG_eachLane (gd : Nat) (hd : gd < 64) (val : Threads → Nat → W64)
    (own : ∀ t k l w, k ≠ l → val (wrG t k gd w) l = val t l) (ls : List Nat) (nd : ls.Nodup) (t : Threads) (k q : Nat)
    (hq : q < 64) :
    rdG (eachLane t ls fun t l => wrG t l gd (val t l)) k q = if k ∈ ls ∧ q = gd ∧ gd ≠ 0 then val t k else rdG t k q := by
  induction ls generalizing t with
  | nil => simp [eachLane]
  | cons l r ih =>
    have nd' := List.nodup_cons.1 nd
    simp only [eachLane, ih nd'.2, rdG_wrG t l gd _ k q hd hq, List.mem_cons]
    by_cases hk : k = l
    · subst hk
      rw [if_neg (fun h => nd'.1 h.1)]
      simp
    · rw [own t l k _ (Ne.symm hk)]
      simp [hk]

/-- The same for a change that writes predicates. -/
theorem rdP_eachLane (pd : Nat) (val : Threads → Nat → Bool)
    (own : ∀ t k l w, k ≠ l → l < 32 → k < 32 → val (wrP t k pd w) l = val t l) (ls : List Nat) (nd : ls.Nodup)
    (lt : ∀ l ∈ ls, l < 32) (t : Threads) (k q : Nat) (hk : k < 32) :
    rdP (eachLane t ls fun t l => wrP t l pd (val t l)) k q = if k ∈ ls ∧ q = pd ∧ pd ≠ 0 then val t k else rdP t k q := by
  induction ls generalizing t with
  | nil => simp [eachLane]
  | cons l r ih =>
    have nd' := List.nodup_cons.1 nd
    have hl := lt l (by simp)
    simp only [eachLane, ih nd'.2 (fun x hx => lt x (by simp [hx])), rdP_wrP t l pd _ k q hl hk, List.mem_cons]
    by_cases h : k = l
    · subst h
      rw [if_neg (fun h => nd'.1 h.1)]
      simp
    · rw [own t l k _ (Ne.symm h) hk hl]
      simp [h]

theorem active_lt (c : Iss) (g : BitVec 4) : ∀ l ∈ active c g, l < 32 := fun l h => ((mem_active c g l).1 h).1

end Sys2Proof.Machine
end

