-- ==== Sys2Proof/Laws/State.lean ====
section
/-! SUPPORT. Each update of the state beside each field it leaves alone, so that no proof unfolds a record update. -/

namespace Sys2Proof.Machine

/-! ## setDie -/

@[simp] theorem setDie_pending (s : State) (d : Nat) (v : Die) : (setDie s d v).pending = s.pending := rfl
@[simp] theorem setDie_life (s : State) (d : Nat) (v : Die) : (setDie s d v).life = s.life := rfl
@[simp] theorem setDie_links (s : State) (d : Nat) (v : Die) : (setDie s d v).links = s.links := rfl
@[simp] theorem setDie_cores (s : State) (d : Nat) (v : Die) : (setDie s d v).cores = s.cores := rfl
@[simp] theorem setDie_ccs (s : State) (d : Nat) (v : Die) : (setDie s d v).ccs = s.ccs := rfl
@[simp] theorem setDie_mem (s : State) (d : Nat) (v : Die) : (setDie s d v).mem = s.mem := rfl
@[simp] theorem setDie_homes (s : State) (d : Nat) (v : Die) : (setDie s d v).homes = s.homes := rfl
@[simp] theorem setDie_hbm (s : State) (d : Nat) (v : Die) : (setDie s d v).hbm = s.hbm := rfl
@[simp] theorem setDie_xlat (s : State) (d : Nat) (v : Die) : (setDie s d v).xlat = s.xlat := rfl
@[simp] theorem setDie_fabric (s : State) (d : Nat) (v : Die) : (setDie s d v).fabric = s.fabric := rfl
@[simp] theorem setDie_epochs (s : State) (d : Nat) (v : Die) : (setDie s d v).epochs = s.epochs := rfl
@[simp] theorem setDie_disp (s : State) (d : Nat) (v : Die) : (setDie s d v).disp = s.disp := rfl
@[simp] theorem setDie_power (s : State) (d : Nat) (v : Die) : (setDie s d v).power = s.power := rfl
@[simp] theorem setDie_sec (s : State) (d : Nat) (v : Die) : (setDie s d v).sec = s.sec := rfl
@[simp] theorem setDie_obs (s : State) (d : Nat) (v : Die) : (setDie s d v).obs = s.obs := rfl
@[simp] theorem setDie_pcie (s : State) (d : Nat) (v : Die) : (setDie s d v).pcie = s.pcie := rfl
@[simp] theorem setDie_i3cEid (s : State) (d : Nat) (v : Die) : (setDie s d v).i3cEid = s.i3cEid := rfl
@[simp] theorem setDie_i3cAddr (s : State) (d : Nat) (v : Die) : (setDie s d v).i3cAddr = s.i3cAddr := rfl
@[simp] theorem setDie_defRm (s : State) (d : Nat) (v : Die) : (setDie s d v).defRm = s.defRm := rfl
@[simp] theorem setDie_defOvf (s : State) (d : Nat) (v : Die) : (setDie s d v).defOvf = s.defOvf := rfl
@[simp] theorem setDie_thermTrip (s : State) (d : Nat) (v : Die) : (setDie s d v).thermTrip = s.thermTrip := rfl
@[simp] theorem setDie_outbox (s : State) (d : Nat) (v : Die) : (setDie s d v).outbox = s.outbox := rfl
@[simp] theorem setDie_freeCtr (s : State) (d : Nat) (v : Die) : (setDie s d v).freeCtr = s.freeCtr := rfl

/-! ## modDie -/

@[simp] theorem modDie_pending (s : State) (d : Nat) (f : Die → Die) : (modDie s d f).pending = s.pending := rfl
@[simp] theorem modDie_life (s : State) (d : Nat) (f : Die → Die) : (modDie s d f).life = s.life := rfl
@[simp] theorem modDie_links (s : State) (d : Nat) (f : Die → Die) : (modDie s d f).links = s.links := rfl
@[simp] theorem modDie_cores (s : State) (d : Nat) (f : Die → Die) : (modDie s d f).cores = s.cores := rfl
@[simp] theorem modDie_ccs (s : State) (d : Nat) (f : Die → Die) : (modDie s d f).ccs = s.ccs := rfl
@[simp] theorem modDie_mem (s : State) (d : Nat) (f : Die → Die) : (modDie s d f).mem = s.mem := rfl
@[simp] theorem modDie_homes (s : State) (d : Nat) (f : Die → Die) : (modDie s d f).homes = s.homes := rfl
@[simp] theorem modDie_hbm (s : State) (d : Nat) (f : Die → Die) : (modDie s d f).hbm = s.hbm := rfl
@[simp] theorem modDie_xlat (s : State) (d : Nat) (f : Die → Die) : (modDie s d f).xlat = s.xlat := rfl
@[simp] theorem modDie_fabric (s : State) (d : Nat) (f : Die → Die) : (modDie s d f).fabric = s.fabric := rfl
@[simp] theorem modDie_epochs (s : State) (d : Nat) (f : Die → Die) : (modDie s d f).epochs = s.epochs := rfl
@[simp] theorem modDie_disp (s : State) (d : Nat) (f : Die → Die) : (modDie s d f).disp = s.disp := rfl
@[simp] theorem modDie_power (s : State) (d : Nat) (f : Die → Die) : (modDie s d f).power = s.power := rfl
@[simp] theorem modDie_sec (s : State) (d : Nat) (f : Die → Die) : (modDie s d f).sec = s.sec := rfl
@[simp] theorem modDie_obs (s : State) (d : Nat) (f : Die → Die) : (modDie s d f).obs = s.obs := rfl
@[simp] theorem modDie_pcie (s : State) (d : Nat) (f : Die → Die) : (modDie s d f).pcie = s.pcie := rfl
@[simp] theorem modDie_i3cEid (s : State) (d : Nat) (f : Die → Die) : (modDie s d f).i3cEid = s.i3cEid := rfl
@[simp] theorem modDie_i3cAddr (s : State) (d : Nat) (f : Die → Die) : (modDie s d f).i3cAddr = s.i3cAddr := rfl
@[simp] theorem modDie_defRm (s : State) (d : Nat) (f : Die → Die) : (modDie s d f).defRm = s.defRm := rfl
@[simp] theorem modDie_defOvf (s : State) (d : Nat) (f : Die → Die) : (modDie s d f).defOvf = s.defOvf := rfl
@[simp] theorem modDie_thermTrip (s : State) (d : Nat) (f : Die → Die) : (modDie s d f).thermTrip = s.thermTrip := rfl
@[simp] theorem modDie_outbox (s : State) (d : Nat) (f : Die → Die) : (modDie s d f).outbox = s.outbox := rfl
@[simp] theorem modDie_freeCtr (s : State) (d : Nat) (f : Die → Die) : (modDie s d f).freeCtr = s.freeCtr := rfl

/-! ## setCore -/

@[simp] theorem setCore_pending (s : State) (k : Nat) (v : Core) : (setCore s k v).pending = s.pending := rfl
@[simp] theorem setCore_life (s : State) (k : Nat) (v : Core) : (setCore s k v).life = s.life := rfl
@[simp] theorem setCore_dies (s : State) (k : Nat) (v : Core) : (setCore s k v).dies = s.dies := rfl
@[simp] theorem setCore_links (s : State) (k : Nat) (v : Core) : (setCore s k v).links = s.links := rfl
@[simp] theorem setCore_ccs (s : State) (k : Nat) (v : Core) : (setCore s k v).ccs = s.ccs := rfl
@[simp] theorem setCore_mem (s : State) (k : Nat) (v : Core) : (setCore s k v).mem = s.mem := rfl
@[simp] theorem setCore_homes (s : State) (k : Nat) (v : Core) : (setCore s k v).homes = s.homes := rfl
@[simp] theorem setCore_hbm (s : State) (k : Nat) (v : Core) : (setCore s k v).hbm = s.hbm := rfl
@[simp] theorem setCore_xlat (s : State) (k : Nat) (v : Core) : (setCore s k v).xlat = s.xlat := rfl
@[simp] theorem setCore_fabric (s : State) (k : Nat) (v : Core) : (setCore s k v).fabric = s.fabric := rfl
@[simp] theorem setCore_epochs (s : State) (k : Nat) (v : Core) : (setCore s k v).epochs = s.epochs := rfl
@[simp] theorem setCore_disp (s : State) (k : Nat) (v : Core) : (setCore s k v).disp = s.disp := rfl
@[simp] theorem setCore_power (s : State) (k : Nat) (v : Core) : (setCore s k v).power = s.power := rfl
@[simp] theorem setCore_sec (s : State) (k : Nat) (v : Core) : (setCore s k v).sec = s.sec := rfl
@[simp] theorem setCore_obs (s : State) (k : Nat) (v : Core) : (setCore s k v).obs = s.obs := rfl
@[simp] theorem setCore_pcie (s : State) (k : Nat) (v : Core) : (setCore s k v).pcie = s.pcie := rfl
@[simp] theorem setCore_i3cEid (s : State) (k : Nat) (v : Core) : (setCore s k v).i3cEid = s.i3cEid := rfl
@[simp] theorem setCore_i3cAddr (s : State) (k : Nat) (v : Core) : (setCore s k v).i3cAddr = s.i3cAddr := rfl
@[simp] theorem setCore_defRm (s : State) (k : Nat) (v : Core) : (setCore s k v).defRm = s.defRm := rfl
@[simp] theorem setCore_defOvf (s : State) (k : Nat) (v : Core) : (setCore s k v).defOvf = s.defOvf := rfl
@[simp] theorem setCore_thermTrip (s : State) (k : Nat) (v : Core) : (setCore s k v).thermTrip = s.thermTrip := rfl
@[simp] theorem setCore_outbox (s : State) (k : Nat) (v : Core) : (setCore s k v).outbox = s.outbox := rfl
@[simp] theorem setCore_freeCtr (s : State) (k : Nat) (v : Core) : (setCore s k v).freeCtr = s.freeCtr := rfl

/-! ## modCore -/

@[simp] theorem modCore_pending (s : State) (k : Nat) (f : Core → Core) : (modCore s k f).pending = s.pending := rfl
@[simp] theorem modCore_life (s : State) (k : Nat) (f : Core → Core) : (modCore s k f).life = s.life := rfl
@[simp] theorem modCore_dies (s : State) (k : Nat) (f : Core → Core) : (modCore s k f).dies = s.dies := rfl
@[simp] theorem modCore_links (s : State) (k : Nat) (f : Core → Core) : (modCore s k f).links = s.links := rfl
@[simp] theorem modCore_ccs (s : State) (k : Nat) (f : Core → Core) : (modCore s k f).ccs = s.ccs := rfl
@[simp] theorem modCore_mem (s : State) (k : Nat) (f : Core → Core) : (modCore s k f).mem = s.mem := rfl
@[simp] theorem modCore_homes (s : State) (k : Nat) (f : Core → Core) : (modCore s k f).homes = s.homes := rfl
@[simp] theorem modCore_hbm (s : State) (k : Nat) (f : Core → Core) : (modCore s k f).hbm = s.hbm := rfl
@[simp] theorem modCore_xlat (s : State) (k : Nat) (f : Core → Core) : (modCore s k f).xlat = s.xlat := rfl
@[simp] theorem modCore_fabric (s : State) (k : Nat) (f : Core → Core) : (modCore s k f).fabric = s.fabric := rfl
@[simp] theorem modCore_epochs (s : State) (k : Nat) (f : Core → Core) : (modCore s k f).epochs = s.epochs := rfl
@[simp] theorem modCore_disp (s : State) (k : Nat) (f : Core → Core) : (modCore s k f).disp = s.disp := rfl
@[simp] theorem modCore_power (s : State) (k : Nat) (f : Core → Core) : (modCore s k f).power = s.power := rfl
@[simp] theorem modCore_sec (s : State) (k : Nat) (f : Core → Core) : (modCore s k f).sec = s.sec := rfl
@[simp] theorem modCore_obs (s : State) (k : Nat) (f : Core → Core) : (modCore s k f).obs = s.obs := rfl
@[simp] theorem modCore_pcie (s : State) (k : Nat) (f : Core → Core) : (modCore s k f).pcie = s.pcie := rfl
@[simp] theorem modCore_i3cEid (s : State) (k : Nat) (f : Core → Core) : (modCore s k f).i3cEid = s.i3cEid := rfl
@[simp] theorem modCore_i3cAddr (s : State) (k : Nat) (f : Core → Core) : (modCore s k f).i3cAddr = s.i3cAddr := rfl
@[simp] theorem modCore_defRm (s : State) (k : Nat) (f : Core → Core) : (modCore s k f).defRm = s.defRm := rfl
@[simp] theorem modCore_defOvf (s : State) (k : Nat) (f : Core → Core) : (modCore s k f).defOvf = s.defOvf := rfl
@[simp] theorem modCore_thermTrip (s : State) (k : Nat) (f : Core → Core) : (modCore s k f).thermTrip = s.thermTrip := rfl
@[simp] theorem modCore_outbox (s : State) (k : Nat) (f : Core → Core) : (modCore s k f).outbox = s.outbox := rfl
@[simp] theorem modCore_freeCtr (s : State) (k : Nat) (f : Core → Core) : (modCore s k f).freeCtr = s.freeCtr := rfl

/-! ## setCC -/

@[simp] theorem setCC_pending (s : State) (n : Nat) (v : CCore) : (setCC s n v).pending = s.pending := rfl
@[simp] theorem setCC_life (s : State) (n : Nat) (v : CCore) : (setCC s n v).life = s.life := rfl
@[simp] theorem setCC_dies (s : State) (n : Nat) (v : CCore) : (setCC s n v).dies = s.dies := rfl
@[simp] theorem setCC_links (s : State) (n : Nat) (v : CCore) : (setCC s n v).links = s.links := rfl
@[simp] theorem setCC_cores (s : State) (n : Nat) (v : CCore) : (setCC s n v).cores = s.cores := rfl
@[simp] theorem setCC_mem (s : State) (n : Nat) (v : CCore) : (setCC s n v).mem = s.mem := rfl
@[simp] theorem setCC_homes (s : State) (n : Nat) (v : CCore) : (setCC s n v).homes = s.homes := rfl
@[simp] theorem setCC_hbm (s : State) (n : Nat) (v : CCore) : (setCC s n v).hbm = s.hbm := rfl
@[simp] theorem setCC_xlat (s : State) (n : Nat) (v : CCore) : (setCC s n v).xlat = s.xlat := rfl
@[simp] theorem setCC_fabric (s : State) (n : Nat) (v : CCore) : (setCC s n v).fabric = s.fabric := rfl
@[simp] theorem setCC_epochs (s : State) (n : Nat) (v : CCore) : (setCC s n v).epochs = s.epochs := rfl
@[simp] theorem setCC_disp (s : State) (n : Nat) (v : CCore) : (setCC s n v).disp = s.disp := rfl
@[simp] theorem setCC_power (s : State) (n : Nat) (v : CCore) : (setCC s n v).power = s.power := rfl
@[simp] theorem setCC_sec (s : State) (n : Nat) (v : CCore) : (setCC s n v).sec = s.sec := rfl
@[simp] theorem setCC_obs (s : State) (n : Nat) (v : CCore) : (setCC s n v).obs = s.obs := rfl
@[simp] theorem setCC_pcie (s : State) (n : Nat) (v : CCore) : (setCC s n v).pcie = s.pcie := rfl
@[simp] theorem setCC_i3cEid (s : State) (n : Nat) (v : CCore) : (setCC s n v).i3cEid = s.i3cEid := rfl
@[simp] theorem setCC_i3cAddr (s : State) (n : Nat) (v : CCore) : (setCC s n v).i3cAddr = s.i3cAddr := rfl
@[simp] theorem setCC_defRm (s : State) (n : Nat) (v : CCore) : (setCC s n v).defRm = s.defRm := rfl
@[simp] theorem setCC_defOvf (s : State) (n : Nat) (v : CCore) : (setCC s n v).defOvf = s.defOvf := rfl
@[simp] theorem setCC_thermTrip (s : State) (n : Nat) (v : CCore) : (setCC s n v).thermTrip = s.thermTrip := rfl
@[simp] theorem setCC_outbox (s : State) (n : Nat) (v : CCore) : (setCC s n v).outbox = s.outbox := rfl
@[simp] theorem setCC_freeCtr (s : State) (n : Nat) (v : CCore) : (setCC s n v).freeCtr = s.freeCtr := rfl

/-! ## modCC -/

@[simp] theorem modCC_pending (s : State) (n : Nat) (f : CCore → CCore) : (modCC s n f).pending = s.pending := rfl
@[simp] theorem modCC_life (s : State) (n : Nat) (f : CCore → CCore) : (modCC s n f).life = s.life := rfl
@[simp] theorem modCC_dies (s : State) (n : Nat) (f : CCore → CCore) : (modCC s n f).dies = s.dies := rfl
@[simp] theorem modCC_links (s : State) (n : Nat) (f : CCore → CCore) : (modCC s n f).links = s.links := rfl
@[simp] theorem modCC_cores (s : State) (n : Nat) (f : CCore → CCore) : (modCC s n f).cores = s.cores := rfl
@[simp] theorem modCC_mem (s : State) (n : Nat) (f : CCore → CCore) : (modCC s n f).mem = s.mem := rfl
@[simp] theorem modCC_homes (s : State) (n : Nat) (f : CCore → CCore) : (modCC s n f).homes = s.homes := rfl
@[simp] theorem modCC_hbm (s : State) (n : Nat) (f : CCore → CCore) : (modCC s n f).hbm = s.hbm := rfl
@[simp] theorem modCC_xlat (s : State) (n : Nat) (f : CCore → CCore) : (modCC s n f).xlat = s.xlat := rfl
@[simp] theorem modCC_fabric (s : State) (n : Nat) (f : CCore → CCore) : (modCC s n f).fabric = s.fabric := rfl
@[simp] theorem modCC_epochs (s : State) (n : Nat) (f : CCore → CCore) : (modCC s n f).epochs = s.epochs := rfl
@[simp] theorem modCC_disp (s : State) (n : Nat) (f : CCore → CCore) : (modCC s n f).disp = s.disp := rfl
@[simp] theorem modCC_power (s : State) (n : Nat) (f : CCore → CCore) : (modCC s n f).power = s.power := rfl
@[simp] theorem modCC_sec (s : State) (n : Nat) (f : CCore → CCore) : (modCC s n f).sec = s.sec := rfl
@[simp] theorem modCC_obs (s : State) (n : Nat) (f : CCore → CCore) : (modCC s n f).obs = s.obs := rfl
@[simp] theorem modCC_pcie (s : State) (n : Nat) (f : CCore → CCore) : (modCC s n f).pcie = s.pcie := rfl
@[simp] theorem modCC_i3cEid (s : State) (n : Nat) (f : CCore → CCore) : (modCC s n f).i3cEid = s.i3cEid := rfl
@[simp] theorem modCC_i3cAddr (s : State) (n : Nat) (f : CCore → CCore) : (modCC s n f).i3cAddr = s.i3cAddr := rfl
@[simp] theorem modCC_defRm (s : State) (n : Nat) (f : CCore → CCore) : (modCC s n f).defRm = s.defRm := rfl
@[simp] theorem modCC_defOvf (s : State) (n : Nat) (f : CCore → CCore) : (modCC s n f).defOvf = s.defOvf := rfl
@[simp] theorem modCC_thermTrip (s : State) (n : Nat) (f : CCore → CCore) : (modCC s n f).thermTrip = s.thermTrip := rfl
@[simp] theorem modCC_outbox (s : State) (n : Nat) (f : CCore → CCore) : (modCC s n f).outbox = s.outbox := rfl
@[simp] theorem modCC_freeCtr (s : State) (n : Nat) (f : CCore → CCore) : (modCC s n f).freeCtr = s.freeCtr := rfl

/-! ## setGroup -/

@[simp] theorem setGroup_pending (s : State) (k j : Nat) (g : Group) : (setGroup s k j g).pending = s.pending := rfl
@[simp] theorem setGroup_life (s : State) (k j : Nat) (g : Group) : (setGroup s k j g).life = s.life := rfl
@[simp] theorem setGroup_dies (s : State) (k j : Nat) (g : Group) : (setGroup s k j g).dies = s.dies := rfl
@[simp] theorem setGroup_links (s : State) (k j : Nat) (g : Group) : (setGroup s k j g).links = s.links := rfl
@[simp] theorem setGroup_ccs (s : State) (k j : Nat) (g : Group) : (setGroup s k j g).ccs = s.ccs := rfl
@[simp] theorem setGroup_mem (s : State) (k j : Nat) (g : Group) : (setGroup s k j g).mem = s.mem := rfl
@[simp] theorem setGroup_homes (s : State) (k j : Nat) (g : Group) : (setGroup s k j g).homes = s.homes := rfl
@[simp] theorem setGroup_hbm (s : State) (k j : Nat) (g : Group) : (setGroup s k j g).hbm = s.hbm := rfl
@[simp] theorem setGroup_xlat (s : State) (k j : Nat) (g : Group) : (setGroup s k j g).xlat = s.xlat := rfl
@[simp] theorem setGroup_fabric (s : State) (k j : Nat) (g : Group) : (setGroup s k j g).fabric = s.fabric := rfl
@[simp] theorem setGroup_epochs (s : State) (k j : Nat) (g : Group) : (setGroup s k j g).epochs = s.epochs := rfl
@[simp] theorem setGroup_disp (s : State) (k j : Nat) (g : Group) : (setGroup s k j g).disp = s.disp := rfl
@[simp] theorem setGroup_power (s : State) (k j : Nat) (g : Group) : (setGroup s k j g).power = s.power := rfl
@[simp] theorem setGroup_sec (s : State) (k j : Nat) (g : Group) : (setGroup s k j g).sec = s.sec := rfl
@[simp] theorem setGroup_obs (s : State) (k j : Nat) (g : Group) : (setGroup s k j g).obs = s.obs := rfl
@[simp] theorem setGroup_pcie (s : State) (k j : Nat) (g : Group) : (setGroup s k j g).pcie = s.pcie := rfl
@[simp] theorem setGroup_i3cEid (s : State) (k j : Nat) (g : Group) : (setGroup s k j g).i3cEid = s.i3cEid := rfl
@[simp] theorem setGroup_i3cAddr (s : State) (k j : Nat) (g : Group) : (setGroup s k j g).i3cAddr = s.i3cAddr := rfl
@[simp] theorem setGroup_defRm (s : State) (k j : Nat) (g : Group) : (setGroup s k j g).defRm = s.defRm := rfl
@[simp] theorem setGroup_defOvf (s : State) (k j : Nat) (g : Group) : (setGroup s k j g).defOvf = s.defOvf := rfl
@[simp] theorem setGroup_thermTrip (s : State) (k j : Nat) (g : Group) : (setGroup s k j g).thermTrip = s.thermTrip := rfl
@[simp] theorem setGroup_outbox (s : State) (k j : Nat) (g : Group) : (setGroup s k j g).outbox = s.outbox := rfl
@[simp] theorem setGroup_freeCtr (s : State) (k j : Nat) (g : Group) : (setGroup s k j g).freeCtr = s.freeCtr := rfl

/-! ## delGroup -/

@[simp] theorem delGroup_pending (s : State) (k j : Nat) : (delGroup s k j).pending = s.pending := rfl
@[simp] theorem delGroup_life (s : State) (k j : Nat) : (delGroup s k j).life = s.life := rfl
@[simp] theorem delGroup_dies (s : State) (k j : Nat) : (delGroup s k j).dies = s.dies := rfl
@[simp] theorem delGroup_links (s : State) (k j : Nat) : (delGroup s k j).links = s.links := rfl
@[simp] theorem delGroup_ccs (s : State) (k j : Nat) : (delGroup s k j).ccs = s.ccs := rfl
@[simp] theorem delGroup_mem (s : State) (k j : Nat) : (delGroup s k j).mem = s.mem := rfl
@[simp] theorem delGroup_homes (s : State) (k j : Nat) : (delGroup s k j).homes = s.homes := rfl
@[simp] theorem delGroup_hbm (s : State) (k j : Nat) : (delGroup s k j).hbm = s.hbm := rfl
@[simp] theorem delGroup_xlat (s : State) (k j : Nat) : (delGroup s k j).xlat = s.xlat := rfl
@[simp] theorem delGroup_fabric (s : State) (k j : Nat) : (delGroup s k j).fabric = s.fabric := rfl
@[simp] theorem delGroup_epochs (s : State) (k j : Nat) : (delGroup s k j).epochs = s.epochs := rfl
@[simp] theorem delGroup_disp (s : State) (k j : Nat) : (delGroup s k j).disp = s.disp := rfl
@[simp] theorem delGroup_power (s : State) (k j : Nat) : (delGroup s k j).power = s.power := rfl
@[simp] theorem delGroup_sec (s : State) (k j : Nat) : (delGroup s k j).sec = s.sec := rfl
@[simp] theorem delGroup_obs (s : State) (k j : Nat) : (delGroup s k j).obs = s.obs := rfl
@[simp] theorem delGroup_pcie (s : State) (k j : Nat) : (delGroup s k j).pcie = s.pcie := rfl
@[simp] theorem delGroup_i3cEid (s : State) (k j : Nat) : (delGroup s k j).i3cEid = s.i3cEid := rfl
@[simp] theorem delGroup_i3cAddr (s : State) (k j : Nat) : (delGroup s k j).i3cAddr = s.i3cAddr := rfl
@[simp] theorem delGroup_defRm (s : State) (k j : Nat) : (delGroup s k j).defRm = s.defRm := rfl
@[simp] theorem delGroup_defOvf (s : State) (k j : Nat) : (delGroup s k j).defOvf = s.defOvf := rfl
@[simp] theorem delGroup_thermTrip (s : State) (k j : Nat) : (delGroup s k j).thermTrip = s.thermTrip := rfl
@[simp] theorem delGroup_outbox (s : State) (k j : Nat) : (delGroup s k j).outbox = s.outbox := rfl
@[simp] theorem delGroup_freeCtr (s : State) (k j : Nat) : (delGroup s k j).freeCtr = s.freeCtr := rfl

/-! ## modGroup -/

@[simp] theorem modGroup_pending (s : State) (k j : Nat) (f : Group → Group) : (modGroup s k j f).pending = s.pending := by unfold modGroup; split <;> rfl
@[simp] theorem modGroup_life (s : State) (k j : Nat) (f : Group → Group) : (modGroup s k j f).life = s.life := by unfold modGroup; split <;> rfl
@[simp] theorem modGroup_dies (s : State) (k j : Nat) (f : Group → Group) : (modGroup s k j f).dies = s.dies := by unfold modGroup; split <;> rfl
@[simp] theorem modGroup_links (s : State) (k j : Nat) (f : Group → Group) : (modGroup s k j f).links = s.links := by unfold modGroup; split <;> rfl
@[simp] theorem modGroup_ccs (s : State) (k j : Nat) (f : Group → Group) : (modGroup s k j f).ccs = s.ccs := by unfold modGroup; split <;> rfl
@[simp] theorem modGroup_mem (s : State) (k j : Nat) (f : Group → Group) : (modGroup s k j f).mem = s.mem := by unfold modGroup; split <;> rfl
@[simp] theorem modGroup_homes (s : State) (k j : Nat) (f : Group → Group) : (modGroup s k j f).homes = s.homes := by unfold modGroup; split <;> rfl
@[simp] theorem modGroup_hbm (s : State) (k j : Nat) (f : Group → Group) : (modGroup s k j f).hbm = s.hbm := by unfold modGroup; split <;> rfl
@[simp] theorem modGroup_xlat (s : State) (k j : Nat) (f : Group → Group) : (modGroup s k j f).xlat = s.xlat := by unfold modGroup; split <;> rfl
@[simp] theorem modGroup_fabric (s : State) (k j : Nat) (f : Group → Group) : (modGroup s k j f).fabric = s.fabric := by unfold modGroup; split <;> rfl
@[simp] theorem modGroup_epochs (s : State) (k j : Nat) (f : Group → Group) : (modGroup s k j f).epochs = s.epochs := by unfold modGroup; split <;> rfl
@[simp] theorem modGroup_disp (s : State) (k j : Nat) (f : Group → Group) : (modGroup s k j f).disp = s.disp := by unfold modGroup; split <;> rfl
@[simp] theorem modGroup_power (s : State) (k j : Nat) (f : Group → Group) : (modGroup s k j f).power = s.power := by unfold modGroup; split <;> rfl
@[simp] theorem modGroup_sec (s : State) (k j : Nat) (f : Group → Group) : (modGroup s k j f).sec = s.sec := by unfold modGroup; split <;> rfl
@[simp] theorem modGroup_obs (s : State) (k j : Nat) (f : Group → Group) : (modGroup s k j f).obs = s.obs := by unfold modGroup; split <;> rfl
@[simp] theorem modGroup_pcie (s : State) (k j : Nat) (f : Group → Group) : (modGroup s k j f).pcie = s.pcie := by unfold modGroup; split <;> rfl
@[simp] theorem modGroup_i3cEid (s : State) (k j : Nat) (f : Group → Group) : (modGroup s k j f).i3cEid = s.i3cEid := by unfold modGroup; split <;> rfl
@[simp] theorem modGroup_i3cAddr (s : State) (k j : Nat) (f : Group → Group) : (modGroup s k j f).i3cAddr = s.i3cAddr := by unfold modGroup; split <;> rfl
@[simp] theorem modGroup_defRm (s : State) (k j : Nat) (f : Group → Group) : (modGroup s k j f).defRm = s.defRm := by unfold modGroup; split <;> rfl
@[simp] theorem modGroup_defOvf (s : State) (k j : Nat) (f : Group → Group) : (modGroup s k j f).defOvf = s.defOvf := by unfold modGroup; split <;> rfl
@[simp] theorem modGroup_thermTrip (s : State) (k j : Nat) (f : Group → Group) : (modGroup s k j f).thermTrip = s.thermTrip := by unfold modGroup; split <;> rfl
@[simp] theorem modGroup_outbox (s : State) (k j : Nat) (f : Group → Group) : (modGroup s k j f).outbox = s.outbox := by unfold modGroup; split <;> rfl
@[simp] theorem modGroup_freeCtr (s : State) (k j : Nat) (f : Group → Group) : (modGroup s k j f).freeCtr = s.freeCtr := by unfold modGroup; split <;> rfl

/-! ## modLink -/

@[simp] theorem modLink_pending (s : State) (n : Nat) (f : Link → Link) : (modLink s n f).pending = s.pending := rfl
@[simp] theorem modLink_life (s : State) (n : Nat) (f : Link → Link) : (modLink s n f).life = s.life := rfl
@[simp] theorem modLink_dies (s : State) (n : Nat) (f : Link → Link) : (modLink s n f).dies = s.dies := rfl
@[simp] theorem modLink_cores (s : State) (n : Nat) (f : Link → Link) : (modLink s n f).cores = s.cores := rfl
@[simp] theorem modLink_ccs (s : State) (n : Nat) (f : Link → Link) : (modLink s n f).ccs = s.ccs := rfl
@[simp] theorem modLink_mem (s : State) (n : Nat) (f : Link → Link) : (modLink s n f).mem = s.mem := rfl
@[simp] theorem modLink_homes (s : State) (n : Nat) (f : Link → Link) : (modLink s n f).homes = s.homes := rfl
@[simp] theorem modLink_hbm (s : State) (n : Nat) (f : Link → Link) : (modLink s n f).hbm = s.hbm := rfl
@[simp] theorem modLink_xlat (s : State) (n : Nat) (f : Link → Link) : (modLink s n f).xlat = s.xlat := rfl
@[simp] theorem modLink_fabric (s : State) (n : Nat) (f : Link → Link) : (modLink s n f).fabric = s.fabric := rfl
@[simp] theorem modLink_epochs (s : State) (n : Nat) (f : Link → Link) : (modLink s n f).epochs = s.epochs := rfl
@[simp] theorem modLink_disp (s : State) (n : Nat) (f : Link → Link) : (modLink s n f).disp = s.disp := rfl
@[simp] theorem modLink_power (s : State) (n : Nat) (f : Link → Link) : (modLink s n f).power = s.power := rfl
@[simp] theorem modLink_sec (s : State) (n : Nat) (f : Link → Link) : (modLink s n f).sec = s.sec := rfl
@[simp] theorem modLink_obs (s : State) (n : Nat) (f : Link → Link) : (modLink s n f).obs = s.obs := rfl
@[simp] theorem modLink_pcie (s : State) (n : Nat) (f : Link → Link) : (modLink s n f).pcie = s.pcie := rfl
@[simp] theorem modLink_i3cEid (s : State) (n : Nat) (f : Link → Link) : (modLink s n f).i3cEid = s.i3cEid := rfl
@[simp] theorem modLink_i3cAddr (s : State) (n : Nat) (f : Link → Link) : (modLink s n f).i3cAddr = s.i3cAddr := rfl
@[simp] theorem modLink_defRm (s : State) (n : Nat) (f : Link → Link) : (modLink s n f).defRm = s.defRm := rfl
@[simp] theorem modLink_defOvf (s : State) (n : Nat) (f : Link → Link) : (modLink s n f).defOvf = s.defOvf := rfl
@[simp] theorem modLink_thermTrip (s : State) (n : Nat) (f : Link → Link) : (modLink s n f).thermTrip = s.thermTrip := rfl
@[simp] theorem modLink_outbox (s : State) (n : Nat) (f : Link → Link) : (modLink s n f).outbox = s.outbox := rfl
@[simp] theorem modLink_freeCtr (s : State) (n : Nat) (f : Link → Link) : (modLink s n f).freeCtr = s.freeCtr := rfl

/-! ## modPcie -/

@[simp] theorem modPcie_pending (s : State) (n : Nat) (f : Pcie → Pcie) : (modPcie s n f).pending = s.pending := rfl
@[simp] theorem modPcie_life (s : State) (n : Nat) (f : Pcie → Pcie) : (modPcie s n f).life = s.life := rfl
@[simp] theorem modPcie_dies (s : State) (n : Nat) (f : Pcie → Pcie) : (modPcie s n f).dies = s.dies := rfl
@[simp] theorem modPcie_links (s : State) (n : Nat) (f : Pcie → Pcie) : (modPcie s n f).links = s.links := rfl
@[simp] theorem modPcie_cores (s : State) (n : Nat) (f : Pcie → Pcie) : (modPcie s n f).cores = s.cores := rfl
@[simp] theorem modPcie_ccs (s : State) (n : Nat) (f : Pcie → Pcie) : (modPcie s n f).ccs = s.ccs := rfl
@[simp] theorem modPcie_mem (s : State) (n : Nat) (f : Pcie → Pcie) : (modPcie s n f).mem = s.mem := rfl
@[simp] theorem modPcie_homes (s : State) (n : Nat) (f : Pcie → Pcie) : (modPcie s n f).homes = s.homes := rfl
@[simp] theorem modPcie_hbm (s : State) (n : Nat) (f : Pcie → Pcie) : (modPcie s n f).hbm = s.hbm := rfl
@[simp] theorem modPcie_xlat (s : State) (n : Nat) (f : Pcie → Pcie) : (modPcie s n f).xlat = s.xlat := rfl
@[simp] theorem modPcie_fabric (s : State) (n : Nat) (f : Pcie → Pcie) : (modPcie s n f).fabric = s.fabric := rfl
@[simp] theorem modPcie_epochs (s : State) (n : Nat) (f : Pcie → Pcie) : (modPcie s n f).epochs = s.epochs := rfl
@[simp] theorem modPcie_disp (s : State) (n : Nat) (f : Pcie → Pcie) : (modPcie s n f).disp = s.disp := rfl
@[simp] theorem modPcie_power (s : State) (n : Nat) (f : Pcie → Pcie) : (modPcie s n f).power = s.power := rfl
@[simp] theorem modPcie_sec (s : State) (n : Nat) (f : Pcie → Pcie) : (modPcie s n f).sec = s.sec := rfl
@[simp] theorem modPcie_obs (s : State) (n : Nat) (f : Pcie → Pcie) : (modPcie s n f).obs = s.obs := rfl
@[simp] theorem modPcie_i3cEid (s : State) (n : Nat) (f : Pcie → Pcie) : (modPcie s n f).i3cEid = s.i3cEid := rfl
@[simp] theorem modPcie_i3cAddr (s : State) (n : Nat) (f : Pcie → Pcie) : (modPcie s n f).i3cAddr = s.i3cAddr := rfl
@[simp] theorem modPcie_defRm (s : State) (n : Nat) (f : Pcie → Pcie) : (modPcie s n f).defRm = s.defRm := rfl
@[simp] theorem modPcie_defOvf (s : State) (n : Nat) (f : Pcie → Pcie) : (modPcie s n f).defOvf = s.defOvf := rfl
@[simp] theorem modPcie_thermTrip (s : State) (n : Nat) (f : Pcie → Pcie) : (modPcie s n f).thermTrip = s.thermTrip := rfl
@[simp] theorem modPcie_outbox (s : State) (n : Nat) (f : Pcie → Pcie) : (modPcie s n f).outbox = s.outbox := rfl
@[simp] theorem modPcie_freeCtr (s : State) (n : Nat) (f : Pcie → Pcie) : (modPcie s n f).freeCtr = s.freeCtr := rfl

/-! ## modPort -/

@[simp] theorem modPort_pending (s : State) (n : Nat) (f : Port → Port) : (modPort s n f).pending = s.pending := rfl
@[simp] theorem modPort_life (s : State) (n : Nat) (f : Port → Port) : (modPort s n f).life = s.life := rfl
@[simp] theorem modPort_dies (s : State) (n : Nat) (f : Port → Port) : (modPort s n f).dies = s.dies := rfl
@[simp] theorem modPort_links (s : State) (n : Nat) (f : Port → Port) : (modPort s n f).links = s.links := rfl
@[simp] theorem modPort_cores (s : State) (n : Nat) (f : Port → Port) : (modPort s n f).cores = s.cores := rfl
@[simp] theorem modPort_ccs (s : State) (n : Nat) (f : Port → Port) : (modPort s n f).ccs = s.ccs := rfl
@[simp] theorem modPort_mem (s : State) (n : Nat) (f : Port → Port) : (modPort s n f).mem = s.mem := rfl
@[simp] theorem modPort_homes (s : State) (n : Nat) (f : Port → Port) : (modPort s n f).homes = s.homes := rfl
@[simp] theorem modPort_hbm (s : State) (n : Nat) (f : Port → Port) : (modPort s n f).hbm = s.hbm := rfl
@[simp] theorem modPort_xlat (s : State) (n : Nat) (f : Port → Port) : (modPort s n f).xlat = s.xlat := rfl
@[simp] theorem modPort_epochs (s : State) (n : Nat) (f : Port → Port) : (modPort s n f).epochs = s.epochs := rfl
@[simp] theorem modPort_disp (s : State) (n : Nat) (f : Port → Port) : (modPort s n f).disp = s.disp := rfl
@[simp] theorem modPort_power (s : State) (n : Nat) (f : Port → Port) : (modPort s n f).power = s.power := rfl
@[simp] theorem modPort_sec (s : State) (n : Nat) (f : Port → Port) : (modPort s n f).sec = s.sec := rfl
@[simp] theorem modPort_obs (s : State) (n : Nat) (f : Port → Port) : (modPort s n f).obs = s.obs := rfl
@[simp] theorem modPort_pcie (s : State) (n : Nat) (f : Port → Port) : (modPort s n f).pcie = s.pcie := rfl
@[simp] theorem modPort_i3cEid (s : State) (n : Nat) (f : Port → Port) : (modPort s n f).i3cEid = s.i3cEid := rfl
@[simp] theorem modPort_i3cAddr (s : State) (n : Nat) (f : Port → Port) : (modPort s n f).i3cAddr = s.i3cAddr := rfl
@[simp] theorem modPort_defRm (s : State) (n : Nat) (f : Port → Port) : (modPort s n f).defRm = s.defRm := rfl
@[simp] theorem modPort_defOvf (s : State) (n : Nat) (f : Port → Port) : (modPort s n f).defOvf = s.defOvf := rfl
@[simp] theorem modPort_thermTrip (s : State) (n : Nat) (f : Port → Port) : (modPort s n f).thermTrip = s.thermTrip := rfl
@[simp] theorem modPort_outbox (s : State) (n : Nat) (f : Port → Port) : (modPort s n f).outbox = s.outbox := rfl
@[simp] theorem modPort_freeCtr (s : State) (n : Nat) (f : Port → Port) : (modPort s n f).freeCtr = s.freeCtr := rfl

/-! ## modJob -/

@[simp] theorem modJob_pending (s : State) (j : Nat) (f : JobEntry → JobEntry) : (modJob s j f).pending = s.pending := rfl
@[simp] theorem modJob_life (s : State) (j : Nat) (f : JobEntry → JobEntry) : (modJob s j f).life = s.life := rfl
@[simp] theorem modJob_dies (s : State) (j : Nat) (f : JobEntry → JobEntry) : (modJob s j f).dies = s.dies := rfl
@[simp] theorem modJob_links (s : State) (j : Nat) (f : JobEntry → JobEntry) : (modJob s j f).links = s.links := rfl
@[simp] theorem modJob_cores (s : State) (j : Nat) (f : JobEntry → JobEntry) : (modJob s j f).cores = s.cores := rfl
@[simp] theorem modJob_ccs (s : State) (j : Nat) (f : JobEntry → JobEntry) : (modJob s j f).ccs = s.ccs := rfl
@[simp] theorem modJob_mem (s : State) (j : Nat) (f : JobEntry → JobEntry) : (modJob s j f).mem = s.mem := rfl
@[simp] theorem modJob_homes (s : State) (j : Nat) (f : JobEntry → JobEntry) : (modJob s j f).homes = s.homes := rfl
@[simp] theorem modJob_hbm (s : State) (j : Nat) (f : JobEntry → JobEntry) : (modJob s j f).hbm = s.hbm := rfl
@[simp] theorem modJob_xlat (s : State) (j : Nat) (f : JobEntry → JobEntry) : (modJob s j f).xlat = s.xlat := rfl
@[simp] theorem modJob_epochs (s : State) (j : Nat) (f : JobEntry → JobEntry) : (modJob s j f).epochs = s.epochs := rfl
@[simp] theorem modJob_disp (s : State) (j : Nat) (f : JobEntry → JobEntry) : (modJob s j f).disp = s.disp := rfl
@[simp] theorem modJob_power (s : State) (j : Nat) (f : JobEntry → JobEntry) : (modJob s j f).power = s.power := rfl
@[simp] theorem modJob_sec (s : State) (j : Nat) (f : JobEntry → JobEntry) : (modJob s j f).sec = s.sec := rfl
@[simp] theorem modJob_obs (s : State) (j : Nat) (f : JobEntry → JobEntry) : (modJob s j f).obs = s.obs := rfl
@[simp] theorem modJob_pcie (s : State) (j : Nat) (f : JobEntry → JobEntry) : (modJob s j f).pcie = s.pcie := rfl
@[simp] theorem modJob_i3cEid (s : State) (j : Nat) (f : JobEntry → JobEntry) : (modJob s j f).i3cEid = s.i3cEid := rfl
@[simp] theorem modJob_i3cAddr (s : State) (j : Nat) (f : JobEntry → JobEntry) : (modJob s j f).i3cAddr = s.i3cAddr := rfl
@[simp] theorem modJob_defRm (s : State) (j : Nat) (f : JobEntry → JobEntry) : (modJob s j f).defRm = s.defRm := rfl
@[simp] theorem modJob_defOvf (s : State) (j : Nat) (f : JobEntry → JobEntry) : (modJob s j f).defOvf = s.defOvf := rfl
@[simp] theorem modJob_thermTrip (s : State) (j : Nat) (f : JobEntry → JobEntry) : (modJob s j f).thermTrip = s.thermTrip := rfl
@[simp] theorem modJob_outbox (s : State) (j : Nat) (f : JobEntry → JobEntry) : (modJob s j f).outbox = s.outbox := rfl
@[simp] theorem modJob_freeCtr (s : State) (j : Nat) (f : JobEntry → JobEntry) : (modJob s j f).freeCtr = s.freeCtr := rfl

/-! ## modTree -/

@[simp] theorem modTree_pending (s : State) (t : Nat) (f : Tree → Tree) : (modTree s t f).pending = s.pending := rfl
@[simp] theorem modTree_life (s : State) (t : Nat) (f : Tree → Tree) : (modTree s t f).life = s.life := rfl
@[simp] theorem modTree_dies (s : State) (t : Nat) (f : Tree → Tree) : (modTree s t f).dies = s.dies := rfl
@[simp] theorem modTree_links (s : State) (t : Nat) (f : Tree → Tree) : (modTree s t f).links = s.links := rfl
@[simp] theorem modTree_cores (s : State) (t : Nat) (f : Tree → Tree) : (modTree s t f).cores = s.cores := rfl
@[simp] theorem modTree_ccs (s : State) (t : Nat) (f : Tree → Tree) : (modTree s t f).ccs = s.ccs := rfl
@[simp] theorem modTree_mem (s : State) (t : Nat) (f : Tree → Tree) : (modTree s t f).mem = s.mem := rfl
@[simp] theorem modTree_homes (s : State) (t : Nat) (f : Tree → Tree) : (modTree s t f).homes = s.homes := rfl
@[simp] theorem modTree_hbm (s : State) (t : Nat) (f : Tree → Tree) : (modTree s t f).hbm = s.hbm := rfl
@[simp] theorem modTree_xlat (s : State) (t : Nat) (f : Tree → Tree) : (modTree s t f).xlat = s.xlat := rfl
@[simp] theorem modTree_epochs (s : State) (t : Nat) (f : Tree → Tree) : (modTree s t f).epochs = s.epochs := rfl
@[simp] theorem modTree_disp (s : State) (t : Nat) (f : Tree → Tree) : (modTree s t f).disp = s.disp := rfl
@[simp] theorem modTree_power (s : State) (t : Nat) (f : Tree → Tree) : (modTree s t f).power = s.power := rfl
@[simp] theorem modTree_sec (s : State) (t : Nat) (f : Tree → Tree) : (modTree s t f).sec = s.sec := rfl
@[simp] theorem modTree_obs (s : State) (t : Nat) (f : Tree → Tree) : (modTree s t f).obs = s.obs := rfl
@[simp] theorem modTree_pcie (s : State) (t : Nat) (f : Tree → Tree) : (modTree s t f).pcie = s.pcie := rfl
@[simp] theorem modTree_i3cEid (s : State) (t : Nat) (f : Tree → Tree) : (modTree s t f).i3cEid = s.i3cEid := rfl
@[simp] theorem modTree_i3cAddr (s : State) (t : Nat) (f : Tree → Tree) : (modTree s t f).i3cAddr = s.i3cAddr := rfl
@[simp] theorem modTree_defRm (s : State) (t : Nat) (f : Tree → Tree) : (modTree s t f).defRm = s.defRm := rfl
@[simp] theorem modTree_defOvf (s : State) (t : Nat) (f : Tree → Tree) : (modTree s t f).defOvf = s.defOvf := rfl
@[simp] theorem modTree_thermTrip (s : State) (t : Nat) (f : Tree → Tree) : (modTree s t f).thermTrip = s.thermTrip := rfl
@[simp] theorem modTree_outbox (s : State) (t : Nat) (f : Tree → Tree) : (modTree s t f).outbox = s.outbox := rfl
@[simp] theorem modTree_freeCtr (s : State) (t : Nat) (f : Tree → Tree) : (modTree s t f).freeCtr = s.freeCtr := rfl

/-! ## modPart -/

@[simp] theorem modPart_pending (s : State) (p : Nat) (f : Partition → Partition) : (modPart s p f).pending = s.pending := rfl
@[simp] theorem modPart_life (s : State) (p : Nat) (f : Partition → Partition) : (modPart s p f).life = s.life := rfl
@[simp] theorem modPart_dies (s : State) (p : Nat) (f : Partition → Partition) : (modPart s p f).dies = s.dies := rfl
@[simp] theorem modPart_links (s : State) (p : Nat) (f : Partition → Partition) : (modPart s p f).links = s.links := rfl
@[simp] theorem modPart_cores (s : State) (p : Nat) (f : Partition → Partition) : (modPart s p f).cores = s.cores := rfl
@[simp] theorem modPart_ccs (s : State) (p : Nat) (f : Partition → Partition) : (modPart s p f).ccs = s.ccs := rfl
@[simp] theorem modPart_mem (s : State) (p : Nat) (f : Partition → Partition) : (modPart s p f).mem = s.mem := rfl
@[simp] theorem modPart_homes (s : State) (p : Nat) (f : Partition → Partition) : (modPart s p f).homes = s.homes := rfl
@[simp] theorem modPart_hbm (s : State) (p : Nat) (f : Partition → Partition) : (modPart s p f).hbm = s.hbm := rfl
@[simp] theorem modPart_xlat (s : State) (p : Nat) (f : Partition → Partition) : (modPart s p f).xlat = s.xlat := rfl
@[simp] theorem modPart_fabric (s : State) (p : Nat) (f : Partition → Partition) : (modPart s p f).fabric = s.fabric := rfl
@[simp] theorem modPart_epochs (s : State) (p : Nat) (f : Partition → Partition) : (modPart s p f).epochs = s.epochs := rfl
@[simp] theorem modPart_power (s : State) (p : Nat) (f : Partition → Partition) : (modPart s p f).power = s.power := rfl
@[simp] theorem modPart_sec (s : State) (p : Nat) (f : Partition → Partition) : (modPart s p f).sec = s.sec := rfl
@[simp] theorem modPart_obs (s : State) (p : Nat) (f : Partition → Partition) : (modPart s p f).obs = s.obs := rfl
@[simp] theorem modPart_pcie (s : State) (p : Nat) (f : Partition → Partition) : (modPart s p f).pcie = s.pcie := rfl
@[simp] theorem modPart_i3cEid (s : State) (p : Nat) (f : Partition → Partition) : (modPart s p f).i3cEid = s.i3cEid := rfl
@[simp] theorem modPart_i3cAddr (s : State) (p : Nat) (f : Partition → Partition) : (modPart s p f).i3cAddr = s.i3cAddr := rfl
@[simp] theorem modPart_defRm (s : State) (p : Nat) (f : Partition → Partition) : (modPart s p f).defRm = s.defRm := rfl
@[simp] theorem modPart_defOvf (s : State) (p : Nat) (f : Partition → Partition) : (modPart s p f).defOvf = s.defOvf := rfl
@[simp] theorem modPart_thermTrip (s : State) (p : Nat) (f : Partition → Partition) : (modPart s p f).thermTrip = s.thermTrip := rfl
@[simp] theorem modPart_outbox (s : State) (p : Nat) (f : Partition → Partition) : (modPart s p f).outbox = s.outbox := rfl
@[simp] theorem modPart_freeCtr (s : State) (p : Nat) (f : Partition → Partition) : (modPart s p f).freeCtr = s.freeCtr := rfl

/-! ## modCtx -/

@[simp] theorem modCtx_pending (s : State) (c : Nat) (f : Ctx → Ctx) : (modCtx s c f).pending = s.pending := rfl
@[simp] theorem modCtx_life (s : State) (c : Nat) (f : Ctx → Ctx) : (modCtx s c f).life = s.life := rfl
@[simp] theorem modCtx_dies (s : State) (c : Nat) (f : Ctx → Ctx) : (modCtx s c f).dies = s.dies := rfl
@[simp] theorem modCtx_links (s : State) (c : Nat) (f : Ctx → Ctx) : (modCtx s c f).links = s.links := rfl
@[simp] theorem modCtx_cores (s : State) (c : Nat) (f : Ctx → Ctx) : (modCtx s c f).cores = s.cores := rfl
@[simp] theorem modCtx_ccs (s : State) (c : Nat) (f : Ctx → Ctx) : (modCtx s c f).ccs = s.ccs := rfl
@[simp] theorem modCtx_mem (s : State) (c : Nat) (f : Ctx → Ctx) : (modCtx s c f).mem = s.mem := rfl
@[simp] theorem modCtx_homes (s : State) (c : Nat) (f : Ctx → Ctx) : (modCtx s c f).homes = s.homes := rfl
@[simp] theorem modCtx_hbm (s : State) (c : Nat) (f : Ctx → Ctx) : (modCtx s c f).hbm = s.hbm := rfl
@[simp] theorem modCtx_xlat (s : State) (c : Nat) (f : Ctx → Ctx) : (modCtx s c f).xlat = s.xlat := rfl
@[simp] theorem modCtx_fabric (s : State) (c : Nat) (f : Ctx → Ctx) : (modCtx s c f).fabric = s.fabric := rfl
@[simp] theorem modCtx_epochs (s : State) (c : Nat) (f : Ctx → Ctx) : (modCtx s c f).epochs = s.epochs := rfl
@[simp] theorem modCtx_power (s : State) (c : Nat) (f : Ctx → Ctx) : (modCtx s c f).power = s.power := rfl
@[simp] theorem modCtx_sec (s : State) (c : Nat) (f : Ctx → Ctx) : (modCtx s c f).sec = s.sec := rfl
@[simp] theorem modCtx_obs (s : State) (c : Nat) (f : Ctx → Ctx) : (modCtx s c f).obs = s.obs := rfl
@[simp] theorem modCtx_pcie (s : State) (c : Nat) (f : Ctx → Ctx) : (modCtx s c f).pcie = s.pcie := rfl
@[simp] theorem modCtx_i3cEid (s : State) (c : Nat) (f : Ctx → Ctx) : (modCtx s c f).i3cEid = s.i3cEid := rfl
@[simp] theorem modCtx_i3cAddr (s : State) (c : Nat) (f : Ctx → Ctx) : (modCtx s c f).i3cAddr = s.i3cAddr := rfl
@[simp] theorem modCtx_defRm (s : State) (c : Nat) (f : Ctx → Ctx) : (modCtx s c f).defRm = s.defRm := rfl
@[simp] theorem modCtx_defOvf (s : State) (c : Nat) (f : Ctx → Ctx) : (modCtx s c f).defOvf = s.defOvf := rfl
@[simp] theorem modCtx_thermTrip (s : State) (c : Nat) (f : Ctx → Ctx) : (modCtx s c f).thermTrip = s.thermTrip := rfl
@[simp] theorem modCtx_outbox (s : State) (c : Nat) (f : Ctx → Ctx) : (modCtx s c f).outbox = s.outbox := rfl
@[simp] theorem modCtx_freeCtr (s : State) (c : Nat) (f : Ctx → Ctx) : (modCtx s c f).freeCtr = s.freeCtr := rfl

/-! ## modQueue -/

@[simp] theorem modQueue_pending (s : State) (h : Nat) (f : Queue → Queue) : (modQueue s h f).pending = s.pending := rfl
@[simp] theorem modQueue_life (s : State) (h : Nat) (f : Queue → Queue) : (modQueue s h f).life = s.life := rfl
@[simp] theorem modQueue_dies (s : State) (h : Nat) (f : Queue → Queue) : (modQueue s h f).dies = s.dies := rfl
@[simp] theorem modQueue_links (s : State) (h : Nat) (f : Queue → Queue) : (modQueue s h f).links = s.links := rfl
@[simp] theorem modQueue_cores (s : State) (h : Nat) (f : Queue → Queue) : (modQueue s h f).cores = s.cores := rfl
@[simp] theorem modQueue_ccs (s : State) (h : Nat) (f : Queue → Queue) : (modQueue s h f).ccs = s.ccs := rfl
@[simp] theorem modQueue_mem (s : State) (h : Nat) (f : Queue → Queue) : (modQueue s h f).mem = s.mem := rfl
@[simp] theorem modQueue_homes (s : State) (h : Nat) (f : Queue → Queue) : (modQueue s h f).homes = s.homes := rfl
@[simp] theorem modQueue_hbm (s : State) (h : Nat) (f : Queue → Queue) : (modQueue s h f).hbm = s.hbm := rfl
@[simp] theorem modQueue_xlat (s : State) (h : Nat) (f : Queue → Queue) : (modQueue s h f).xlat = s.xlat := rfl
@[simp] theorem modQueue_fabric (s : State) (h : Nat) (f : Queue → Queue) : (modQueue s h f).fabric = s.fabric := rfl
@[simp] theorem modQueue_epochs (s : State) (h : Nat) (f : Queue → Queue) : (modQueue s h f).epochs = s.epochs := rfl
@[simp] theorem modQueue_power (s : State) (h : Nat) (f : Queue → Queue) : (modQueue s h f).power = s.power := rfl
@[simp] theorem modQueue_sec (s : State) (h : Nat) (f : Queue → Queue) : (modQueue s h f).sec = s.sec := rfl
@[simp] theorem modQueue_obs (s : State) (h : Nat) (f : Queue → Queue) : (modQueue s h f).obs = s.obs := rfl
@[simp] theorem modQueue_pcie (s : State) (h : Nat) (f : Queue → Queue) : (modQueue s h f).pcie = s.pcie := rfl
@[simp] theorem modQueue_i3cEid (s : State) (h : Nat) (f : Queue → Queue) : (modQueue s h f).i3cEid = s.i3cEid := rfl
@[simp] theorem modQueue_i3cAddr (s : State) (h : Nat) (f : Queue → Queue) : (modQueue s h f).i3cAddr = s.i3cAddr := rfl
@[simp] theorem modQueue_defRm (s : State) (h : Nat) (f : Queue → Queue) : (modQueue s h f).defRm = s.defRm := rfl
@[simp] theorem modQueue_defOvf (s : State) (h : Nat) (f : Queue → Queue) : (modQueue s h f).defOvf = s.defOvf := rfl
@[simp] theorem modQueue_thermTrip (s : State) (h : Nat) (f : Queue → Queue) : (modQueue s h f).thermTrip = s.thermTrip := rfl
@[simp] theorem modQueue_outbox (s : State) (h : Nat) (f : Queue → Queue) : (modQueue s h f).outbox = s.outbox := rfl
@[simp] theorem modQueue_freeCtr (s : State) (h : Nat) (f : Queue → Queue) : (modQueue s h f).freeCtr = s.freeCtr := rfl

/-! ## modEntry -/

@[simp] theorem modEntry_pending (s : State) (e : Nat) (f : Entry → Entry) : (modEntry s e f).pending = s.pending := rfl
@[simp] theorem modEntry_life (s : State) (e : Nat) (f : Entry → Entry) : (modEntry s e f).life = s.life := rfl
@[simp] theorem modEntry_dies (s : State) (e : Nat) (f : Entry → Entry) : (modEntry s e f).dies = s.dies := rfl
@[simp] theorem modEntry_links (s : State) (e : Nat) (f : Entry → Entry) : (modEntry s e f).links = s.links := rfl
@[simp] theorem modEntry_cores (s : State) (e : Nat) (f : Entry → Entry) : (modEntry s e f).cores = s.cores := rfl
@[simp] theorem modEntry_ccs (s : State) (e : Nat) (f : Entry → Entry) : (modEntry s e f).ccs = s.ccs := rfl
@[simp] theorem modEntry_mem (s : State) (e : Nat) (f : Entry → Entry) : (modEntry s e f).mem = s.mem := rfl
@[simp] theorem modEntry_homes (s : State) (e : Nat) (f : Entry → Entry) : (modEntry s e f).homes = s.homes := rfl
@[simp] theorem modEntry_hbm (s : State) (e : Nat) (f : Entry → Entry) : (modEntry s e f).hbm = s.hbm := rfl
@[simp] theorem modEntry_xlat (s : State) (e : Nat) (f : Entry → Entry) : (modEntry s e f).xlat = s.xlat := rfl
@[simp] theorem modEntry_fabric (s : State) (e : Nat) (f : Entry → Entry) : (modEntry s e f).fabric = s.fabric := rfl
@[simp] theorem modEntry_epochs (s : State) (e : Nat) (f : Entry → Entry) : (modEntry s e f).epochs = s.epochs := rfl
@[simp] theorem modEntry_power (s : State) (e : Nat) (f : Entry → Entry) : (modEntry s e f).power = s.power := rfl
@[simp] theorem modEntry_sec (s : State) (e : Nat) (f : Entry → Entry) : (modEntry s e f).sec = s.sec := rfl
@[simp] theorem modEntry_obs (s : State) (e : Nat) (f : Entry → Entry) : (modEntry s e f).obs = s.obs := rfl
@[simp] theorem modEntry_pcie (s : State) (e : Nat) (f : Entry → Entry) : (modEntry s e f).pcie = s.pcie := rfl
@[simp] theorem modEntry_i3cEid (s : State) (e : Nat) (f : Entry → Entry) : (modEntry s e f).i3cEid = s.i3cEid := rfl
@[simp] theorem modEntry_i3cAddr (s : State) (e : Nat) (f : Entry → Entry) : (modEntry s e f).i3cAddr = s.i3cAddr := rfl
@[simp] theorem modEntry_defRm (s : State) (e : Nat) (f : Entry → Entry) : (modEntry s e f).defRm = s.defRm := rfl
@[simp] theorem modEntry_defOvf (s : State) (e : Nat) (f : Entry → Entry) : (modEntry s e f).defOvf = s.defOvf := rfl
@[simp] theorem modEntry_thermTrip (s : State) (e : Nat) (f : Entry → Entry) : (modEntry s e f).thermTrip = s.thermTrip := rfl
@[simp] theorem modEntry_outbox (s : State) (e : Nat) (f : Entry → Entry) : (modEntry s e f).outbox = s.outbox := rfl
@[simp] theorem modEntry_freeCtr (s : State) (e : Nat) (f : Entry → Entry) : (modEntry s e f).freeCtr = s.freeCtr := rfl

/-! ## modSlot -/

@[simp] theorem modSlot_pending (s : State) (j : Nat) (f : JobSlot → JobSlot) : (modSlot s j f).pending = s.pending := rfl
@[simp] theorem modSlot_life (s : State) (j : Nat) (f : JobSlot → JobSlot) : (modSlot s j f).life = s.life := rfl
@[simp] theorem modSlot_dies (s : State) (j : Nat) (f : JobSlot → JobSlot) : (modSlot s j f).dies = s.dies := rfl
@[simp] theorem modSlot_links (s : State) (j : Nat) (f : JobSlot → JobSlot) : (modSlot s j f).links = s.links := rfl
@[simp] theorem modSlot_cores (s : State) (j : Nat) (f : JobSlot → JobSlot) : (modSlot s j f).cores = s.cores := rfl
@[simp] theorem modSlot_ccs (s : State) (j : Nat) (f : JobSlot → JobSlot) : (modSlot s j f).ccs = s.ccs := rfl
@[simp] theorem modSlot_mem (s : State) (j : Nat) (f : JobSlot → JobSlot) : (modSlot s j f).mem = s.mem := rfl
@[simp] theorem modSlot_homes (s : State) (j : Nat) (f : JobSlot → JobSlot) : (modSlot s j f).homes = s.homes := rfl
@[simp] theorem modSlot_hbm (s : State) (j : Nat) (f : JobSlot → JobSlot) : (modSlot s j f).hbm = s.hbm := rfl
@[simp] theorem modSlot_xlat (s : State) (j : Nat) (f : JobSlot → JobSlot) : (modSlot s j f).xlat = s.xlat := rfl
@[simp] theorem modSlot_fabric (s : State) (j : Nat) (f : JobSlot → JobSlot) : (modSlot s j f).fabric = s.fabric := rfl
@[simp] theorem modSlot_disp (s : State) (j : Nat) (f : JobSlot → JobSlot) : (modSlot s j f).disp = s.disp := rfl
@[simp] theorem modSlot_power (s : State) (j : Nat) (f : JobSlot → JobSlot) : (modSlot s j f).power = s.power := rfl
@[simp] theorem modSlot_sec (s : State) (j : Nat) (f : JobSlot → JobSlot) : (modSlot s j f).sec = s.sec := rfl
@[simp] theorem modSlot_obs (s : State) (j : Nat) (f : JobSlot → JobSlot) : (modSlot s j f).obs = s.obs := rfl
@[simp] theorem modSlot_pcie (s : State) (j : Nat) (f : JobSlot → JobSlot) : (modSlot s j f).pcie = s.pcie := rfl
@[simp] theorem modSlot_i3cEid (s : State) (j : Nat) (f : JobSlot → JobSlot) : (modSlot s j f).i3cEid = s.i3cEid := rfl
@[simp] theorem modSlot_i3cAddr (s : State) (j : Nat) (f : JobSlot → JobSlot) : (modSlot s j f).i3cAddr = s.i3cAddr := rfl
@[simp] theorem modSlot_defRm (s : State) (j : Nat) (f : JobSlot → JobSlot) : (modSlot s j f).defRm = s.defRm := rfl
@[simp] theorem modSlot_defOvf (s : State) (j : Nat) (f : JobSlot → JobSlot) : (modSlot s j f).defOvf = s.defOvf := rfl
@[simp] theorem modSlot_thermTrip (s : State) (j : Nat) (f : JobSlot → JobSlot) : (modSlot s j f).thermTrip = s.thermTrip := rfl
@[simp] theorem modSlot_outbox (s : State) (j : Nat) (f : JobSlot → JobSlot) : (modSlot s j f).outbox = s.outbox := rfl
@[simp] theorem modSlot_freeCtr (s : State) (j : Nat) (f : JobSlot → JobSlot) : (modSlot s j f).freeCtr = s.freeCtr := rfl

/-! ## setLine -/

@[simp] theorem setLine_pending (s : State) (l : Nat) (v : Line) : (setLine s l v).pending = s.pending := rfl
@[simp] theorem setLine_life (s : State) (l : Nat) (v : Line) : (setLine s l v).life = s.life := rfl
@[simp] theorem setLine_dies (s : State) (l : Nat) (v : Line) : (setLine s l v).dies = s.dies := rfl
@[simp] theorem setLine_links (s : State) (l : Nat) (v : Line) : (setLine s l v).links = s.links := rfl
@[simp] theorem setLine_cores (s : State) (l : Nat) (v : Line) : (setLine s l v).cores = s.cores := rfl
@[simp] theorem setLine_ccs (s : State) (l : Nat) (v : Line) : (setLine s l v).ccs = s.ccs := rfl
@[simp] theorem setLine_mem (s : State) (l : Nat) (v : Line) : (setLine s l v).mem = s.mem := rfl
@[simp] theorem setLine_hbm (s : State) (l : Nat) (v : Line) : (setLine s l v).hbm = s.hbm := rfl
@[simp] theorem setLine_xlat (s : State) (l : Nat) (v : Line) : (setLine s l v).xlat = s.xlat := rfl
@[simp] theorem setLine_fabric (s : State) (l : Nat) (v : Line) : (setLine s l v).fabric = s.fabric := rfl
@[simp] theorem setLine_epochs (s : State) (l : Nat) (v : Line) : (setLine s l v).epochs = s.epochs := rfl
@[simp] theorem setLine_disp (s : State) (l : Nat) (v : Line) : (setLine s l v).disp = s.disp := rfl
@[simp] theorem setLine_power (s : State) (l : Nat) (v : Line) : (setLine s l v).power = s.power := rfl
@[simp] theorem setLine_sec (s : State) (l : Nat) (v : Line) : (setLine s l v).sec = s.sec := rfl
@[simp] theorem setLine_obs (s : State) (l : Nat) (v : Line) : (setLine s l v).obs = s.obs := rfl
@[simp] theorem setLine_pcie (s : State) (l : Nat) (v : Line) : (setLine s l v).pcie = s.pcie := rfl
@[simp] theorem setLine_i3cEid (s : State) (l : Nat) (v : Line) : (setLine s l v).i3cEid = s.i3cEid := rfl
@[simp] theorem setLine_i3cAddr (s : State) (l : Nat) (v : Line) : (setLine s l v).i3cAddr = s.i3cAddr := rfl
@[simp] theorem setLine_defRm (s : State) (l : Nat) (v : Line) : (setLine s l v).defRm = s.defRm := rfl
@[simp] theorem setLine_defOvf (s : State) (l : Nat) (v : Line) : (setLine s l v).defOvf = s.defOvf := rfl
@[simp] theorem setLine_thermTrip (s : State) (l : Nat) (v : Line) : (setLine s l v).thermTrip = s.thermTrip := rfl
@[simp] theorem setLine_outbox (s : State) (l : Nat) (v : Line) : (setLine s l v).outbox = s.outbox := rfl
@[simp] theorem setLine_freeCtr (s : State) (l : Nat) (v : Line) : (setLine s l v).freeCtr = s.freeCtr := rfl

/-! ## modLine -/

@[simp] theorem modLine_pending (s : State) (l : Nat) (f : Line → Line) : (modLine s l f).pending = s.pending := rfl
@[simp] theorem modLine_life (s : State) (l : Nat) (f : Line → Line) : (modLine s l f).life = s.life := rfl
@[simp] theorem modLine_dies (s : State) (l : Nat) (f : Line → Line) : (modLine s l f).dies = s.dies := rfl
@[simp] theorem modLine_links (s : State) (l : Nat) (f : Line → Line) : (modLine s l f).links = s.links := rfl
@[simp] theorem modLine_cores (s : State) (l : Nat) (f : Line → Line) : (modLine s l f).cores = s.cores := rfl
@[simp] theorem modLine_ccs (s : State) (l : Nat) (f : Line → Line) : (modLine s l f).ccs = s.ccs := rfl
@[simp] theorem modLine_mem (s : State) (l : Nat) (f : Line → Line) : (modLine s l f).mem = s.mem := rfl
@[simp] theorem modLine_hbm (s : State) (l : Nat) (f : Line → Line) : (modLine s l f).hbm = s.hbm := rfl
@[simp] theorem modLine_xlat (s : State) (l : Nat) (f : Line → Line) : (modLine s l f).xlat = s.xlat := rfl
@[simp] theorem modLine_fabric (s : State) (l : Nat) (f : Line → Line) : (modLine s l f).fabric = s.fabric := rfl
@[simp] theorem modLine_epochs (s : State) (l : Nat) (f : Line → Line) : (modLine s l f).epochs = s.epochs := rfl
@[simp] theorem modLine_disp (s : State) (l : Nat) (f : Line → Line) : (modLine s l f).disp = s.disp := rfl
@[simp] theorem modLine_power (s : State) (l : Nat) (f : Line → Line) : (modLine s l f).power = s.power := rfl
@[simp] theorem modLine_sec (s : State) (l : Nat) (f : Line → Line) : (modLine s l f).sec = s.sec := rfl
@[simp] theorem modLine_obs (s : State) (l : Nat) (f : Line → Line) : (modLine s l f).obs = s.obs := rfl
@[simp] theorem modLine_pcie (s : State) (l : Nat) (f : Line → Line) : (modLine s l f).pcie = s.pcie := rfl
@[simp] theorem modLine_i3cEid (s : State) (l : Nat) (f : Line → Line) : (modLine s l f).i3cEid = s.i3cEid := rfl
@[simp] theorem modLine_i3cAddr (s : State) (l : Nat) (f : Line → Line) : (modLine s l f).i3cAddr = s.i3cAddr := rfl
@[simp] theorem modLine_defRm (s : State) (l : Nat) (f : Line → Line) : (modLine s l f).defRm = s.defRm := rfl
@[simp] theorem modLine_defOvf (s : State) (l : Nat) (f : Line → Line) : (modLine s l f).defOvf = s.defOvf := rfl
@[simp] theorem modLine_thermTrip (s : State) (l : Nat) (f : Line → Line) : (modLine s l f).thermTrip = s.thermTrip := rfl
@[simp] theorem modLine_outbox (s : State) (l : Nat) (f : Line → Line) : (modLine s l f).outbox = s.outbox := rfl
@[simp] theorem modLine_freeCtr (s : State) (l : Nat) (f : Line → Line) : (modLine s l f).freeCtr = s.freeCtr := rfl

/-! ## modStack -/

@[simp] theorem modStack_pending (s : State) (k : Nat) (f : Stack → Stack) : (modStack s k f).pending = s.pending := rfl
@[simp] theorem modStack_life (s : State) (k : Nat) (f : Stack → Stack) : (modStack s k f).life = s.life := rfl
@[simp] theorem modStack_dies (s : State) (k : Nat) (f : Stack → Stack) : (modStack s k f).dies = s.dies := rfl
@[simp] theorem modStack_links (s : State) (k : Nat) (f : Stack → Stack) : (modStack s k f).links = s.links := rfl
@[simp] theorem modStack_cores (s : State) (k : Nat) (f : Stack → Stack) : (modStack s k f).cores = s.cores := rfl
@[simp] theorem modStack_ccs (s : State) (k : Nat) (f : Stack → Stack) : (modStack s k f).ccs = s.ccs := rfl
@[simp] theorem modStack_mem (s : State) (k : Nat) (f : Stack → Stack) : (modStack s k f).mem = s.mem := rfl
@[simp] theorem modStack_homes (s : State) (k : Nat) (f : Stack → Stack) : (modStack s k f).homes = s.homes := rfl
@[simp] theorem modStack_xlat (s : State) (k : Nat) (f : Stack → Stack) : (modStack s k f).xlat = s.xlat := rfl
@[simp] theorem modStack_fabric (s : State) (k : Nat) (f : Stack → Stack) : (modStack s k f).fabric = s.fabric := rfl
@[simp] theorem modStack_epochs (s : State) (k : Nat) (f : Stack → Stack) : (modStack s k f).epochs = s.epochs := rfl
@[simp] theorem modStack_disp (s : State) (k : Nat) (f : Stack → Stack) : (modStack s k f).disp = s.disp := rfl
@[simp] theorem modStack_power (s : State) (k : Nat) (f : Stack → Stack) : (modStack s k f).power = s.power := rfl
@[simp] theorem modStack_sec (s : State) (k : Nat) (f : Stack → Stack) : (modStack s k f).sec = s.sec := rfl
@[simp] theorem modStack_obs (s : State) (k : Nat) (f : Stack → Stack) : (modStack s k f).obs = s.obs := rfl
@[simp] theorem modStack_pcie (s : State) (k : Nat) (f : Stack → Stack) : (modStack s k f).pcie = s.pcie := rfl
@[simp] theorem modStack_i3cEid (s : State) (k : Nat) (f : Stack → Stack) : (modStack s k f).i3cEid = s.i3cEid := rfl
@[simp] theorem modStack_i3cAddr (s : State) (k : Nat) (f : Stack → Stack) : (modStack s k f).i3cAddr = s.i3cAddr := rfl
@[simp] theorem modStack_defRm (s : State) (k : Nat) (f : Stack → Stack) : (modStack s k f).defRm = s.defRm := rfl
@[simp] theorem modStack_defOvf (s : State) (k : Nat) (f : Stack → Stack) : (modStack s k f).defOvf = s.defOvf := rfl
@[simp] theorem modStack_thermTrip (s : State) (k : Nat) (f : Stack → Stack) : (modStack s k f).thermTrip = s.thermTrip := rfl
@[simp] theorem modStack_outbox (s : State) (k : Nat) (f : Stack → Stack) : (modStack s k f).outbox = s.outbox := rfl
@[simp] theorem modStack_freeCtr (s : State) (k : Nat) (f : Stack → Stack) : (modStack s k f).freeCtr = s.freeCtr := rfl

/-! ## modRail -/

@[simp] theorem modRail_pending (s : State) (r : Nat) (f : Rail → Rail) : (modRail s r f).pending = s.pending := rfl
@[simp] theorem modRail_life (s : State) (r : Nat) (f : Rail → Rail) : (modRail s r f).life = s.life := rfl
@[simp] theorem modRail_dies (s : State) (r : Nat) (f : Rail → Rail) : (modRail s r f).dies = s.dies := rfl
@[simp] theorem modRail_links (s : State) (r : Nat) (f : Rail → Rail) : (modRail s r f).links = s.links := rfl
@[simp] theorem modRail_cores (s : State) (r : Nat) (f : Rail → Rail) : (modRail s r f).cores = s.cores := rfl
@[simp] theorem modRail_ccs (s : State) (r : Nat) (f : Rail → Rail) : (modRail s r f).ccs = s.ccs := rfl
@[simp] theorem modRail_mem (s : State) (r : Nat) (f : Rail → Rail) : (modRail s r f).mem = s.mem := rfl
@[simp] theorem modRail_homes (s : State) (r : Nat) (f : Rail → Rail) : (modRail s r f).homes = s.homes := rfl
@[simp] theorem modRail_hbm (s : State) (r : Nat) (f : Rail → Rail) : (modRail s r f).hbm = s.hbm := rfl
@[simp] theorem modRail_xlat (s : State) (r : Nat) (f : Rail → Rail) : (modRail s r f).xlat = s.xlat := rfl
@[simp] theorem modRail_fabric (s : State) (r : Nat) (f : Rail → Rail) : (modRail s r f).fabric = s.fabric := rfl
@[simp] theorem modRail_epochs (s : State) (r : Nat) (f : Rail → Rail) : (modRail s r f).epochs = s.epochs := rfl
@[simp] theorem modRail_disp (s : State) (r : Nat) (f : Rail → Rail) : (modRail s r f).disp = s.disp := rfl
@[simp] theorem modRail_sec (s : State) (r : Nat) (f : Rail → Rail) : (modRail s r f).sec = s.sec := rfl
@[simp] theorem modRail_obs (s : State) (r : Nat) (f : Rail → Rail) : (modRail s r f).obs = s.obs := rfl
@[simp] theorem modRail_pcie (s : State) (r : Nat) (f : Rail → Rail) : (modRail s r f).pcie = s.pcie := rfl
@[simp] theorem modRail_i3cEid (s : State) (r : Nat) (f : Rail → Rail) : (modRail s r f).i3cEid = s.i3cEid := rfl
@[simp] theorem modRail_i3cAddr (s : State) (r : Nat) (f : Rail → Rail) : (modRail s r f).i3cAddr = s.i3cAddr := rfl
@[simp] theorem modRail_defRm (s : State) (r : Nat) (f : Rail → Rail) : (modRail s r f).defRm = s.defRm := rfl
@[simp] theorem modRail_defOvf (s : State) (r : Nat) (f : Rail → Rail) : (modRail s r f).defOvf = s.defOvf := rfl
@[simp] theorem modRail_thermTrip (s : State) (r : Nat) (f : Rail → Rail) : (modRail s r f).thermTrip = s.thermTrip := rfl
@[simp] theorem modRail_outbox (s : State) (r : Nat) (f : Rail → Rail) : (modRail s r f).outbox = s.outbox := rfl
@[simp] theorem modRail_freeCtr (s : State) (r : Nat) (f : Rail → Rail) : (modRail s r f).freeCtr = s.freeCtr := rfl

/-! ## modRing -/

@[simp] theorem modRing_pending (s : State) (p : Nat) (f : FaultRing → FaultRing) : (modRing s p f).pending = s.pending := rfl
@[simp] theorem modRing_life (s : State) (p : Nat) (f : FaultRing → FaultRing) : (modRing s p f).life = s.life := rfl
@[simp] theorem modRing_dies (s : State) (p : Nat) (f : FaultRing → FaultRing) : (modRing s p f).dies = s.dies := rfl
@[simp] theorem modRing_links (s : State) (p : Nat) (f : FaultRing → FaultRing) : (modRing s p f).links = s.links := rfl
@[simp] theorem modRing_cores (s : State) (p : Nat) (f : FaultRing → FaultRing) : (modRing s p f).cores = s.cores := rfl
@[simp] theorem modRing_ccs (s : State) (p : Nat) (f : FaultRing → FaultRing) : (modRing s p f).ccs = s.ccs := rfl
@[simp] theorem modRing_mem (s : State) (p : Nat) (f : FaultRing → FaultRing) : (modRing s p f).mem = s.mem := rfl
@[simp] theorem modRing_homes (s : State) (p : Nat) (f : FaultRing → FaultRing) : (modRing s p f).homes = s.homes := rfl
@[simp] theorem modRing_hbm (s : State) (p : Nat) (f : FaultRing → FaultRing) : (modRing s p f).hbm = s.hbm := rfl
@[simp] theorem modRing_fabric (s : State) (p : Nat) (f : FaultRing → FaultRing) : (modRing s p f).fabric = s.fabric := rfl
@[simp] theorem modRing_epochs (s : State) (p : Nat) (f : FaultRing → FaultRing) : (modRing s p f).epochs = s.epochs := rfl
@[simp] theorem modRing_disp (s : State) (p : Nat) (f : FaultRing → FaultRing) : (modRing s p f).disp = s.disp := rfl
@[simp] theorem modRing_power (s : State) (p : Nat) (f : FaultRing → FaultRing) : (modRing s p f).power = s.power := rfl
@[simp] theorem modRing_sec (s : State) (p : Nat) (f : FaultRing → FaultRing) : (modRing s p f).sec = s.sec := rfl
@[simp] theorem modRing_obs (s : State) (p : Nat) (f : FaultRing → FaultRing) : (modRing s p f).obs = s.obs := rfl
@[simp] theorem modRing_pcie (s : State) (p : Nat) (f : FaultRing → FaultRing) : (modRing s p f).pcie = s.pcie := rfl
@[simp] theorem modRing_i3cEid (s : State) (p : Nat) (f : FaultRing → FaultRing) : (modRing s p f).i3cEid = s.i3cEid := rfl
@[simp] theorem modRing_i3cAddr (s : State) (p : Nat) (f : FaultRing → FaultRing) : (modRing s p f).i3cAddr = s.i3cAddr := rfl
@[simp] theorem modRing_defRm (s : State) (p : Nat) (f : FaultRing → FaultRing) : (modRing s p f).defRm = s.defRm := rfl
@[simp] theorem modRing_defOvf (s : State) (p : Nat) (f : FaultRing → FaultRing) : (modRing s p f).defOvf = s.defOvf := rfl
@[simp] theorem modRing_thermTrip (s : State) (p : Nat) (f : FaultRing → FaultRing) : (modRing s p f).thermTrip = s.thermTrip := rfl
@[simp] theorem modRing_outbox (s : State) (p : Nat) (f : FaultRing → FaultRing) : (modRing s p f).outbox = s.outbox := rfl
@[simp] theorem modRing_freeCtr (s : State) (p : Nat) (f : FaultRing → FaultRing) : (modRing s p f).freeCtr = s.freeCtr := rfl

/-! ## modHomes -/

@[simp] theorem modHomes_pending (s : State) (f : Homes → Homes) : (modHomes s f).pending = s.pending := rfl
@[simp] theorem modHomes_life (s : State) (f : Homes → Homes) : (modHomes s f).life = s.life := rfl
@[simp] theorem modHomes_dies (s : State) (f : Homes → Homes) : (modHomes s f).dies = s.dies := rfl
@[simp] theorem modHomes_links (s : State) (f : Homes → Homes) : (modHomes s f).links = s.links := rfl
@[simp] theorem modHomes_cores (s : State) (f : Homes → Homes) : (modHomes s f).cores = s.cores := rfl
@[simp] theorem modHomes_ccs (s : State) (f : Homes → Homes) : (modHomes s f).ccs = s.ccs := rfl
@[simp] theorem modHomes_mem (s : State) (f : Homes → Homes) : (modHomes s f).mem = s.mem := rfl
@[simp] theorem modHomes_hbm (s : State) (f : Homes → Homes) : (modHomes s f).hbm = s.hbm := rfl
@[simp] theorem modHomes_xlat (s : State) (f : Homes → Homes) : (modHomes s f).xlat = s.xlat := rfl
@[simp] theorem modHomes_fabric (s : State) (f : Homes → Homes) : (modHomes s f).fabric = s.fabric := rfl
@[simp] theorem modHomes_epochs (s : State) (f : Homes → Homes) : (modHomes s f).epochs = s.epochs := rfl
@[simp] theorem modHomes_disp (s : State) (f : Homes → Homes) : (modHomes s f).disp = s.disp := rfl
@[simp] theorem modHomes_power (s : State) (f : Homes → Homes) : (modHomes s f).power = s.power := rfl
@[simp] theorem modHomes_sec (s : State) (f : Homes → Homes) : (modHomes s f).sec = s.sec := rfl
@[simp] theorem modHomes_obs (s : State) (f : Homes → Homes) : (modHomes s f).obs = s.obs := rfl
@[simp] theorem modHomes_pcie (s : State) (f : Homes → Homes) : (modHomes s f).pcie = s.pcie := rfl
@[simp] theorem modHomes_i3cEid (s : State) (f : Homes → Homes) : (modHomes s f).i3cEid = s.i3cEid := rfl
@[simp] theorem modHomes_i3cAddr (s : State) (f : Homes → Homes) : (modHomes s f).i3cAddr = s.i3cAddr := rfl
@[simp] theorem modHomes_defRm (s : State) (f : Homes → Homes) : (modHomes s f).defRm = s.defRm := rfl
@[simp] theorem modHomes_defOvf (s : State) (f : Homes → Homes) : (modHomes s f).defOvf = s.defOvf := rfl
@[simp] theorem modHomes_thermTrip (s : State) (f : Homes → Homes) : (modHomes s f).thermTrip = s.thermTrip := rfl
@[simp] theorem modHomes_outbox (s : State) (f : Homes → Homes) : (modHomes s f).outbox = s.outbox := rfl
@[simp] theorem modHomes_freeCtr (s : State) (f : Homes → Homes) : (modHomes s f).freeCtr = s.freeCtr := rfl

/-! ## modHbm -/

@[simp] theorem modHbm_pending (s : State) (f : Hbm → Hbm) : (modHbm s f).pending = s.pending := rfl
@[simp] theorem modHbm_life (s : State) (f : Hbm → Hbm) : (modHbm s f).life = s.life := rfl
@[simp] theorem modHbm_dies (s : State) (f : Hbm → Hbm) : (modHbm s f).dies = s.dies := rfl
@[simp] theorem modHbm_links (s : State) (f : Hbm → Hbm) : (modHbm s f).links = s.links := rfl
@[simp] theorem modHbm_cores (s : State) (f : Hbm → Hbm) : (modHbm s f).cores = s.cores := rfl
@[simp] theorem modHbm_ccs (s : State) (f : Hbm → Hbm) : (modHbm s f).ccs = s.ccs := rfl
@[simp] theorem modHbm_mem (s : State) (f : Hbm → Hbm) : (modHbm s f).mem = s.mem := rfl
@[simp] theorem modHbm_homes (s : State) (f : Hbm → Hbm) : (modHbm s f).homes = s.homes := rfl
@[simp] theorem modHbm_xlat (s : State) (f : Hbm → Hbm) : (modHbm s f).xlat = s.xlat := rfl
@[simp] theorem modHbm_fabric (s : State) (f : Hbm → Hbm) : (modHbm s f).fabric = s.fabric := rfl
@[simp] theorem modHbm_epochs (s : State) (f : Hbm → Hbm) : (modHbm s f).epochs = s.epochs := rfl
@[simp] theorem modHbm_disp (s : State) (f : Hbm → Hbm) : (modHbm s f).disp = s.disp := rfl
@[simp] theorem modHbm_power (s : State) (f : Hbm → Hbm) : (modHbm s f).power = s.power := rfl
@[simp] theorem modHbm_sec (s : State) (f : Hbm → Hbm) : (modHbm s f).sec = s.sec := rfl
@[simp] theorem modHbm_obs (s : State) (f : Hbm → Hbm) : (modHbm s f).obs = s.obs := rfl
@[simp] theorem modHbm_pcie (s : State) (f : Hbm → Hbm) : (modHbm s f).pcie = s.pcie := rfl
@[simp] theorem modHbm_i3cEid (s : State) (f : Hbm → Hbm) : (modHbm s f).i3cEid = s.i3cEid := rfl
@[simp] theorem modHbm_i3cAddr (s : State) (f : Hbm → Hbm) : (modHbm s f).i3cAddr = s.i3cAddr := rfl
@[simp] theorem modHbm_defRm (s : State) (f : Hbm → Hbm) : (modHbm s f).defRm = s.defRm := rfl
@[simp] theorem modHbm_defOvf (s : State) (f : Hbm → Hbm) : (modHbm s f).defOvf = s.defOvf := rfl
@[simp] theorem modHbm_thermTrip (s : State) (f : Hbm → Hbm) : (modHbm s f).thermTrip = s.thermTrip := rfl
@[simp] theorem modHbm_outbox (s : State) (f : Hbm → Hbm) : (modHbm s f).outbox = s.outbox := rfl
@[simp] theorem modHbm_freeCtr (s : State) (f : Hbm → Hbm) : (modHbm s f).freeCtr = s.freeCtr := rfl

/-! ## modXlat -/

@[simp] theorem modXlat_pending (s : State) (f : Xlat → Xlat) : (modXlat s f).pending = s.pending := rfl
@[simp] theorem modXlat_life (s : State) (f : Xlat → Xlat) : (modXlat s f).life = s.life := rfl
@[simp] theorem modXlat_dies (s : State) (f : Xlat → Xlat) : (modXlat s f).dies = s.dies := rfl
@[simp] theorem modXlat_links (s : State) (f : Xlat → Xlat) : (modXlat s f).links = s.links := rfl
@[simp] theorem modXlat_cores (s : State) (f : Xlat → Xlat) : (modXlat s f).cores = s.cores := rfl
@[simp] theorem modXlat_ccs (s : State) (f : Xlat → Xlat) : (modXlat s f).ccs = s.ccs := rfl
@[simp] theorem modXlat_mem (s : State) (f : Xlat → Xlat) : (modXlat s f).mem = s.mem := rfl
@[simp] theorem modXlat_homes (s : State) (f : Xlat → Xlat) : (modXlat s f).homes = s.homes := rfl
@[simp] theorem modXlat_hbm (s : State) (f : Xlat → Xlat) : (modXlat s f).hbm = s.hbm := rfl
@[simp] theorem modXlat_fabric (s : State) (f : Xlat → Xlat) : (modXlat s f).fabric = s.fabric := rfl
@[simp] theorem modXlat_epochs (s : State) (f : Xlat → Xlat) : (modXlat s f).epochs = s.epochs := rfl
@[simp] theorem modXlat_disp (s : State) (f : Xlat → Xlat) : (modXlat s f).disp = s.disp := rfl
@[simp] theorem modXlat_power (s : State) (f : Xlat → Xlat) : (modXlat s f).power = s.power := rfl
@[simp] theorem modXlat_sec (s : State) (f : Xlat → Xlat) : (modXlat s f).sec = s.sec := rfl
@[simp] theorem modXlat_obs (s : State) (f : Xlat → Xlat) : (modXlat s f).obs = s.obs := rfl
@[simp] theorem modXlat_pcie (s : State) (f : Xlat → Xlat) : (modXlat s f).pcie = s.pcie := rfl
@[simp] theorem modXlat_i3cEid (s : State) (f : Xlat → Xlat) : (modXlat s f).i3cEid = s.i3cEid := rfl
@[simp] theorem modXlat_i3cAddr (s : State) (f : Xlat → Xlat) : (modXlat s f).i3cAddr = s.i3cAddr := rfl
@[simp] theorem modXlat_defRm (s : State) (f : Xlat → Xlat) : (modXlat s f).defRm = s.defRm := rfl
@[simp] theorem modXlat_defOvf (s : State) (f : Xlat → Xlat) : (modXlat s f).defOvf = s.defOvf := rfl
@[simp] theorem modXlat_thermTrip (s : State) (f : Xlat → Xlat) : (modXlat s f).thermTrip = s.thermTrip := rfl
@[simp] theorem modXlat_outbox (s : State) (f : Xlat → Xlat) : (modXlat s f).outbox = s.outbox := rfl
@[simp] theorem modXlat_freeCtr (s : State) (f : Xlat → Xlat) : (modXlat s f).freeCtr = s.freeCtr := rfl

/-! ## modFabric -/

@[simp] theorem modFabric_pending (s : State) (f : Fabric → Fabric) : (modFabric s f).pending = s.pending := rfl
@[simp] theorem modFabric_life (s : State) (f : Fabric → Fabric) : (modFabric s f).life = s.life := rfl
@[simp] theorem modFabric_dies (s : State) (f : Fabric → Fabric) : (modFabric s f).dies = s.dies := rfl
@[simp] theorem modFabric_links (s : State) (f : Fabric → Fabric) : (modFabric s f).links = s.links := rfl
@[simp] theorem modFabric_cores (s : State) (f : Fabric → Fabric) : (modFabric s f).cores = s.cores := rfl
@[simp] theorem modFabric_ccs (s : State) (f : Fabric → Fabric) : (modFabric s f).ccs = s.ccs := rfl
@[simp] theorem modFabric_mem (s : State) (f : Fabric → Fabric) : (modFabric s f).mem = s.mem := rfl
@[simp] theorem modFabric_homes (s : State) (f : Fabric → Fabric) : (modFabric s f).homes = s.homes := rfl
@[simp] theorem modFabric_hbm (s : State) (f : Fabric → Fabric) : (modFabric s f).hbm = s.hbm := rfl
@[simp] theorem modFabric_xlat (s : State) (f : Fabric → Fabric) : (modFabric s f).xlat = s.xlat := rfl
@[simp] theorem modFabric_epochs (s : State) (f : Fabric → Fabric) : (modFabric s f).epochs = s.epochs := rfl
@[simp] theorem modFabric_disp (s : State) (f : Fabric → Fabric) : (modFabric s f).disp = s.disp := rfl
@[simp] theorem modFabric_power (s : State) (f : Fabric → Fabric) : (modFabric s f).power = s.power := rfl
@[simp] theorem modFabric_sec (s : State) (f : Fabric → Fabric) : (modFabric s f).sec = s.sec := rfl
@[simp] theorem modFabric_obs (s : State) (f : Fabric → Fabric) : (modFabric s f).obs = s.obs := rfl
@[simp] theorem modFabric_pcie (s : State) (f : Fabric → Fabric) : (modFabric s f).pcie = s.pcie := rfl
@[simp] theorem modFabric_i3cEid (s : State) (f : Fabric → Fabric) : (modFabric s f).i3cEid = s.i3cEid := rfl
@[simp] theorem modFabric_i3cAddr (s : State) (f : Fabric → Fabric) : (modFabric s f).i3cAddr = s.i3cAddr := rfl
@[simp] theorem modFabric_defRm (s : State) (f : Fabric → Fabric) : (modFabric s f).defRm = s.defRm := rfl
@[simp] theorem modFabric_defOvf (s : State) (f : Fabric → Fabric) : (modFabric s f).defOvf = s.defOvf := rfl
@[simp] theorem modFabric_thermTrip (s : State) (f : Fabric → Fabric) : (modFabric s f).thermTrip = s.thermTrip := rfl
@[simp] theorem modFabric_outbox (s : State) (f : Fabric → Fabric) : (modFabric s f).outbox = s.outbox := rfl
@[simp] theorem modFabric_freeCtr (s : State) (f : Fabric → Fabric) : (modFabric s f).freeCtr = s.freeCtr := rfl

/-! ## modEpochs -/

@[simp] theorem modEpochs_pending (s : State) (f : Epochs → Epochs) : (modEpochs s f).pending = s.pending := rfl
@[simp] theorem modEpochs_life (s : State) (f : Epochs → Epochs) : (modEpochs s f).life = s.life := rfl
@[simp] theorem modEpochs_dies (s : State) (f : Epochs → Epochs) : (modEpochs s f).dies = s.dies := rfl
@[simp] theorem modEpochs_links (s : State) (f : Epochs → Epochs) : (modEpochs s f).links = s.links := rfl
@[simp] theorem modEpochs_cores (s : State) (f : Epochs → Epochs) : (modEpochs s f).cores = s.cores := rfl
@[simp] theorem modEpochs_ccs (s : State) (f : Epochs → Epochs) : (modEpochs s f).ccs = s.ccs := rfl
@[simp] theorem modEpochs_mem (s : State) (f : Epochs → Epochs) : (modEpochs s f).mem = s.mem := rfl
@[simp] theorem modEpochs_homes (s : State) (f : Epochs → Epochs) : (modEpochs s f).homes = s.homes := rfl
@[simp] theorem modEpochs_hbm (s : State) (f : Epochs → Epochs) : (modEpochs s f).hbm = s.hbm := rfl
@[simp] theorem modEpochs_xlat (s : State) (f : Epochs → Epochs) : (modEpochs s f).xlat = s.xlat := rfl
@[simp] theorem modEpochs_fabric (s : State) (f : Epochs → Epochs) : (modEpochs s f).fabric = s.fabric := rfl
@[simp] theorem modEpochs_disp (s : State) (f : Epochs → Epochs) : (modEpochs s f).disp = s.disp := rfl
@[simp] theorem modEpochs_power (s : State) (f : Epochs → Epochs) : (modEpochs s f).power = s.power := rfl
@[simp] theorem modEpochs_sec (s : State) (f : Epochs → Epochs) : (modEpochs s f).sec = s.sec := rfl
@[simp] theorem modEpochs_obs (s : State) (f : Epochs → Epochs) : (modEpochs s f).obs = s.obs := rfl
@[simp] theorem modEpochs_pcie (s : State) (f : Epochs → Epochs) : (modEpochs s f).pcie = s.pcie := rfl
@[simp] theorem modEpochs_i3cEid (s : State) (f : Epochs → Epochs) : (modEpochs s f).i3cEid = s.i3cEid := rfl
@[simp] theorem modEpochs_i3cAddr (s : State) (f : Epochs → Epochs) : (modEpochs s f).i3cAddr = s.i3cAddr := rfl
@[simp] theorem modEpochs_defRm (s : State) (f : Epochs → Epochs) : (modEpochs s f).defRm = s.defRm := rfl
@[simp] theorem modEpochs_defOvf (s : State) (f : Epochs → Epochs) : (modEpochs s f).defOvf = s.defOvf := rfl
@[simp] theorem modEpochs_thermTrip (s : State) (f : Epochs → Epochs) : (modEpochs s f).thermTrip = s.thermTrip := rfl
@[simp] theorem modEpochs_outbox (s : State) (f : Epochs → Epochs) : (modEpochs s f).outbox = s.outbox := rfl
@[simp] theorem modEpochs_freeCtr (s : State) (f : Epochs → Epochs) : (modEpochs s f).freeCtr = s.freeCtr := rfl

/-! ## modDisp -/

@[simp] theorem modDisp_pending (s : State) (f : Disp → Disp) : (modDisp s f).pending = s.pending := rfl
@[simp] theorem modDisp_life (s : State) (f : Disp → Disp) : (modDisp s f).life = s.life := rfl
@[simp] theorem modDisp_dies (s : State) (f : Disp → Disp) : (modDisp s f).dies = s.dies := rfl
@[simp] theorem modDisp_links (s : State) (f : Disp → Disp) : (modDisp s f).links = s.links := rfl
@[simp] theorem modDisp_cores (s : State) (f : Disp → Disp) : (modDisp s f).cores = s.cores := rfl
@[simp] theorem modDisp_ccs (s : State) (f : Disp → Disp) : (modDisp s f).ccs = s.ccs := rfl
@[simp] theorem modDisp_mem (s : State) (f : Disp → Disp) : (modDisp s f).mem = s.mem := rfl
@[simp] theorem modDisp_homes (s : State) (f : Disp → Disp) : (modDisp s f).homes = s.homes := rfl
@[simp] theorem modDisp_hbm (s : State) (f : Disp → Disp) : (modDisp s f).hbm = s.hbm := rfl
@[simp] theorem modDisp_xlat (s : State) (f : Disp → Disp) : (modDisp s f).xlat = s.xlat := rfl
@[simp] theorem modDisp_fabric (s : State) (f : Disp → Disp) : (modDisp s f).fabric = s.fabric := rfl
@[simp] theorem modDisp_epochs (s : State) (f : Disp → Disp) : (modDisp s f).epochs = s.epochs := rfl
@[simp] theorem modDisp_power (s : State) (f : Disp → Disp) : (modDisp s f).power = s.power := rfl
@[simp] theorem modDisp_sec (s : State) (f : Disp → Disp) : (modDisp s f).sec = s.sec := rfl
@[simp] theorem modDisp_obs (s : State) (f : Disp → Disp) : (modDisp s f).obs = s.obs := rfl
@[simp] theorem modDisp_pcie (s : State) (f : Disp → Disp) : (modDisp s f).pcie = s.pcie := rfl
@[simp] theorem modDisp_i3cEid (s : State) (f : Disp → Disp) : (modDisp s f).i3cEid = s.i3cEid := rfl
@[simp] theorem modDisp_i3cAddr (s : State) (f : Disp → Disp) : (modDisp s f).i3cAddr = s.i3cAddr := rfl
@[simp] theorem modDisp_defRm (s : State) (f : Disp → Disp) : (modDisp s f).defRm = s.defRm := rfl
@[simp] theorem modDisp_defOvf (s : State) (f : Disp → Disp) : (modDisp s f).defOvf = s.defOvf := rfl
@[simp] theorem modDisp_thermTrip (s : State) (f : Disp → Disp) : (modDisp s f).thermTrip = s.thermTrip := rfl
@[simp] theorem modDisp_outbox (s : State) (f : Disp → Disp) : (modDisp s f).outbox = s.outbox := rfl
@[simp] theorem modDisp_freeCtr (s : State) (f : Disp → Disp) : (modDisp s f).freeCtr = s.freeCtr := rfl

/-! ## modPower -/

@[simp] theorem modPower_pending (s : State) (f : Power → Power) : (modPower s f).pending = s.pending := rfl
@[simp] theorem modPower_life (s : State) (f : Power → Power) : (modPower s f).life = s.life := rfl
@[simp] theorem modPower_dies (s : State) (f : Power → Power) : (modPower s f).dies = s.dies := rfl
@[simp] theorem modPower_links (s : State) (f : Power → Power) : (modPower s f).links = s.links := rfl
@[simp] theorem modPower_cores (s : State) (f : Power → Power) : (modPower s f).cores = s.cores := rfl
@[simp] theorem modPower_ccs (s : State) (f : Power → Power) : (modPower s f).ccs = s.ccs := rfl
@[simp] theorem modPower_mem (s : State) (f : Power → Power) : (modPower s f).mem = s.mem := rfl
@[simp] theorem modPower_homes (s : State) (f : Power → Power) : (modPower s f).homes = s.homes := rfl
@[simp] theorem modPower_hbm (s : State) (f : Power → Power) : (modPower s f).hbm = s.hbm := rfl
@[simp] theorem modPower_xlat (s : State) (f : Power → Power) : (modPower s f).xlat = s.xlat := rfl
@[simp] theorem modPower_fabric (s : State) (f : Power → Power) : (modPower s f).fabric = s.fabric := rfl
@[simp] theorem modPower_epochs (s : State) (f : Power → Power) : (modPower s f).epochs = s.epochs := rfl
@[simp] theorem modPower_disp (s : State) (f : Power → Power) : (modPower s f).disp = s.disp := rfl
@[simp] theorem modPower_sec (s : State) (f : Power → Power) : (modPower s f).sec = s.sec := rfl
@[simp] theorem modPower_obs (s : State) (f : Power → Power) : (modPower s f).obs = s.obs := rfl
@[simp] theorem modPower_pcie (s : State) (f : Power → Power) : (modPower s f).pcie = s.pcie := rfl
@[simp] theorem modPower_i3cEid (s : State) (f : Power → Power) : (modPower s f).i3cEid = s.i3cEid := rfl
@[simp] theorem modPower_i3cAddr (s : State) (f : Power → Power) : (modPower s f).i3cAddr = s.i3cAddr := rfl
@[simp] theorem modPower_defRm (s : State) (f : Power → Power) : (modPower s f).defRm = s.defRm := rfl
@[simp] theorem modPower_defOvf (s : State) (f : Power → Power) : (modPower s f).defOvf = s.defOvf := rfl
@[simp] theorem modPower_thermTrip (s : State) (f : Power → Power) : (modPower s f).thermTrip = s.thermTrip := rfl
@[simp] theorem modPower_outbox (s : State) (f : Power → Power) : (modPower s f).outbox = s.outbox := rfl
@[simp] theorem modPower_freeCtr (s : State) (f : Power → Power) : (modPower s f).freeCtr = s.freeCtr := rfl

/-! ## modSec -/

@[simp] theorem modSec_pending (s : State) (f : Security → Security) : (modSec s f).pending = s.pending := rfl
@[simp] theorem modSec_life (s : State) (f : Security → Security) : (modSec s f).life = s.life := rfl
@[simp] theorem modSec_dies (s : State) (f : Security → Security) : (modSec s f).dies = s.dies := rfl
@[simp] theorem modSec_links (s : State) (f : Security → Security) : (modSec s f).links = s.links := rfl
@[simp] theorem modSec_cores (s : State) (f : Security → Security) : (modSec s f).cores = s.cores := rfl
@[simp] theorem modSec_ccs (s : State) (f : Security → Security) : (modSec s f).ccs = s.ccs := rfl
@[simp] theorem modSec_mem (s : State) (f : Security → Security) : (modSec s f).mem = s.mem := rfl
@[simp] theorem modSec_homes (s : State) (f : Security → Security) : (modSec s f).homes = s.homes := rfl
@[simp] theorem modSec_hbm (s : State) (f : Security → Security) : (modSec s f).hbm = s.hbm := rfl
@[simp] theorem modSec_xlat (s : State) (f : Security → Security) : (modSec s f).xlat = s.xlat := rfl
@[simp] theorem modSec_fabric (s : State) (f : Security → Security) : (modSec s f).fabric = s.fabric := rfl
@[simp] theorem modSec_epochs (s : State) (f : Security → Security) : (modSec s f).epochs = s.epochs := rfl
@[simp] theorem modSec_disp (s : State) (f : Security → Security) : (modSec s f).disp = s.disp := rfl
@[simp] theorem modSec_power (s : State) (f : Security → Security) : (modSec s f).power = s.power := rfl
@[simp] theorem modSec_obs (s : State) (f : Security → Security) : (modSec s f).obs = s.obs := rfl
@[simp] theorem modSec_pcie (s : State) (f : Security → Security) : (modSec s f).pcie = s.pcie := rfl
@[simp] theorem modSec_i3cEid (s : State) (f : Security → Security) : (modSec s f).i3cEid = s.i3cEid := rfl
@[simp] theorem modSec_i3cAddr (s : State) (f : Security → Security) : (modSec s f).i3cAddr = s.i3cAddr := rfl
@[simp] theorem modSec_defRm (s : State) (f : Security → Security) : (modSec s f).defRm = s.defRm := rfl
@[simp] theorem modSec_defOvf (s : State) (f : Security → Security) : (modSec s f).defOvf = s.defOvf := rfl
@[simp] theorem modSec_thermTrip (s : State) (f : Security → Security) : (modSec s f).thermTrip = s.thermTrip := rfl
@[simp] theorem modSec_outbox (s : State) (f : Security → Security) : (modSec s f).outbox = s.outbox := rfl
@[simp] theorem modSec_freeCtr (s : State) (f : Security → Security) : (modSec s f).freeCtr = s.freeCtr := rfl

/-! ## modObs -/

@[simp] theorem modObs_pending (s : State) (f : Observe → Observe) : (modObs s f).pending = s.pending := rfl
@[simp] theorem modObs_life (s : State) (f : Observe → Observe) : (modObs s f).life = s.life := rfl
@[simp] theorem modObs_dies (s : State) (f : Observe → Observe) : (modObs s f).dies = s.dies := rfl
@[simp] theorem modObs_links (s : State) (f : Observe → Observe) : (modObs s f).links = s.links := rfl
@[simp] theorem modObs_cores (s : State) (f : Observe → Observe) : (modObs s f).cores = s.cores := rfl
@[simp] theorem modObs_ccs (s : State) (f : Observe → Observe) : (modObs s f).ccs = s.ccs := rfl
@[simp] theorem modObs_mem (s : State) (f : Observe → Observe) : (modObs s f).mem = s.mem := rfl
@[simp] theorem modObs_homes (s : State) (f : Observe → Observe) : (modObs s f).homes = s.homes := rfl
@[simp] theorem modObs_hbm (s : State) (f : Observe → Observe) : (modObs s f).hbm = s.hbm := rfl
@[simp] theorem modObs_xlat (s : State) (f : Observe → Observe) : (modObs s f).xlat = s.xlat := rfl
@[simp] theorem modObs_fabric (s : State) (f : Observe → Observe) : (modObs s f).fabric = s.fabric := rfl
@[simp] theorem modObs_epochs (s : State) (f : Observe → Observe) : (modObs s f).epochs = s.epochs := rfl
@[simp] theorem modObs_disp (s : State) (f : Observe → Observe) : (modObs s f).disp = s.disp := rfl
@[simp] theorem modObs_power (s : State) (f : Observe → Observe) : (modObs s f).power = s.power := rfl
@[simp] theorem modObs_sec (s : State) (f : Observe → Observe) : (modObs s f).sec = s.sec := rfl
@[simp] theorem modObs_pcie (s : State) (f : Observe → Observe) : (modObs s f).pcie = s.pcie := rfl
@[simp] theorem modObs_i3cEid (s : State) (f : Observe → Observe) : (modObs s f).i3cEid = s.i3cEid := rfl
@[simp] theorem modObs_i3cAddr (s : State) (f : Observe → Observe) : (modObs s f).i3cAddr = s.i3cAddr := rfl
@[simp] theorem modObs_defRm (s : State) (f : Observe → Observe) : (modObs s f).defRm = s.defRm := rfl
@[simp] theorem modObs_defOvf (s : State) (f : Observe → Observe) : (modObs s f).defOvf = s.defOvf := rfl
@[simp] theorem modObs_thermTrip (s : State) (f : Observe → Observe) : (modObs s f).thermTrip = s.thermTrip := rfl
@[simp] theorem modObs_outbox (s : State) (f : Observe → Observe) : (modObs s f).outbox = s.outbox := rfl
@[simp] theorem modObs_freeCtr (s : State) (f : Observe → Observe) : (modObs s f).freeCtr = s.freeCtr := rfl

/-! ## emit -/

@[simp] theorem emit_pending (s : State) (o : Out) : (emit s o).pending = s.pending := rfl
@[simp] theorem emit_life (s : State) (o : Out) : (emit s o).life = s.life := rfl
@[simp] theorem emit_dies (s : State) (o : Out) : (emit s o).dies = s.dies := rfl
@[simp] theorem emit_links (s : State) (o : Out) : (emit s o).links = s.links := rfl
@[simp] theorem emit_cores (s : State) (o : Out) : (emit s o).cores = s.cores := rfl
@[simp] theorem emit_ccs (s : State) (o : Out) : (emit s o).ccs = s.ccs := rfl
@[simp] theorem emit_mem (s : State) (o : Out) : (emit s o).mem = s.mem := rfl
@[simp] theorem emit_homes (s : State) (o : Out) : (emit s o).homes = s.homes := rfl
@[simp] theorem emit_hbm (s : State) (o : Out) : (emit s o).hbm = s.hbm := rfl
@[simp] theorem emit_xlat (s : State) (o : Out) : (emit s o).xlat = s.xlat := rfl
@[simp] theorem emit_fabric (s : State) (o : Out) : (emit s o).fabric = s.fabric := rfl
@[simp] theorem emit_epochs (s : State) (o : Out) : (emit s o).epochs = s.epochs := rfl
@[simp] theorem emit_disp (s : State) (o : Out) : (emit s o).disp = s.disp := rfl
@[simp] theorem emit_power (s : State) (o : Out) : (emit s o).power = s.power := rfl
@[simp] theorem emit_sec (s : State) (o : Out) : (emit s o).sec = s.sec := rfl
@[simp] theorem emit_obs (s : State) (o : Out) : (emit s o).obs = s.obs := rfl
@[simp] theorem emit_pcie (s : State) (o : Out) : (emit s o).pcie = s.pcie := rfl
@[simp] theorem emit_i3cEid (s : State) (o : Out) : (emit s o).i3cEid = s.i3cEid := rfl
@[simp] theorem emit_i3cAddr (s : State) (o : Out) : (emit s o).i3cAddr = s.i3cAddr := rfl
@[simp] theorem emit_defRm (s : State) (o : Out) : (emit s o).defRm = s.defRm := rfl
@[simp] theorem emit_defOvf (s : State) (o : Out) : (emit s o).defOvf = s.defOvf := rfl
@[simp] theorem emit_thermTrip (s : State) (o : Out) : (emit s o).thermTrip = s.thermTrip := rfl
@[simp] theorem emit_freeCtr (s : State) (o : Out) : (emit s o).freeCtr = s.freeCtr := rfl

/-! ## modMem and draw -/

@[simp] theorem modMem_pending (s : State) (f : Memory → Memory) : (modMem s f).pending = s.pending := rfl
@[simp] theorem modMem_life (s : State) (f : Memory → Memory) : (modMem s f).life = s.life := rfl
@[simp] theorem modMem_dies (s : State) (f : Memory → Memory) : (modMem s f).dies = s.dies := rfl
@[simp] theorem modMem_links (s : State) (f : Memory → Memory) : (modMem s f).links = s.links := rfl
@[simp] theorem modMem_cores (s : State) (f : Memory → Memory) : (modMem s f).cores = s.cores := rfl
@[simp] theorem modMem_ccs (s : State) (f : Memory → Memory) : (modMem s f).ccs = s.ccs := rfl
@[simp] theorem modMem_homes (s : State) (f : Memory → Memory) : (modMem s f).homes = s.homes := rfl
@[simp] theorem modMem_hbm (s : State) (f : Memory → Memory) : (modMem s f).hbm = s.hbm := rfl
@[simp] theorem modMem_xlat (s : State) (f : Memory → Memory) : (modMem s f).xlat = s.xlat := rfl
@[simp] theorem modMem_fabric (s : State) (f : Memory → Memory) : (modMem s f).fabric = s.fabric := rfl
@[simp] theorem modMem_epochs (s : State) (f : Memory → Memory) : (modMem s f).epochs = s.epochs := rfl
@[simp] theorem modMem_disp (s : State) (f : Memory → Memory) : (modMem s f).disp = s.disp := rfl
@[simp] theorem modMem_power (s : State) (f : Memory → Memory) : (modMem s f).power = s.power := rfl
@[simp] theorem modMem_sec (s : State) (f : Memory → Memory) : (modMem s f).sec = s.sec := rfl
@[simp] theorem modMem_obs (s : State) (f : Memory → Memory) : (modMem s f).obs = s.obs := rfl
@[simp] theorem modMem_pcie (s : State) (f : Memory → Memory) : (modMem s f).pcie = s.pcie := rfl
@[simp] theorem modMem_i3cEid (s : State) (f : Memory → Memory) : (modMem s f).i3cEid = s.i3cEid := rfl
@[simp] theorem modMem_i3cAddr (s : State) (f : Memory → Memory) : (modMem s f).i3cAddr = s.i3cAddr := rfl
@[simp] theorem modMem_defRm (s : State) (f : Memory → Memory) : (modMem s f).defRm = s.defRm := rfl
@[simp] theorem modMem_defOvf (s : State) (f : Memory → Memory) : (modMem s f).defOvf = s.defOvf := rfl
@[simp] theorem modMem_thermTrip (s : State) (f : Memory → Memory) : (modMem s f).thermTrip = s.thermTrip := rfl
@[simp] theorem modMem_outbox (s : State) (f : Memory → Memory) : (modMem s f).outbox = s.outbox := rfl
@[simp] theorem modMem_freeCtr (s : State) (f : Memory → Memory) : (modMem s f).freeCtr = s.freeCtr := rfl
@[simp] theorem draw_pending (s : State) : (draw s).1.pending = s.pending := rfl
@[simp] theorem draw_life (s : State) : (draw s).1.life = s.life := rfl
@[simp] theorem draw_dies (s : State) : (draw s).1.dies = s.dies := rfl
@[simp] theorem draw_links (s : State) : (draw s).1.links = s.links := rfl
@[simp] theorem draw_cores (s : State) : (draw s).1.cores = s.cores := rfl
@[simp] theorem draw_ccs (s : State) : (draw s).1.ccs = s.ccs := rfl
@[simp] theorem draw_mem (s : State) : (draw s).1.mem = s.mem := rfl
@[simp] theorem draw_homes (s : State) : (draw s).1.homes = s.homes := rfl
@[simp] theorem draw_hbm (s : State) : (draw s).1.hbm = s.hbm := rfl
@[simp] theorem draw_xlat (s : State) : (draw s).1.xlat = s.xlat := rfl
@[simp] theorem draw_fabric (s : State) : (draw s).1.fabric = s.fabric := rfl
@[simp] theorem draw_epochs (s : State) : (draw s).1.epochs = s.epochs := rfl
@[simp] theorem draw_disp (s : State) : (draw s).1.disp = s.disp := rfl
@[simp] theorem draw_power (s : State) : (draw s).1.power = s.power := rfl
@[simp] theorem draw_sec (s : State) : (draw s).1.sec = s.sec := rfl
@[simp] theorem draw_obs (s : State) : (draw s).1.obs = s.obs := rfl
@[simp] theorem draw_pcie (s : State) : (draw s).1.pcie = s.pcie := rfl
@[simp] theorem draw_i3cEid (s : State) : (draw s).1.i3cEid = s.i3cEid := rfl
@[simp] theorem draw_i3cAddr (s : State) : (draw s).1.i3cAddr = s.i3cAddr := rfl
@[simp] theorem draw_defRm (s : State) : (draw s).1.defRm = s.defRm := rfl
@[simp] theorem draw_defOvf (s : State) : (draw s).1.defOvf = s.defOvf := rfl
@[simp] theorem draw_thermTrip (s : State) : (draw s).1.thermTrip = s.thermTrip := rfl
@[simp] theorem draw_outbox (s : State) : (draw s).1.outbox = s.outbox := rfl

end Sys2Proof.Machine
end

