-- ==== Sys2Proof/Laws/Units.lean ====
section
/-! SUPPORT. Units read after they are written: what an update gives, and the units it leaves alone. -/

namespace Sys2Proof.Machine

/-! ## Dies, cores, groups -/

@[simp] theorem getDie_setDie_same (s : State) (d : Nat) (v : Die) : getDie (setDie s d v) d = v := by simp [getDie, setDie]
theorem getDie_setDie_other (s : State) {d e : Nat} (v : Die) (h : e ≠ d) : getDie (setDie s d v) e = getDie s e := by
  simp [getDie, setDie, tget_tput_other _ _ _ h]
@[simp] theorem getDie_modDie_same (s : State) (d : Nat) (f : Die → Die) : getDie (modDie s d f) d = f (getDie s d) := by
  simp [modDie]
theorem getDie_modDie_other (s : State) {d e : Nat} (f : Die → Die) (h : e ≠ d) : getDie (modDie s d f) e = getDie s e :=
  getDie_setDie_other s _ h

@[simp] theorem getCC_setCC_same (s : State) (n : Nat) (v : CCore) : getCC (setCC s n v) n = v := by simp [getCC, setCC]
theorem getCC_setCC_other (s : State) {n m : Nat} (v : CCore) (h : m ≠ n) : getCC (setCC s n v) m = getCC s m := by
  simp [getCC, setCC, tget_tput_other _ _ _ h]
@[simp] theorem getCC_modCC_same (s : State) (n : Nat) (f : CCore → CCore) : getCC (modCC s n f) n = f (getCC s n) := by
  simp [modCC]
theorem getCC_modCC_other (s : State) {n m : Nat} (f : CCore → CCore) (h : m ≠ n) : getCC (modCC s n f) m = getCC s m :=
  getCC_setCC_other s _ h
theorem modCC_modCC (s : State) (n : Nat) (f g : CCore → CCore) : getCC (modCC (modCC s n f) n g) n = g (f (getCC s n)) := by simp

@[simp] theorem getCore_setCore_same (s : State) (k : Nat) (v : Core) : getCore (setCore s k v) k = v := by
  simp [getCore, setCore]
theorem getCore_setCore_other (s : State) {k j : Nat} (v : Core) (h : j ≠ k) : getCore (setCore s k v) j = getCore s j := by
  simp [getCore, setCore, tget_tput_other _ _ _ h]
@[simp] theorem getCore_modCore_same (s : State) (k : Nat) (f : Core → Core) : getCore (modCore s k f) k = f (getCore s k) := by
  simp [modCore]
theorem getCore_modCore_other (s : State) {k j : Nat} (f : Core → Core) (h : j ≠ k) :
    getCore (modCore s k f) j = getCore s j := getCore_setCore_other s _ h

@[simp] theorem getGroup_setGroup_same (s : State) (k j : Nat) (g : Group) : getGroup (setGroup s k j g) k j = some g := by
  simp [getGroup, setGroup]
theorem getGroup_setGroup_slot (s : State) (k : Nat) {j i : Nat} (g : Group) (h : i ≠ j) :
    getGroup (setGroup s k j g) k i = getGroup s k i := by simp [getGroup, setGroup, tfind_tput_other _ _ h]
theorem getGroup_setGroup_core (s : State) {k m : Nat} (j i : Nat) (g : Group) (h : m ≠ k) :
    getGroup (setGroup s k j g) m i = getGroup s m i := by simp [getGroup, setGroup, getCore_modCore_other s _ h]
@[simp] theorem getGroup_modGroup_same (s : State) (k j : Nat) (f : Group → Group) :
    getGroup (modGroup s k j f) k j = (getGroup s k j).map f := by
  unfold modGroup
  cases h : getGroup s k j with
  | none => simp [h]
  | some g => simp
theorem getGroup_modGroup_slot (s : State) (k : Nat) {j i : Nat} (f : Group → Group) (h : i ≠ j) :
    getGroup (modGroup s k j f) k i = getGroup s k i := by
  unfold modGroup; split
  · exact getGroup_setGroup_slot s k _ h
  · rfl
theorem getGroup_modGroup_core (s : State) {k m : Nat} (j i : Nat) (f : Group → Group) (h : m ≠ k) :
    getGroup (modGroup s k j f) m i = getGroup s m i := by
  unfold modGroup; split
  · exact getGroup_setGroup_core s j i _ h
  · rfl

/-- What an update of a group leaves of its core: everything but the table of groups. -/
theorem getCore_modGroup (s : State) (k j : Nat) (f : Group → Group) :
    ∃ gs, getCore (modGroup s k j f) k = { getCore s k with groups := gs } := by
  unfold modGroup; split
  · exact ⟨_, by simp [setGroup]; rfl⟩
  · exact ⟨_, rfl⟩
theorem getCore_modGroup_other (s : State) {k m : Nat} (j : Nat) (f : Group → Group) (h : m ≠ k) :
    getCore (modGroup s k j f) m = getCore s m := by
  unfold modGroup; split
  · exact getCore_modCore_other s _ h
  · rfl

/-! ## Links, ports, partitions, contexts, queues, entries, slots, lines -/

@[simp] theorem getLink_modLink_same (s : State) (n : Nat) (f : Link → Link) : getLink (modLink s n f) n = f (getLink s n) := by
  simp [getLink, modLink]
theorem getLink_modLink_other (s : State) {n m : Nat} (f : Link → Link) (h : m ≠ n) :
    getLink (modLink s n f) m = getLink s m := by simp [getLink, modLink, tget_tmod_other _ _ _ h]
@[simp] theorem getPcie_modPcie_same (s : State) (n : Nat) (f : Pcie → Pcie) : getPcie (modPcie s n f) n = f (getPcie s n) := by
  simp [getPcie, modPcie]
theorem getPcie_modPcie_other (s : State) {n m : Nat} (f : Pcie → Pcie) (h : m ≠ n) :
    getPcie (modPcie s n f) m = getPcie s m := by simp [getPcie, modPcie, tget_tmod_other _ _ _ h]
@[simp] theorem getPort_modPort_same (s : State) (n : Nat) (f : Port → Port) : getPort (modPort s n f) n = f (getPort s n) := by
  simp [getPort, modPort]
theorem getPort_modPort_other (s : State) {n m : Nat} (f : Port → Port) (h : m ≠ n) :
    getPort (modPort s n f) m = getPort s m := by simp [getPort, modPort, tget_tmod_other _ _ _ h]
@[simp] theorem getPart_modPart_same (s : State) (p : Nat) (f : Partition → Partition) :
    getPart (modPart s p f) p = f (getPart s p) := by simp [getPart, modPart]
theorem getPart_modPart_other (s : State) {p q : Nat} (f : Partition → Partition) (h : q ≠ p) :
    getPart (modPart s p f) q = getPart s q := by simp [getPart, modPart, tget_tmod_other _ _ _ h]
@[simp] theorem getCtx_modCtx_same (s : State) (c : Nat) (f : Ctx → Ctx) : getCtx (modCtx s c f) c = (getCtx s c).map f := by
  simp [getCtx, modCtx, tfind_tadj_same]
theorem getCtx_modCtx_other (s : State) {c d : Nat} (f : Ctx → Ctx) (h : d ≠ c) : getCtx (modCtx s c f) d = getCtx s d := by
  simp [getCtx, modCtx, tfind_tadj_other _ _ h]
@[simp] theorem getQueue_modQueue_same (s : State) (h : Nat) (f : Queue → Queue) :
    getQueue (modQueue s h f) h = (getQueue s h).map f := by simp [getQueue, modQueue, tfind_tadj_same]
theorem getQueue_modQueue_other (s : State) {h k : Nat} (f : Queue → Queue) (n : k ≠ h) :
    getQueue (modQueue s h f) k = getQueue s k := by simp [getQueue, modQueue, tfind_tadj_other _ _ n]
@[simp] theorem getEntry_modEntry_same (s : State) (e : Nat) (f : Entry → Entry) :
    getEntry (modEntry s e f) e = (getEntry s e).map f := by simp [getEntry, modEntry, tfind_tadj_same]
theorem getEntry_modEntry_other (s : State) {e d : Nat} (f : Entry → Entry) (h : d ≠ e) :
    getEntry (modEntry s e f) d = getEntry s d := by simp [getEntry, modEntry, tfind_tadj_other _ _ h]
@[simp] theorem getSlot_modSlot_same (s : State) (j : Nat) (f : JobSlot → JobSlot) : getSlot (modSlot s j f) j = f (getSlot s j) := by
  simp [getSlot, modSlot]
theorem getSlot_modSlot_other (s : State) {j i : Nat} (f : JobSlot → JobSlot) (h : i ≠ j) :
    getSlot (modSlot s j f) i = getSlot s i := by simp [getSlot, modSlot, tget_tmod_other _ _ _ h]
@[simp] theorem getTree_modTree_same (s : State) (t : Nat) (f : Tree → Tree) : getTree (modTree s t f) t = f (getTree s t) := by
  simp [getTree, modTree]
theorem getTree_modTree_other (s : State) {t u : Nat} (f : Tree → Tree) (h : u ≠ t) :
    getTree (modTree s t f) u = getTree s u := by simp [getTree, modTree, tget_tmod_other _ _ _ h]
@[simp] theorem getJob_modJob_same (s : State) (j : Nat) (f : JobEntry → JobEntry) : getJob (modJob s j f) j = f (getJob s j) := by
  simp [getJob, modJob]
@[simp] theorem getStack_modStack_same (s : State) (k : Nat) (f : Stack → Stack) : getStack (modStack s k f) k = f (getStack s k) := by
  simp [getStack, modStack]
theorem getStack_modStack_other (s : State) {k j : Nat} (f : Stack → Stack) (h : j ≠ k) :
    getStack (modStack s k f) j = getStack s j := by simp [getStack, modStack, tget_tmod_other _ _ _ h]
@[simp] theorem getRing_modRing_same (s : State) (p : Nat) (f : FaultRing → FaultRing) : getRing (modRing s p f) p = f (getRing s p) := by
  simp [getRing, modRing]

/-- A line written reads as written, also where it falls back to the value of an unlisted line. -/
theorem getLine_setLine_same (s : State) (l : Nat) (v : Line) (h : tsorted s.homes.lines = true) : getLine (setLine s l v) l = v := by
  simp only [getLine, setLine]
  split
  · rename_i e; simp [tget, tfind_tdel_same l h, e]
  · simp
theorem getLine_setLine_other (s : State) {l m : Nat} (v : Line) (h : m ≠ l) : getLine (setLine s l v) m = getLine s m := by
  simp only [getLine, setLine]
  split
  · simp [tget, tfind_tdel_other _ h]
  · simp [tget_tput_other _ _ _ h]
theorem getLine_modLine_other (s : State) {l m : Nat} (f : Line → Line) (h : m ≠ l) : getLine (modLine s l f) m = getLine s m :=
  getLine_setLine_other s _ h

/-! ## Messages out, memory -/

@[simp] theorem emit_outbox (s : State) (o : Out) : (emit s o).outbox = s.outbox ++ [o] := rfl
theorem emits_eq (s : State) (os : List Out) : emits s os = { s with outbox := s.outbox ++ os } := by
  induction os generalizing s with
  | nil => simp [emits]
  | cons o r ih => simp [emits, ih, emit]
@[simp] theorem draw_snd (s : State) : (draw s).2 = s.freeCtr := rfl
@[simp] theorem draw_freeCtr (s : State) : (draw s).1.freeCtr = s.freeCtr + 1 := rfl
@[simp] theorem modMem_mem (s : State) (f : Memory → Memory) : (modMem s f).mem = f s.mem := rfl

/-- Bytes put in memory read back; every other byte reads as before. -/
theorem mread_putBytes (s : State) (pa a : Nat) (bs : List Byte) (h : Memory.wf s.mem = true) :
    mread (putBytes s pa bs).mem a = if pa ≤ a ∧ a < pa + bs.length then bs.getD (a - pa) 0 else mread s.mem a := by
  simpa [putBytes] using mread_mwriteN pa a bs h
theorem wf_putBytes (s : State) (pa : Nat) (bs : List Byte) (h : Memory.wf s.mem = true) :
    Memory.wf (putBytes s pa bs).mem = true := by simpa [putBytes] using Memory.wf_mwriteN pa bs h

/-- What every step of a fold keeps, the fold keeps. -/
theorem each_keeps {α : Type} {P : State → Prop} {f : State → α → State} (xs : List α) (s : State)
    (hs : P s) (hf : ∀ t, P t → ∀ x ∈ xs, P (f t x)) : P (each s xs f) := by
  induction xs generalizing s with
  | nil => exact hs
  | cons x r ih => exact ih _ (hf s hs x (by simp)) fun t ht y hy => hf t ht y (List.mem_cons_of_mem _ hy)

end Sys2Proof.Machine
end

