-- ==== Sys2Proof/Laws/Issue.lean ====
section
/-! SUPPORT. What issuing an instruction, moving past it, taking a trap, answering a request and one step can do. -/

namespace Sys2Proof.Machine

/-! ## Issuing -/

/-- The four ways of an issue: nothing, a fetch that cannot be made, a decode cause taken, or the instruction's own effect. -/
theorem issue_cases (i : Instr) (x : Issuer) (len : Nat) (body : State → Iss → Eff) (s : State) :
    (issOf s x (wordOf i) = none ∧ issue i x len body s = .next s) ∨
    (∃ c p, issOf s x (wordOf i) = some c ∧ fetchBad c i = some p ∧ issue i x len body s = .next (fetchFault s c p)) ∨
    (∃ c cause, issOf s x (wordOf i) = some c ∧ fetchBad c i = none ∧ decodeCause s c i = some cause ∧
      issue i x len body s = .next (finish c len (.trap s cause c.word.toNat c.mask))) ∨
    (∃ c, issOf s x (wordOf i) = some c ∧ fetchBad c i = none ∧ decodeCause s c i = none ∧
      issue i x len body s = .next (finish c len (body s c))) := by
  unfold issue
  split
  · exact .inl ⟨‹_›, rfl⟩
  · rename_i c h
    split
    · exact .inr (.inl ⟨c, _, h, ‹_›, rfl⟩)
    · split
      · exact .inr (.inr (.inl ⟨c, _, h, ‹_›, ‹_›, rfl⟩))
      · exact .inr (.inr (.inr ⟨c, h, ‹_›, ‹_›, rfl⟩))

theorem issue_next (i : Instr) (x : Issuer) (len : Nat) (body : State → Iss → Eff) (s : State) :
    ∃ t, issue i x len body s = .next t := by
  rcases issue_cases i x len body s with ⟨_, h⟩ | ⟨_, _, _, _, h⟩ | ⟨_, _, _, _, _, h⟩ | ⟨_, _, _, _, h⟩ <;> exact ⟨_, h⟩

/-- A fetch at an address that cannot be fetched faults. -/
theorem issue_fetch {i : Instr} {x : Issuer} {s : State} {c : Iss} {p : Nat × Nat} (len : Nat) (body : State → Iss → Eff)
    (h : issOf s x (wordOf i) = some c) (hf : fetchBad c i = some p) : issue i x len body s = .next (fetchFault s c p) := by
  simp [issue, h, hf]

/-- An instruction that can issue and meets no decode cause has its own effect. -/
theorem issue_body {i : Instr} {x : Issuer} {s : State} {c : Iss} (len : Nat) (body : State → Iss → Eff)
    (h : issOf s x (wordOf i) = some c) (hf : fetchBad c i = none) (hd : decodeCause s c i = none) :
    issue i x len body s = .next (finish c len (body s c)) := by
  simp [issue, h, hf, hd]

theorem issueRegs_body {i : Instr} {x : Issuer} {s : State} {c : Iss} (len : Nat) (guard : BitVec 4) (f : Threads → Nat → Threads)
    (h : issOf s x (wordOf i) = some c) (hf : fetchBad c i = none) (hd : decodeCause s c i = none) :
    issueRegs i x len guard f s = .next (finish c len (.go (setTh s x (eachLane c.th (active c guard) f)))) :=
  issue_body len _ h hf hd

/-! ## Registers of an issuer -/

@[simp] theorem setTh_cc (s : State) (n : Fin 96) (th : Threads) :
    getCC (setTh s (.cc n) th) n = { getCC s n with th := th } := by simp [setTh]
theorem setTh_cc_eq (s : State) (n : Fin 96) (th : Threads) :
    setTh s (.cc n) th = { s with ccs := (setTh s (.cc n) th).ccs } := rfl
theorem setTh_tc (s : State) (d : Fin 4) (k : Fin 24) (slot : Fin 128) (th : Threads) :
    getGroup (setTh s (.tc d k slot) th) (coreKey d k) slot = (getGroup s (coreKey d k) slot).map fun g => { g with th := th } := by
  simp [setTh]
theorem setTh_tc_eq (s : State) (d : Fin 4) (k : Fin 24) (slot : Fin 128) (th : Threads) :
    setTh s (.tc d k slot) th = { s with cores := (setTh s (.tc d k slot) th).cores } := by
  simp only [setTh, modGroup]; split <;> rfl

/-- A control core past an instruction: only its own state moves (R28). -/
theorem finish_cc_go (c : Iss) (n : Fin 96) (len : Nat) (s : State) (h : c.x = .cc n) :
    finish c len (.go s) = modCC s n fun cc =>
      if cc.armed then takeTrap cc cStep 0 (c.pc + BitVec.ofNat 64 len) else { cc with pc := c.pc + BitVec.ofNat 64 len } := by
  simp [finish, h, ccNext]

/-- A control core that meets a cause takes the trap; nothing else moves (R28, R43). -/
theorem finish_cc_trap (c : Iss) (n : Fin 96) (len : Nat) (s : State) (cause val : Nat) (lanes : W32) (h : c.x = .cc n) :
    finish c len (.trap s cause val lanes) = modCC s n fun cc => takeTrap cc cause (BitVec.ofNat 64 val) c.pc := by
  simp [finish, h]

/-- An instruction held stays where it is. -/
theorem finish_cc_stall (c : Iss) (n : Fin 96) (len : Nat) (s : State) (h : c.x = .cc n) : finish c len (.stall s) = s := by
  simp [finish, h]

/-! ## Taking a trap (R28) -/

theorem takeTrap_resv (c : CCore) (cause : Nat) (val pc : W64) :
    (takeTrap c cause val pc).resv = none ∧ (takeTrap c cause val pc).armed = false := by
  unfold takeTrap; simp only; split <;> exact ⟨rfl, rfl⟩
theorem takeTrap_th (c : CCore) (cause : Nat) (val pc : W64) : (takeTrap c cause val pc).th = c.th := by
  unfold takeTrap; simp only; split <;> rfl
theorem takeTrap_level (c : CCore) (cause : Nat) (val pc : W64) (h : trapLevel c cause = .monitor) :
    takeTrap c cause val pc = { c with
      resv := none
      armed := false
      mstat := trapStat c.mstat c.level
      mcause := BitVec.ofNat 64 cause
      mpc := pc
      mval := val
      level := .monitor
      pc := c.mvec } := by
  have : trapLevel { c with resv := none, armed := false } cause = .monitor := h
  simp [takeTrap, this]

/-- A cause is never taken at user level, and never below the level it is raised at from monitor level. -/
theorem trapLevel_not_user (c : CCore) (cause : Nat) : trapLevel c cause ≠ .user := by
  unfold trapLevel; split
  · simp
  · split <;> simp
theorem trapLevel_monitor (c : CCore) (cause : Nat) (h : c.level = .monitor) : trapLevel c cause = .monitor := by
  simp [trapLevel, h]

/-! ## Answers -/

/-- What an answer changes: the counts and the messages out, or a window's status. -/
theorem respondTo_eq (s : State) (q : Requester) (op tag index sub status type : Nat) (v : List Byte) :
    let t := respondTo s q op tag index sub status type v
    t = { s with obs := t.obs, outbox := t.outbox, pcie := t.pcie } := by
  unfold respondTo; simp only; split <;> rfl
theorem answer_message (s : State) (q : Requester) (tag index sub status type : Nat) (v : List Byte) (h : windowPort q = none) :
    (answer s q tag index sub status type v).outbox = s.outbox ++ [.dict q 2 tag index sub status type v] := by
  simp [answer, respondTo, h, countAnswer]

/-- A write by a requester that cannot reach the controller has no effect. -/
theorem command_unreached (q : Requester) (c : Cmd) (s : State) (h : halyard s = false ∨ reaches s q = false) : command q c s = s := by
  unfold command; rcases h with h | h <;> simp [h]

/-- A write whose checks all pass is done and answered with status 0 (R347). -/
theorem command_done (q : Requester) (c : Cmd) (s : State) (k : Cls) (hh : halyard s = true) (hr : reaches s q = true)
    (hw : c.type ≠ 7 ∨ windowPort q = none) (hk : classify s q = (s, some k)) (hl : lifeStatus s true c.index c.sub = 0)
    (hm : c.may s k = true) (hc : c.check s k = 0) :
    command q c s = answer (c.apply s k) q 0 c.index c.sub 0 c.type [] := by
  have w : (c.type = 7 && (windowPort q).isSome) = false := by rcases hw with h | h <;> simp [h]
  simp [command, hh, hr, w, cmdStatus, hk, hl, hm, hc]

/-- A write of a class that may not make it changes nothing and is answered with status 2 (R347). -/
theorem command_denied (q : Requester) (c : Cmd) (s : State) (k : Cls) (hh : halyard s = true) (hr : reaches s q = true)
    (hw : c.type ≠ 7 ∨ windowPort q = none) (hk : classify s q = (s, some k)) (hl : lifeStatus s true c.index c.sub = 0)
    (hm : c.may s k = false) : command q c s = answer s q 0 c.index c.sub 2 c.type [] := by
  have w : (c.type = 7 && (windowPort q).isSome) = false := by rcases hw with h | h <;> simp [h]
  simp [command, hh, hr, w, cmdStatus, hk, hl, hm]

/-! ## Steps -/

theorem step_idle (s : State) (h : s.pending = []) : step s = .next (tick s) := by simp [step, h]

end Sys2Proof.Machine
end

