-- ==== Sys2Proof/Laws/Logs.lean ====
section
/-! SUPPORT. What alarms, trace, log and failure records can do: each changes the observation state, the blocks of dies, the
messages out, and nothing else. -/

namespace Sys2Proof.Machine

theorem alarm_eq (s : State) (n : Nat) : alarm s n = { s with obs := (alarm s n).obs } := rfl

/-- An alarm's bit is set after it. -/
theorem alarm_bit (s : State) (n : Nat) (h : n < 64) : (alarm s n).obs.alarms.getLsbD n = true := by
  simp only [alarm, modObs, BitVec.getLsbD_or, BitVec.getLsbD_ofNat, Nat.testBit_two_pow_self, h]; simp

theorem logPut_eq (s : State) (unit event ctx kind arg : Nat) (timer : W64) (param count : Nat) :
    (logPut s unit event ctx kind arg timer param count).1 =
      { s with obs := (logPut s unit event ctx kind arg timer param count).1.obs } := by
  unfold logPut; split <;> rfl

/-- The log buffer never passes its 1,024 records (R409). -/
theorem logPut_bound (s : State) (unit event ctx kind arg : Nat) (timer : W64) (param count : Nat)
    (h : s.obs.logBuf.length ≤ 1024) :
    (logPut s unit event ctx kind arg timer param count).1.obs.logBuf.length ≤ 1024 := by
  unfold logPut; split
  · simp [modObs]; omega
  · exact h

theorem logEvent_eq (s : State) (die unit event ctx arg param : Nat) :
    logEvent s die unit event ctx arg param = { s with obs := (logEvent s die unit event ctx arg param).obs } := by
  unfold logEvent
  split
  · rfl
  · simp only
    split
    · exact logPut_eq _ _ _ _ _ _ _ _ _
    · rw [alarm_eq]
      simp only [modObs]
      rw [logPut_eq]

theorem traceEvent_eq (s : State) (die unit event ctx arg param : Nat) (full : Bool) :
    ∃ d b o, traceEvent s die unit event ctx arg param full = { s with dies := d, obs := b, outbox := o } := by
  unfold traceEvent
  simp only
  split
  · exact ⟨_, _, _, rfl⟩
  · split
    · exact ⟨_, _, _, rfl⟩
    · split
      · split <;> exact ⟨_, _, _, rfl⟩
      · exact ⟨_, _, _, rfl⟩

theorem event_eq (s : State) (die unit ev ctx arg param : Nat) (full : Bool) :
    ∃ d b o, event s die unit ev ctx arg param full = { s with dies := d, obs := b, outbox := o } := by
  obtain ⟨d, b, o, h⟩ := traceEvent_eq s die unit ev ctx arg param full
  unfold event
  simp only
  rw [h]
  split
  · exact ⟨_, _, _, logEvent_eq _ _ _ _ _ _ _⟩
  · exact ⟨_, _, _, rfl⟩

theorem failDies_eq (s : State) (ds : List Nat) (code : Nat) :
    failDies s ds code = { s with dies := (failDies s ds code).dies, life := .failed } := by
  have h : ∀ (ds : List Nat) (u : State),
      each u ds (fun s d => modDie s d fun x => if x.startState ≤ 1 then { x with startState := code } else x) =
        { u with dies := (each u ds fun s d => modDie s d fun x => if x.startState ≤ 1 then { x with startState := code } else x).dies } := by
    intro ds
    induction ds with
    | nil => intro u; rfl
    | cons d r ih => intro u; simp only [each]; rw [ih]; simp [modDie, setDie]
  unfold failDies
  simp only
  rw [h ds s]

end Sys2Proof.Machine
end

