-- ==== Sys2Proof/WellFormed.lean ====
section
/-! DEFINITION. Well-formed commands: a legal encoding for an instruction, whole data for a message. -/

namespace Sys2Proof

/-- Data bytes a request or response of whole lines carries. -/
def wholeLine (d : List (BitVec 8)) : Bool := d.length == 128

/-- Whether a command is well formed. -/
def Instr.wf (i : Instr) : Bool :=
  match i with
  | .wrf _ d | .wbk _ d | .cwb _ d | .filldata _ d | .reductionPacket _ _ _ _ d => wholeLine d
  | .ratlineFlitReceived _ _ _ f => f.length == 160
  | .shroudFlitReceived _ f _ => f.length == 320
  | .tmoveComplete _ k => decide (k < 32)
  | .matrixStart _ _ k | .matrixComplete _ _ k => decide (k < 16)
  | .windowRead _ _ n | .windowWrite _ _ n _ => n == 1 || n == 2 || n == 4 || n == 8
  | .counterRead _ _ _ _ | .counterData _ _ _ _ _ => true
  | i => zisLegal i

end Sys2Proof
end

