-- ==== Sys2Proof/Tests/Slice0.lean ====
section
/-! SUPPORT. Tests of this model: ill-formed commands refused by the check of form, words of the specification decoded, and for every
statement with hypotheses the states and operands that meet them. Where a statement has several clauses, its witness lists the
hypotheses of each clause, on the states the clause is met by. -/

set_option Elab.async false

namespace Sys2Proof.Tests

open Sys2Proof Sys2Proof.Machine

/-- A usable device with every die's clocks running and every link active. -/
def up : State := { State.reset with
  life := .usable
  dies := (List.range 5).map fun d => (d, { die0 d with clocks := true, everLocked := true })
  links := (List.range 8).map fun n => (n, { state := 6, inter := 0x1FF })
  hbm := { regions := [(0, { size := 768000000000 })], system := true } }

/-- Registers g4 to g7 of lane 0, distinct. -/
def regs : Threads := { gpr := [(4, 7), (5, 0), (6, 0xFFFFFFFFFFFFFFF9), (7, 3)] }

/-- A control core at monitor level. -/
def core0 (th : Threads) : CCore := { th := th, pc := 0x40000000, released := true }
def onCC (th : Threads) : State := { up with ccs := [(0, core0 th)] }
def issCC (th : Threads) (i : Instr) : Iss :=
  { x := .cc 0, th := th, mask := 1, pc := 0x40000000, level := .monitor, ctx := 0, part := 0, root := 0, word := wordOf i }

/-- A context of partition 0 and a group of it with lanes 0 and 1 running. -/
def ctx1 : Ctx := { part := 0, slot := 1, state := .live, maxres := 8 }
def grp (th : Threads) : Group := { ctx := 1, alloc := 64, th := th, stack := [⟨0x40000000, 3, .run⟩] }
def onTC (g : Group) : State := { up with
  cores := [(0, { groups := [(0, g)] })]
  disp := { up.disp with ctxs := [(1, ctx1)] } }
def tc0 : Issuer := .tc 0 0 0
def issTC (th : Threads) (i : Instr) : Iss :=
  { x := tc0, th := th, mask := 3, pc := 0x40000000, level := .user, ctx := 1, part := 0, root := ctxRoot (onTC (grp th)) 1, word := wordOf i }

/-- What an issuer sees at the next instruction of its program. -/
def dummyIss : Iss := { x := .cc 0, th := {}, mask := 0, pc := 0, level := .user, ctx := 0, part := 0, root := 0, word := 0 }
def view (s : State) (x : Issuer) (w : W32) : Iss := (issOf s x w).getD dummyIss

/-! ## Ill-formed commands -/

def hdr : ReqHdr := { txn := 0, line := 0, src := 0, ctx := 0, part := 0, idk := 0, gmask := 0, boff := 0, bsize := 7, poison := false, aop := 0, thread := 0 }

/-- A whole-line write of two bytes, flits of a wrong length, operation numbers no unit has, an access of three bytes. -/
theorem test_illFormed :
    (Instr.wrf hdr [1, 2]).wf = false ∧ (Instr.wrf hdr (List.replicate 128 0)).wf = true ∧
    (Instr.ratlineFlitReceived 0 false 0 []).wf = false ∧ (Instr.shroudFlitReceived 0 [1] true).wf = false ∧
    (Instr.tmoveComplete (.cc 0) 32).wf = false ∧ (Instr.matrixStart 0 0 16).wf = false ∧
    (Instr.matrixComplete 0 0 16).wf = false ∧ (Instr.windowRead 0 8 3).wf = false ∧
    (Instr.windowWrite 0 8 3 0).wf = false ∧ (Instr.windowRead 0 8 4).wf = true := by decide +kernel

/-- The reserved scope has no legal encoding (R34). -/
theorem test_reservedScope :
    (zisDecode (.cc 0) 0x5C045181 0).map Instr.wf = some false ∧ (zisDecode (.cc 0) 0x4C045181 0).map Instr.wf = some true := by
  decide +kernel

/-! ## Words of the specification -/

/-- The worked words of R29 and R34. -/
theorem test_words :
    zisDecode (.cc 0) 0x6C095181 0 = some (.rel (.cc 0) { scope := 3, guard := 0, gd := 9, ga := 20, sz := 3, imm := 1 }) ∧
    zisDecode (.cc 0) 0x4C045181 0 = some (.acq (.cc 0) { scope := 3, guard := 0, gd := 4, ga := 20, sz := 3, imm := 1 }) ∧
    zisDecode (.cc 0) 0x8C853078 0 = some (.amoAdd (.cc 0) { scope := 3, guard := 2, gd := 5, ga := 12, gb := 7, dbl := true }) ∧
    zisDecode (.cc 0) 0x8C853118 0 = some (.amoAdd (.cc 0) { scope := 3, guard := 2, gd := 5, ga := 12, gb := 17, dbl := true }) ∧
    (zisDecode (.cc 0) 0x5C045181 0).map zisLegal = some false := by decide +kernel

/-! ## Witnesses -/

/-- Hypotheses of `DecodeUndoesEncode`: an instruction with an encoding that is legal. -/
theorem witness_DecodeUndoesEncode :
    zisEncode (.rel (.cc 0) { scope := 3, guard := 0, gd := 9, ga := 20, sz := 3, imm := 1 }) = some (0x6C095181, 0) ∧
    zisLegal (.rel (.cc 0) { scope := 3, guard := 0, gd := 9, ga := 20, sz := 3, imm := 1 }) = true := by decide +kernel

/-- Hypotheses of `MemoriesStayCanonical` and of the tick: the machine at power-up, and its step. -/
theorem witness_MemoriesStayCanonical :
    (Memory.wf State.reset.mem = true ∧ ∀ k, Memory.wf (getCore State.reset k).ls = true) ∧ State.reset.pending = [] ∧
    ∃ t, step State.reset = .next t :=
  ⟨⟨rfl, fun _ => rfl⟩, rfl, _, rfl⟩

/-- Hypotheses of `GroupGoesOn`: a group whose top entry is running. -/
theorem witness_GroupGoesOn :
    let c := issTC regs (.isync tc0 { guard := 0, gd := 0, ga := 0, gb := 0 })
    c.x = .tc 0 0 0 ∧ getGroup (onTC (grp regs)) (coreKey 0 0) 0 = some (grp regs) ∧ (grp regs).stepReq = false ∧
    (⟨c.pc, c.mask, .run⟩ : SEntry) ∈ (grp regs).stack ∧ c.mask ≠ 0 ∧ c.pc + BitVec.ofNat 64 4 ≠ 0 := by decide +kernel

end Sys2Proof.Tests

namespace Sys2Proof.Tests.P01

open Sys2Proof Sys2Proof.Machine Sys2Proof.Tests

def r1 : RF := ⟨0, 4, 6, 7⟩
def r3 : RF := ⟨0, 4, 6, 0⟩
def i1 : IF := ⟨0, 4, 6, 0x3FF⟩
def sh1 : ShF := ⟨0, 4, 6, 0, 63⟩
def l1 : LF := ⟨0, 4, 0, 0, 0x80000000⟩
def pf1 (k : BitVec 3) : PF := ⟨0, 1, k, 6, 7, 0⟩
def pif1 (k : BitVec 3) : PIF := ⟨0, 1, k, 6, 0x3F9⟩
def plf (k : BitVec 3) : PLF := ⟨0, 2, k, 1, 0, 0⟩
def e0 : SEntry := ⟨0x40, 3, .run⟩
def e1 : SEntry := ⟨0x60, 12, .gbar⟩
def b1 : BF := ⟨0, 0x3FFFFF⟩
def j1 : IF := ⟨0, 4, 7, 1⟩
def j2 : IF := ⟨0, 4, 5, 1⟩
def z0 : Iss := view (onCC regs) (Issuer.cc (0 : Fin 96)) (wordOf (Instr.add (Issuer.cc (0 : Fin 96)) r3))
def z1 : Iss := view (onCC regs) (Issuer.cc (0 : Fin 96)) (wordOf (Instr.sub (Issuer.cc (0 : Fin 96)) r3))
def z2 : Iss := view (onCC regs) (Issuer.cc (0 : Fin 96)) (wordOf (Instr.and (Issuer.cc (0 : Fin 96)) r3))
def z3 : Iss := view (onCC regs) (Issuer.cc (0 : Fin 96)) (wordOf (Instr.or (Issuer.cc (0 : Fin 96)) r3))
def z4 : Iss := view (onCC regs) (Issuer.cc (0 : Fin 96)) (wordOf (Instr.xor (Issuer.cc (0 : Fin 96)) r3))
def z5 : Iss := view (onCC regs) (Issuer.cc (0 : Fin 96)) (wordOf (Instr.sll (Issuer.cc (0 : Fin 96)) r3))
def z6 : Iss := view (onCC regs) (Issuer.cc (0 : Fin 96)) (wordOf (Instr.srl (Issuer.cc (0 : Fin 96)) r3))
def z7 : Iss := view (onCC regs) (Issuer.cc (0 : Fin 96)) (wordOf (Instr.sra (Issuer.cc (0 : Fin 96)) r3))
def z8 : Iss := view (onCC regs) (Issuer.cc (0 : Fin 96)) (wordOf (Instr.mul (Issuer.cc (0 : Fin 96)) r3))
def z9 : Iss := view (onCC regs) (Issuer.cc (0 : Fin 96)) (wordOf (Instr.mulh (Issuer.cc (0 : Fin 96)) r3))
def z10 : Iss := view (onCC regs) (Issuer.cc (0 : Fin 96)) (wordOf (Instr.mulhu (Issuer.cc (0 : Fin 96)) r3))
def z11 : Iss := view (onCC regs) (Issuer.cc (0 : Fin 96)) (wordOf (Instr.div (Issuer.cc (0 : Fin 96)) r3))
def z12 : Iss := view (onCC regs) (Issuer.cc (0 : Fin 96)) (wordOf (Instr.divu (Issuer.cc (0 : Fin 96)) r3))
def z13 : Iss := view (onCC regs) (Issuer.cc (0 : Fin 96)) (wordOf (Instr.rem (Issuer.cc (0 : Fin 96)) r3))
def z14 : Iss := view (onCC regs) (Issuer.cc (0 : Fin 96)) (wordOf (Instr.remu (Issuer.cc (0 : Fin 96)) r3))
def z15 : Iss := view (onCC regs) (Issuer.cc (0 : Fin 96)) (wordOf (Instr.min (Issuer.cc (0 : Fin 96)) r3))
def z16 : Iss := view (onCC regs) (Issuer.cc (0 : Fin 96)) (wordOf (Instr.max (Issuer.cc (0 : Fin 96)) r3))
def z17 : Iss := view (onCC regs) (Issuer.cc (0 : Fin 96)) (wordOf (Instr.minu (Issuer.cc (0 : Fin 96)) r3))
def z18 : Iss := view (onCC regs) (Issuer.cc (0 : Fin 96)) (wordOf (Instr.maxu (Issuer.cc (0 : Fin 96)) r3))
def z19 : Iss := view (onCC regs) (Issuer.cc (0 : Fin 96)) (wordOf (Instr.clz (Issuer.cc (0 : Fin 96)) r3))
def z20 : Iss := view (onCC regs) (Issuer.cc (0 : Fin 96)) (wordOf (Instr.popc (Issuer.cc (0 : Fin 96)) r3))
def z21 : Iss := view (onCC regs) (Issuer.cc (0 : Fin 96)) (wordOf (Instr.addi (Issuer.cc (0 : Fin 96)) i1))
def z22 : Iss := view (onCC regs) (Issuer.cc (0 : Fin 96)) (wordOf (Instr.andi (Issuer.cc (0 : Fin 96)) i1))
def z23 : Iss := view (onCC regs) (Issuer.cc (0 : Fin 96)) (wordOf (Instr.ori (Issuer.cc (0 : Fin 96)) i1))
def z24 : Iss := view (onCC regs) (Issuer.cc (0 : Fin 96)) (wordOf (Instr.xori (Issuer.cc (0 : Fin 96)) i1))
def z25 : Iss := view (onCC regs) (Issuer.cc (0 : Fin 96)) (wordOf (Instr.slli (Issuer.cc (0 : Fin 96)) sh1))
def z26 : Iss := view (onCC regs) (Issuer.cc (0 : Fin 96)) (wordOf (Instr.srli (Issuer.cc (0 : Fin 96)) sh1))
def z27 : Iss := view (onCC regs) (Issuer.cc (0 : Fin 96)) (wordOf (Instr.srai (Issuer.cc (0 : Fin 96)) sh1))
def z28 : Iss := view (onCC regs) (Issuer.cc (0 : Fin 96)) (wordOf (Instr.movl (Issuer.cc (0 : Fin 96)) l1))
def z29 : Iss := view (onCC regs) (Issuer.cc (0 : Fin 96)) (wordOf (Instr.movh (Issuer.cc (0 : Fin 96)) l1))
def z30 : Iss := view (onCC regs) (Issuer.cc (0 : Fin 96)) (wordOf (Instr.addl (Issuer.cc (0 : Fin 96)) l1))
def z31 : Iss := view (onCC regs) (Issuer.cc (0 : Fin 96)) (wordOf (Instr.orl (Issuer.cc (0 : Fin 96)) l1))
def z51 : Iss := view (onCC regs) (Issuer.cc (0 : Fin 96)) (wordOf (Instr.cmp (Issuer.cc (0 : Fin 96)) (pf1 (0 : BitVec 3))))
def z58 : Iss := view (onCC regs) (Issuer.cc (0 : Fin 96)) (wordOf (Instr.cmpi (Issuer.cc (0 : Fin 96)) (pif1 (0 : BitVec 3))))
def z60 : Iss := view (onCC regs) (Issuer.cc (0 : Fin 96)) (wordOf (Instr.plog (Issuer.cc (0 : Fin 96)) (plf (0 : BitVec 3))))
def z82 : Iss := issCC regs (.add (.cc 0) r1)
def z83 : Iss := issCC regs (.add (.cc 0) r1)
def z84 : State := {onCC regs with ccs := [(0, {core0 regs with armed := true})]}
def z86 : Iss := view (onCC regs) (Issuer.cc (0 : Fin 96)) (wordOf (Instr.b (Issuer.cc (0 : Fin 96)) b1))
def z87 : Iss := view (onCC regs) (Issuer.cc (0 : Fin 96)) (wordOf (Instr.call (Issuer.cc (0 : Fin 96)) b1))
def z89 : Iss := view (onCC regs) (Issuer.cc (0 : Fin 96)) (wordOf (Instr.jr (Issuer.cc (0 : Fin 96)) j1))
def z90 : Iss := view (onCC regs) (Issuer.cc (0 : Fin 96)) (wordOf (Instr.jr (Issuer.cc (0 : Fin 96)) j2))

/-- States and operands that meet the hypotheses of the clauses of `RegisterOperationResults`. -/
theorem witness_RegisterOperationResults :
    (Issues (onCC regs) (Instr.add (Issuer.cc (0 : Fin 96)) r3) (Issuer.cc (0 : Fin 96)) z0 ∧
    Issues (onCC regs) (Instr.sub (Issuer.cc (0 : Fin 96)) r3) (Issuer.cc (0 : Fin 96)) z1 ∧
    Issues (onCC regs) (Instr.and (Issuer.cc (0 : Fin 96)) r3) (Issuer.cc (0 : Fin 96)) z2 ∧
    Issues (onCC regs) (Instr.or (Issuer.cc (0 : Fin 96)) r3) (Issuer.cc (0 : Fin 96)) z3 ∧
    Issues (onCC regs) (Instr.xor (Issuer.cc (0 : Fin 96)) r3) (Issuer.cc (0 : Fin 96)) z4 ∧
    Issues (onCC regs) (Instr.sll (Issuer.cc (0 : Fin 96)) r3) (Issuer.cc (0 : Fin 96)) z5 ∧
    Issues (onCC regs) (Instr.srl (Issuer.cc (0 : Fin 96)) r3) (Issuer.cc (0 : Fin 96)) z6 ∧
    Issues (onCC regs) (Instr.sra (Issuer.cc (0 : Fin 96)) r3) (Issuer.cc (0 : Fin 96)) z7) ∧
    (Issues (onCC regs) (Instr.mul (Issuer.cc (0 : Fin 96)) r3) (Issuer.cc (0 : Fin 96)) z8 ∧
    Issues (onCC regs) (Instr.mulh (Issuer.cc (0 : Fin 96)) r3) (Issuer.cc (0 : Fin 96)) z9 ∧
    Issues (onCC regs) (Instr.mulhu (Issuer.cc (0 : Fin 96)) r3) (Issuer.cc (0 : Fin 96)) z10 ∧
    Issues (onCC regs) (Instr.div (Issuer.cc (0 : Fin 96)) r3) (Issuer.cc (0 : Fin 96)) z11 ∧
    Issues (onCC regs) (Instr.divu (Issuer.cc (0 : Fin 96)) r3) (Issuer.cc (0 : Fin 96)) z12 ∧
    Issues (onCC regs) (Instr.rem (Issuer.cc (0 : Fin 96)) r3) (Issuer.cc (0 : Fin 96)) z13 ∧
    Issues (onCC regs) (Instr.remu (Issuer.cc (0 : Fin 96)) r3) (Issuer.cc (0 : Fin 96)) z14 ∧
    Issues (onCC regs) (Instr.min (Issuer.cc (0 : Fin 96)) r3) (Issuer.cc (0 : Fin 96)) z15) ∧
    (Issues (onCC regs) (Instr.max (Issuer.cc (0 : Fin 96)) r3) (Issuer.cc (0 : Fin 96)) z16 ∧
    Issues (onCC regs) (Instr.minu (Issuer.cc (0 : Fin 96)) r3) (Issuer.cc (0 : Fin 96)) z17 ∧
    Issues (onCC regs) (Instr.maxu (Issuer.cc (0 : Fin 96)) r3) (Issuer.cc (0 : Fin 96)) z18 ∧
    Issues (onCC regs) (Instr.clz (Issuer.cc (0 : Fin 96)) r3) (Issuer.cc (0 : Fin 96)) z19 ∧
    Issues (onCC regs) (Instr.popc (Issuer.cc (0 : Fin 96)) r3) (Issuer.cc (0 : Fin 96)) z20) := 
  ⟨by decide +kernel,
    by decide +kernel,
    by decide +kernel⟩

/-- States and operands that meet the hypotheses of the clauses of `ImmediateOperationResults`. -/
theorem witness_ImmediateOperationResults :
    (Issues (onCC regs) (Instr.addi (Issuer.cc (0 : Fin 96)) i1) (Issuer.cc (0 : Fin 96)) z21 ∧
    Issues (onCC regs) (Instr.andi (Issuer.cc (0 : Fin 96)) i1) (Issuer.cc (0 : Fin 96)) z22 ∧
    Issues (onCC regs) (Instr.ori (Issuer.cc (0 : Fin 96)) i1) (Issuer.cc (0 : Fin 96)) z23 ∧
    Issues (onCC regs) (Instr.xori (Issuer.cc (0 : Fin 96)) i1) (Issuer.cc (0 : Fin 96)) z24 ∧
    Issues (onCC regs) (Instr.slli (Issuer.cc (0 : Fin 96)) sh1) (Issuer.cc (0 : Fin 96)) z25 ∧
    Issues (onCC regs) (Instr.srli (Issuer.cc (0 : Fin 96)) sh1) (Issuer.cc (0 : Fin 96)) z26 ∧
    Issues (onCC regs) (Instr.srai (Issuer.cc (0 : Fin 96)) sh1) (Issuer.cc (0 : Fin 96)) z27 ∧
    Issues (onCC regs) (Instr.movl (Issuer.cc (0 : Fin 96)) l1) (Issuer.cc (0 : Fin 96)) z28) ∧
    (Issues (onCC regs) (Instr.movh (Issuer.cc (0 : Fin 96)) l1) (Issuer.cc (0 : Fin 96)) z29 ∧
    Issues (onCC regs) (Instr.addl (Issuer.cc (0 : Fin 96)) l1) (Issuer.cc (0 : Fin 96)) z30 ∧
    Issues (onCC regs) (Instr.orl (Issuer.cc (0 : Fin 96)) l1) (Issuer.cc (0 : Fin 96)) z31) := 
  ⟨by decide +kernel,
    by decide +kernel⟩

/-- States and operands that meet the hypotheses of the clauses of `PredicateResults`. -/
theorem witness_PredicateResults :
    Issues (onCC regs) (Instr.cmp (Issuer.cc (0 : Fin 96)) (pf1 (0 : BitVec 3))) (Issuer.cc (0 : Fin 96)) z51 ∧
    Issues (onCC regs) (Instr.cmpi (Issuer.cc (0 : Fin 96)) (pif1 (0 : BitVec 3))) (Issuer.cc (0 : Fin 96)) z58 ∧
    Issues (onCC regs) (Instr.plog (Issuer.cc (0 : Fin 96)) (plf (0 : BitVec 3))) (Issuer.cc (0 : Fin 96)) z60 := by decide +kernel

/-- States and operands that meet the hypotheses of the clauses of `StackAfterIssue`. -/
theorem witness_StackAfterIssue :
    0 < 32 ∧
    (∀ (x : SEntry), x ∈ [e0, e1] → x ≠ e0 → BitVec.getLsbD x.mask 0 = true → BitVec.getLsbD e0.mask 0 = false) := by decide +kernel

/-- States and operands that meet the hypotheses of the clauses of `ControlCoreGoesOn`. -/
theorem witness_ControlCoreGoesOn :
    z82.x = Issuer.cc (0 : Fin 96) ∧
    ({ (getCC (onCC regs) 0) with th := regs } : CCore).armed = false ∧
    z83.x = Issuer.cc (0 : Fin 96) ∧
    ({ (getCC z84 0) with th := regs } : CCore).armed = true := by decide +kernel

/-- States and operands that meet the hypotheses of the clauses of `BranchResults`. -/
theorem witness_BranchResults :
    Issues (onCC regs) (Instr.b (Issuer.cc (0 : Fin 96)) b1) (Issuer.cc (0 : Fin 96)) z86 ∧
    Issues (onCC regs) (Instr.call (Issuer.cc (0 : Fin 96)) b1) (Issuer.cc (0 : Fin 96)) z87 ∧
    Issues (onCC regs) (Instr.jr (Issuer.cc (0 : Fin 96)) j2) (Issuer.cc (0 : Fin 96)) z90 ∧
    (∀ (l : Nat), l ∈ active z90 j2.guard → BitVec.toNat (rdG z90.th l j2.ga.toNat + BitVec.ofInt 64 (4 * j2.imm.toInt)) % 4 = 0) ∧
    Issues (onCC regs) (Instr.jr (Issuer.cc (0 : Fin 96)) j1) (Issuer.cc (0 : Fin 96)) z89 := by decide +kernel

end Sys2Proof.Tests.P01

namespace Sys2Proof.Tests.P02

open Sys2Proof Sys2Proof.Machine Sys2Proof.Tests

def r0 : RF := ⟨0, 0, 0, 0⟩
def i1 : IF := ⟨0, 4, 6, 0x100⟩
def lwb : LF := ⟨0, 4, 0, 3, 0x80000000⟩
def sbad : SF := ⟨0, 4, 6, 7, 0⟩
def x1 : XF := ⟨0, 0, 0, 0, 0, 0⟩
def gs : Machine.State := onTC { grp regs with alloc := 16 }
def rbig : RF := ⟨0, 20, 20, 20⟩
def cq : CCore := core0 regs
def ibig : IF := ⟨0, 20, 4, 0⟩
def sbig : SF := ⟨0, 20, 4, 3, 0⟩
def z1 : Iss := view (onCC regs) (Issuer.cc (0 : Fin 96)) (wordOf (Instr.clz (Issuer.cc (0 : Fin 96)) rbig))
def z3 : Iss := view (onCC regs) (Issuer.cc (0 : Fin 96)) (wordOf (Instr.trap (Issuer.cc (0 : Fin 96)) rbig))
def z4 : Iss := view (onCC regs) (Issuer.cc (0 : Fin 96)) (wordOf (Instr.sret (Issuer.cc (0 : Fin 96)) rbig))
def z5 : Iss := view (onCC regs) (Issuer.cc (0 : Fin 96)) (wordOf (Instr.mret (Issuer.cc (0 : Fin 96)) rbig))
def z6 : Iss := view (onCC regs) (Issuer.cc (0 : Fin 96)) (wordOf (Instr.waiti (Issuer.cc (0 : Fin 96)) rbig))
def z7 : Iss := view (onCC regs) (Issuer.cc (0 : Fin 96)) (wordOf (Instr.xinv (Issuer.cc (0 : Fin 96)) rbig))
def z8 : Iss := view (onCC regs) (Issuer.cc (0 : Fin 96)) (wordOf (Instr.gbar (Issuer.cc (0 : Fin 96)) rbig))
def z9 : Iss := view (onCC regs) (Issuer.cc (0 : Fin 96)) (wordOf (Instr.watch (Issuer.cc (0 : Fin 96)) rbig))
def z11 : Iss := view (onCC regs) (Issuer.cc (0 : Fin 96)) (wordOf (Instr.srd (Issuer.cc (0 : Fin 96)) i1))
def z12 : Iss := view (onCC regs) (Issuer.cc (0 : Fin 96)) (wordOf (Instr.swr (Issuer.cc (0 : Fin 96)) i1))
def z15 : Iss := view (onCC regs) (Issuer.cc (0 : Fin 96)) (wordOf (Instr.movl (Issuer.cc (0 : Fin 96)) lwb))
def z17 : Iss := view (onCC regs) (Issuer.cc (0 : Fin 96)) (wordOf (Instr.st (Issuer.cc (0 : Fin 96)) sbad))
def z18 : Iss := view gs tc0 (wordOf (Instr.add tc0 rbig))
def z20 : Iss := view gs tc0 (wordOf (Instr.shfl tc0 rbig))
def z28 : Iss := view gs tc0 (wordOf (Instr.fadd tc0 rbig))
def z80 : Iss := view gs tc0 (wordOf (Instr.mstream tc0 x1))
def z84 : CCore := {cq with level := .user}
def z86 : Iss := view (onCC regs) (Issuer.cc (0 : Fin 96)) (wordOf (Instr.sret (Issuer.cc (0 : Fin 96)) r0))
def z87 : Iss := view (onCC regs) (Issuer.cc (0 : Fin 96)) (wordOf (Instr.mret (Issuer.cc (0 : Fin 96)) r0))
def z94 : RF := ⟨0,0,0,9⟩
def z95 : Iss := view (onCC regs) (Issuer.cc (0 : Fin 96)) (wordOf (Instr.trap (Issuer.cc (0 : Fin 96)) z94))
def z96 : Iss := view (onCC regs) (Issuer.cc (0 : Fin 96)) (wordOf (Instr.trap (Issuer.cc (0 : Fin 96)) z94))
def z97 : Iss := view (onCC regs) (Issuer.cc (0 : Fin 96)) (wordOf (Instr.brk (Issuer.cc (0 : Fin 96)) z94))
def z98 : Iss := view (onCC regs) (Issuer.cc (0 : Fin 96)) (wordOf (Instr.brk (Issuer.cc (0 : Fin 96)) z94))
def z123 : Iss := view gs tc0 (wordOf (Instr.addi tc0 ibig))
def z124 : Iss := view gs tc0 (wordOf (Instr.ld tc0 sbig))

/-- States and operands that meet the hypotheses of the clauses of `DecodeCausesTrap`. -/
theorem witness_DecodeCausesTrap :
    (issOf gs tc0 (wordOf (Instr.add tc0 rbig)) = some z18 ∧
    decodeCause gs z18 (Instr.add tc0 rbig) = some 4 ∧
    issOf (onCC regs) (Issuer.cc (0 : Fin 96)) (wordOf (Instr.clz (Issuer.cc (0 : Fin 96)) rbig)) = some z1 ∧
    decodeCause (onCC regs) z1 (Instr.clz (Issuer.cc (0 : Fin 96)) rbig) = some 1 ∧
    issOf gs tc0 (wordOf (Instr.shfl tc0 rbig)) = some z20 ∧
    decodeCause gs z20 (Instr.shfl tc0 rbig) = some 4 ∧
    issOf (onCC regs) (Issuer.cc (0 : Fin 96)) (wordOf (Instr.trap (Issuer.cc (0 : Fin 96)) rbig)) = some z3 ∧
    decodeCause (onCC regs) z3 (Instr.trap (Issuer.cc (0 : Fin 96)) rbig) = some 1) ∧
    (issOf (onCC regs) (Issuer.cc (0 : Fin 96)) (wordOf (Instr.sret (Issuer.cc (0 : Fin 96)) rbig)) = some z4 ∧
    decodeCause (onCC regs) z4 (Instr.sret (Issuer.cc (0 : Fin 96)) rbig) = some 1 ∧
    issOf (onCC regs) (Issuer.cc (0 : Fin 96)) (wordOf (Instr.mret (Issuer.cc (0 : Fin 96)) rbig)) = some z5 ∧
    decodeCause (onCC regs) z5 (Instr.mret (Issuer.cc (0 : Fin 96)) rbig) = some 1 ∧
    issOf (onCC regs) (Issuer.cc (0 : Fin 96)) (wordOf (Instr.waiti (Issuer.cc (0 : Fin 96)) rbig)) = some z6 ∧
    decodeCause (onCC regs) z6 (Instr.waiti (Issuer.cc (0 : Fin 96)) rbig) = some 1 ∧
    issOf (onCC regs) (Issuer.cc (0 : Fin 96)) (wordOf (Instr.xinv (Issuer.cc (0 : Fin 96)) rbig)) = some z7 ∧
    decodeCause (onCC regs) z7 (Instr.xinv (Issuer.cc (0 : Fin 96)) rbig) = some 1) ∧
    (issOf (onCC regs) (Issuer.cc (0 : Fin 96)) (wordOf (Instr.gbar (Issuer.cc (0 : Fin 96)) rbig)) = some z8 ∧
    decodeCause (onCC regs) z8 (Instr.gbar (Issuer.cc (0 : Fin 96)) rbig) = some 1 ∧
    issOf (onCC regs) (Issuer.cc (0 : Fin 96)) (wordOf (Instr.watch (Issuer.cc (0 : Fin 96)) rbig)) = some z9 ∧
    decodeCause (onCC regs) z9 (Instr.watch (Issuer.cc (0 : Fin 96)) rbig) = some 1 ∧
    issOf gs tc0 (wordOf (Instr.fadd tc0 rbig)) = some z28 ∧
    decodeCause gs z28 (Instr.fadd tc0 rbig) = some 4 ∧
    issOf (onCC regs) (Issuer.cc (0 : Fin 96)) (wordOf (Instr.srd (Issuer.cc (0 : Fin 96)) i1)) = some z11 ∧
    decodeCause (onCC regs) z11 (Instr.srd (Issuer.cc (0 : Fin 96)) i1) = some 1) ∧
    (issOf (onCC regs) (Issuer.cc (0 : Fin 96)) (wordOf (Instr.swr (Issuer.cc (0 : Fin 96)) i1)) = some z12 ∧
    decodeCause (onCC regs) z12 (Instr.swr (Issuer.cc (0 : Fin 96)) i1) = some 1 ∧
    issOf gs tc0 (wordOf (Instr.addi tc0 ibig)) = some z123 ∧
    decodeCause gs z123 (Instr.addi tc0 ibig) = some 4 ∧
    issOf gs tc0 (wordOf (Instr.mstream tc0 x1)) = some z80 ∧
    decodeCause gs z80 (Instr.mstream tc0 x1) = some 3 ∧
    issOf (onCC regs) (Issuer.cc (0 : Fin 96)) (wordOf (Instr.movl (Issuer.cc (0 : Fin 96)) lwb)) = some z15 ∧
    decodeCause (onCC regs) z15 (Instr.movl (Issuer.cc (0 : Fin 96)) lwb) = some 1) ∧
    (issOf gs tc0 (wordOf (Instr.ld tc0 sbig)) = some z124 ∧
    decodeCause gs z124 (Instr.ld tc0 sbig) = some 4 ∧
    issOf (onCC regs) (Issuer.cc (0 : Fin 96)) (wordOf (Instr.st (Issuer.cc (0 : Fin 96)) sbad)) = some z17 ∧
    decodeCause (onCC regs) z17 (Instr.st (Issuer.cc (0 : Fin 96)) sbad) = some 1) ∧
    (fetchBad z18 (Instr.add tc0 rbig) = none ∧
    fetchBad z1 (Instr.clz (Issuer.cc (0 : Fin 96)) rbig) = none ∧
    fetchBad z20 (Instr.shfl tc0 rbig) = none ∧
    fetchBad z3 (Instr.trap (Issuer.cc (0 : Fin 96)) rbig) = none ∧
    fetchBad z4 (Instr.sret (Issuer.cc (0 : Fin 96)) rbig) = none ∧
    fetchBad z5 (Instr.mret (Issuer.cc (0 : Fin 96)) rbig) = none) ∧
    (fetchBad z6 (Instr.waiti (Issuer.cc (0 : Fin 96)) rbig) = none ∧
    fetchBad z7 (Instr.xinv (Issuer.cc (0 : Fin 96)) rbig) = none ∧
    fetchBad z8 (Instr.gbar (Issuer.cc (0 : Fin 96)) rbig) = none ∧
    fetchBad z9 (Instr.watch (Issuer.cc (0 : Fin 96)) rbig) = none ∧
    fetchBad z28 (Instr.fadd tc0 rbig) = none ∧
    fetchBad z11 (Instr.srd (Issuer.cc (0 : Fin 96)) i1) = none) ∧
    (fetchBad z12 (Instr.swr (Issuer.cc (0 : Fin 96)) i1) = none ∧
    fetchBad z123 (Instr.addi tc0 ibig) = none ∧
    fetchBad z80 (Instr.mstream tc0 x1) = none ∧
    fetchBad z15 (Instr.movl (Issuer.cc (0 : Fin 96)) lwb) = none ∧
    fetchBad z124 (Instr.ld tc0 sbig) = none ∧
    fetchBad z17 (Instr.st (Issuer.cc (0 : Fin 96)) sbad) = none) :=
  ⟨by decide +kernel,
    by decide +kernel,
    by decide +kernel,
    by decide +kernel,
    by decide +kernel,
    by decide +kernel,
    by decide +kernel,
    by decide +kernel⟩

/-- A group and a control core whose PC cannot be fetched from. -/
def atPc (pc : W64) : Machine.State := onTC { grp regs with stack := [⟨pc, 3, .run⟩] }
def ccAt (pc : W64) : Machine.State := { up with ccs := [(0, { core0 regs with pc := pc, level := .supervisor })] }
def rf0 : RF := ⟨8, 0, 0, 0⟩
def lf0 : LF := ⟨8, 4, 0, 0, 0⟩
def vw (s : Machine.State) (x : Issuer) (i : Instr) : Iss := view s x (wordOf i)

/-- States that meet the hypotheses of the clauses of `FetchesFault`: the first word of the local-store window, a long form's
second word in it, both ends of the non-canonical range, on a throughput core and on a control core below monitor level. -/
theorem witness_FetchesFault :
    (issOf (atPc 0xFFFFFFFFFFA00000) tc0 (wordOf (.add tc0 rf0)) = some (vw (atPc 0xFFFFFFFFFFA00000) tc0 (.add tc0 rf0)) ∧
    (vw (atPc 0xFFFFFFFFFFA00000) tc0 (.add tc0 rf0)).pc = 0xFFFFFFFFFFA00000 ∧
    issOf (atPc 0xFFFFFFFFFF9FFFFC) tc0 (wordOf (.movl tc0 lf0)) = some (vw (atPc 0xFFFFFFFFFF9FFFFC) tc0 (.movl tc0 lf0)) ∧
    (vw (atPc 0xFFFFFFFFFF9FFFFC) tc0 (.movl tc0 lf0)).pc = 0xFFFFFFFFFF9FFFFC) ∧
    (issOf (atPc 0x100000000000000) tc0 (wordOf (.add tc0 rf0)) = some (vw (atPc 0x100000000000000) tc0 (.add tc0 rf0)) ∧
    (vw (atPc 0x100000000000000) tc0 (.add tc0 rf0)).pc = 0x100000000000000 ∧
    issOf (ccAt 0xFEFFFFFFFFFFFFFC) (.cc 0) (wordOf (.add (.cc 0) rf0)) =
      some (vw (ccAt 0xFEFFFFFFFFFFFFFC) (.cc 0) (.add (.cc 0) rf0)) ∧
    (vw (ccAt 0xFEFFFFFFFFFFFFFC) (.cc 0) (.add (.cc 0) rf0)).pc = 0xFEFFFFFFFFFFFFFC ∧
    (vw (ccAt 0xFEFFFFFFFFFFFFFC) (.cc 0) (.add (.cc 0) rf0)).level ≠ .monitor) :=
  ⟨by decide +kernel, by decide +kernel⟩

/-- The last word below the window can be fetched, the first word of it cannot, and a group halts there (R32). -/
theorem test_fetchWindow :
    fetchBad (vw (atPc 0xFFFFFFFFFF9FFFFC) tc0 (.add tc0 rf0)) (.add tc0 rf0) = none ∧
    fetchBad (vw (atPc 0xFFFFFFFFFFA00000) tc0 (.add tc0 rf0)) (.add tc0 rf0) = some (0xFFFFFFFFFFA00000, 5) ∧
    ((getGroup (fetchFault (atPc 0xFFFFFFFFFFA00000) (vw (atPc 0xFFFFFFFFFFA00000) tc0 (.add tc0 rf0)) (0xFFFFFFFFFFA00000, 5))
      0 0).map fun g => (g.halting, g.waiting)) = some (true, true) := by decide +kernel

/-- States and operands that meet the hypotheses of the clauses of `ControlCoreTrap`. -/
theorem witness_ControlCoreTrap :
    (decide (cq.level = Level.monitor) || !BitVec.getLsbD cq.mdeleg 11) = true ∧
    (decide (z84.level = Level.monitor) || !BitVec.getLsbD z84.mdeleg 11) = false := by decide +kernel

/-- States and operands that meet the hypotheses of the clauses of `ReturnsFromTraps`. -/
theorem witness_ReturnsFromTraps :
    active z86 r0.guard ≠ [] ∧
    (getCC (onCC regs) 0).armed = false ∧
    Issues (onCC regs) (Instr.sret (Issuer.cc (0 : Fin 96)) r0) (Issuer.cc (0 : Fin 96)) z86 ∧
    active z87 r0.guard ≠ [] ∧
    Issues (onCC regs) (Instr.mret (Issuer.cc (0 : Fin 96)) r0) (Issuer.cc (0 : Fin 96)) z87 := by decide +kernel

/-- States and operands that meet the hypotheses of the clauses of `CallsTrap`. -/
theorem witness_CallsTrap :
    active z95 z94.guard ≠ [] ∧
    Issues (onCC regs) (Instr.trap (Issuer.cc (0 : Fin 96)) z94) (Issuer.cc (0 : Fin 96)) z95 ∧
    active z96 z94.guard ≠ [] ∧
    Issues (onCC regs) (Instr.trap (Issuer.cc (0 : Fin 96)) z94) (Issuer.cc (0 : Fin 96)) z96 ∧
    active z97 z94.guard ≠ [] ∧
    Issues (onCC regs) (Instr.brk (Issuer.cc (0 : Fin 96)) z94) (Issuer.cc (0 : Fin 96)) z97 ∧
    active z98 z94.guard ≠ [] ∧
    Issues (onCC regs) (Instr.brk (Issuer.cc (0 : Fin 96)) z94) (Issuer.cc (0 : Fin 96)) z98 := by decide +kernel

/-- States and operands that meet the hypotheses of the clauses of `GroupTraps`. -/
theorem witness_GroupTraps :
    getGroup (onTC (grp regs)) (coreKey (0 : Fin 4) (0 : Fin 24)) 0 = some (grp regs) := by decide +kernel

end Sys2Proof.Tests.P02

namespace Sys2Proof.Tests.P03

open Sys2Proof Sys2Proof.Machine Sys2Proof.Tests

def fr : Threads := { gpr := [(4, 0x3FC00000), (5, 0x7F800001), (6, 0x40000000), (7, 0x3F800001), (64+4, 3), (64+6,0x80000001), (64+7,0x7FC00000)], fcsr := [(0,1)] }
def r1 : RF := ⟨0, 4, 6, 7⟩
def r2 : RF := ⟨0, 4, 6, 0⟩
def pf (k : BitVec 3) : PF := ⟨0, 1, k, 6, 7, 0⟩
def z0 : Iss := view (onCC fr) (Issuer.cc (0 : Fin 96)) (wordOf (Instr.fadd (Issuer.cc (0 : Fin 96)) r1))
def z1 : Iss := view (onCC fr) (Issuer.cc (0 : Fin 96)) (wordOf (Instr.fsub (Issuer.cc (0 : Fin 96)) r1))
def z2 : Iss := view (onCC fr) (Issuer.cc (0 : Fin 96)) (wordOf (Instr.fmul (Issuer.cc (0 : Fin 96)) r1))
def z3 : Iss := view (onCC fr) (Issuer.cc (0 : Fin 96)) (wordOf (Instr.fma (Issuer.cc (0 : Fin 96)) r1))
def z4 : Iss := view (onCC fr) (Issuer.cc (0 : Fin 96)) (wordOf (Instr.fdiv (Issuer.cc (0 : Fin 96)) r1))
def z6 : Iss := view (onCC fr) (Issuer.cc (0 : Fin 96)) (wordOf (Instr.fmin (Issuer.cc (0 : Fin 96)) r1))
def z7 : Iss := view (onCC fr) (Issuer.cc (0 : Fin 96)) (wordOf (Instr.fmax (Issuer.cc (0 : Fin 96)) r1))
def z15 : Iss := view (onCC fr) (Issuer.cc (0 : Fin 96)) (wordOf (Instr.fsqrt (Issuer.cc (0 : Fin 96)) r2))
def z18 : Iss := view (onCC fr) (Issuer.cc (0 : Fin 96)) (wordOf (Instr.fcvtI (Issuer.cc (0 : Fin 96)) r2))
def z19 : Iss := view (onCC fr) (Issuer.cc (0 : Fin 96)) (wordOf (Instr.fcvtF (Issuer.cc (0 : Fin 96)) r2))
def z20 : Iss := view (onCC fr) (Issuer.cc (0 : Fin 96)) (wordOf (Instr.fcmp (Issuer.cc (0 : Fin 96)) (pf (0 : BitVec 3))))

/-- States and operands that meet the hypotheses of the clauses of `FloatResults`. -/
theorem witness_FloatResults :
    (Issues (onCC fr) (Instr.fadd (Issuer.cc (0 : Fin 96)) r1) (Issuer.cc (0 : Fin 96)) z0 ∧
    Issues (onCC fr) (Instr.fsub (Issuer.cc (0 : Fin 96)) r1) (Issuer.cc (0 : Fin 96)) z1 ∧
    Issues (onCC fr) (Instr.fmul (Issuer.cc (0 : Fin 96)) r1) (Issuer.cc (0 : Fin 96)) z2 ∧
    Issues (onCC fr) (Instr.fma (Issuer.cc (0 : Fin 96)) r1) (Issuer.cc (0 : Fin 96)) z3 ∧
    Issues (onCC fr) (Instr.fdiv (Issuer.cc (0 : Fin 96)) r1) (Issuer.cc (0 : Fin 96)) z4 ∧
    Issues (onCC fr) (Instr.fsqrt (Issuer.cc (0 : Fin 96)) r2) (Issuer.cc (0 : Fin 96)) z15 ∧
    Issues (onCC fr) (Instr.fmin (Issuer.cc (0 : Fin 96)) r1) (Issuer.cc (0 : Fin 96)) z6 ∧
    Issues (onCC fr) (Instr.fmax (Issuer.cc (0 : Fin 96)) r1) (Issuer.cc (0 : Fin 96)) z7) ∧
    (Issues (onCC fr) (Instr.fcvtI (Issuer.cc (0 : Fin 96)) r2) (Issuer.cc (0 : Fin 96)) z18 ∧
    Issues (onCC fr) (Instr.fcvtF (Issuer.cc (0 : Fin 96)) r2) (Issuer.cc (0 : Fin 96)) z19 ∧
    Issues (onCC fr) (Instr.fcmp (Issuer.cc (0 : Fin 96)) (pf (0 : BitVec 3))) (Issuer.cc (0 : Fin 96)) z20) := 
  ⟨by decide +kernel,
    by decide +kernel⟩

/-- States and operands that meet the hypotheses of the clauses of `FloatSpecialValues`. -/
theorem witness_FloatSpecialValues :
    (decide (BitVec.toNat (2139095041 : W32) / 2 ^ 23 % 256 = 255) && decide (BitVec.toNat (2139095041 : W32) % 2 ^ 23 ≠ 0) || decide (BitVec.toNat (1065353216 : W32) / 2 ^ 23 % 256 = 255) && decide (BitVec.toNat (1065353216 : W32) % 2 ^ 23 ≠ 0)) = true ∧
    (decide (BitVec.toNat (2139095041 : W32) / 2 ^ 23 % 256 = 255) && decide (BitVec.toNat (2139095041 : W32) % 2 ^ 23 ≠ 0)) = true ∧
    (decide (BitVec.toNat (2147483648 : W32) / 2 ^ 23 % 256 = 255) && decide (BitVec.toNat (2147483648 : W32) % 2 ^ 23 = 0) && decide (BitVec.toNat (2139095040 : W32) % 2 ^ 31 = 0) || decide (BitVec.toNat (2147483648 : W32) % 2 ^ 31 = 0) && (decide (BitVec.toNat (2139095040 : W32) / 2 ^ 23 % 256 = 255) && decide (BitVec.toNat (2139095040 : W32) % 2 ^ 23 = 0))) = true := by decide +kernel

end Sys2Proof.Tests.P03

namespace Sys2Proof.Tests.P04

open Sys2Proof Sys2Proof.Machine Sys2Proof.Tests

def pa : Nat := 0x20000000
def mr : Threads := { gpr := [(4, 0x1122334455667788), (5, 0x99AABBCCDDEEFF00), (6, 0x20000010), (7, 3)] }
def sm (q : CCore) : Machine.State := { up with ccs := [(0, q)], mem := mwriteN [] (pa + 8) [1,2,3,0x84,5,6,7,0x88,9,10,11,12,13,14,15,16] }
def s0 : Machine.State := sm (core0 mr)
def sf (z : BitVec 3) : SF := ⟨0, 4, 6, z, 0x7F⟩
def sc (z : BitVec 3) : ScF := ⟨3, 0, 4, 6, z, 0x7F⟩
def rz : RF := ⟨0,0,0,0⟩
def p1 : PStore := { thread := agentCC 0 * 4096, ctx := 0, part := 0, sys := true, pa := pa + 16, bytes := [9, 8] }
def rs : RF := ⟨0, 4, 6, 7⟩
def z0 : Iss := view s0 (Issuer.cc (0 : Fin 96)) (wordOf (Instr.ld (Issuer.cc (0 : Fin 96)) (sf (0 : BitVec 3))))
def z1 : Iss := view s0 (Issuer.cc (0 : Fin 96)) (wordOf (Instr.ldv (Issuer.cc (0 : Fin 96)) (sf (0 : BitVec 3))))
def z8 : Iss := view s0 (Issuer.cc (0 : Fin 96)) (wordOf (Instr.ldres (Issuer.cc (0 : Fin 96)) (sf (2 : BitVec 3))))
def z18 : Iss := view s0 (Issuer.cc (0 : Fin 96)) (wordOf (Instr.acq (Issuer.cc (0 : Fin 96)) (sc (0 : BitVec 3))))
def z22 : Iss := view s0 (Issuer.cc (0 : Fin 96)) (wordOf (Instr.st (Issuer.cc (0 : Fin 96)) (sf (3 : BitVec 3))))
def z23 : Iss := view s0 (Issuer.cc (0 : Fin 96)) (wordOf (Instr.rel (Issuer.cc (0 : Fin 96)) (sc (3 : BitVec 3))))
def z24 : Instr := (.bars (.cc 0) rz : Instr)
def z25 : State := sm { core0 mr with sb := [p1] }
def z26 : Iss := view z25 (Issuer.cc (0 : Fin 96)) (wordOf z24)
def z30 : Iss := view s0 (Issuer.cc (0 : Fin 96)) (wordOf (Instr.stcond (Issuer.cc (0 : Fin 96)) rs true))
def z36 : AF := ⟨3, 0, 4, 6, 7, true⟩
def z37 : Iss := view s0 (Issuer.cc (0 : Fin 96)) (wordOf (Instr.amoAdd (Issuer.cc (0 : Fin 96)) z36))
def z38 : Iss := view s0 (Issuer.cc (0 : Fin 96)) (wordOf (Instr.amoAnd (Issuer.cc (0 : Fin 96)) z36))
def z39 : Iss := view s0 (Issuer.cc (0 : Fin 96)) (wordOf (Instr.amoOr (Issuer.cc (0 : Fin 96)) z36))
def z40 : Iss := view s0 (Issuer.cc (0 : Fin 96)) (wordOf (Instr.amoXor (Issuer.cc (0 : Fin 96)) z36))
def z41 : Iss := view s0 (Issuer.cc (0 : Fin 96)) (wordOf (Instr.amoMin (Issuer.cc (0 : Fin 96)) z36))
def z42 : Iss := view s0 (Issuer.cc (0 : Fin 96)) (wordOf (Instr.amoMax (Issuer.cc (0 : Fin 96)) z36))
def z43 : Iss := view s0 (Issuer.cc (0 : Fin 96)) (wordOf (Instr.amoSwap (Issuer.cc (0 : Fin 96)) z36))
def z44 : Iss := view s0 (Issuer.cc (0 : Fin 96)) (wordOf (Instr.amoCas (Issuer.cc (0 : Fin 96)) z36))
def z45 : Iss := view s0 (Issuer.cc (0 : Fin 96)) (wordOf (Instr.amoMinu (Issuer.cc (0 : Fin 96)) z36))
def z46 : Iss := view s0 (Issuer.cc (0 : Fin 96)) (wordOf (Instr.amoMaxu (Issuer.cc (0 : Fin 96)) z36))
def z48 : AF := ⟨3, 0, 4, 6, 7, false⟩
def z59 : Iss := view s0 (Issuer.cc (0 : Fin 96)) (wordOf (Instr.amoFadd (Issuer.cc (0 : Fin 96)) z48))

/-- States and operands that meet the hypotheses of the clauses of `MonitorLoads`. -/
theorem witness_MonitorLoads :
    MonitorRuns s0 (Instr.ld (Issuer.cc (0 : Fin 96)) (sf (0 : BitVec 3))) (0 : Fin 96) z0 (sf (0 : BitVec 3)).guard ∧
    MonitorReach s0 (0 : Fin 96) (BitVec.toNat (rdG z0.th 0 (sf (0 : BitVec 3)).ga.toNat + BitVec.ofInt 64 ((sf (0 : BitVec 3)).imm.toInt * (↑(szBytes (sf (0 : BitVec 3)).sz) : Int)))) (szBytes (sf (0 : BitVec 3)).sz) false ∧
    MonitorRuns s0 (Instr.ldv (Issuer.cc (0 : Fin 96)) (sf (0 : BitVec 3))) (0 : Fin 96) z1 (sf (0 : BitVec 3)).guard ∧
    MonitorReach s0 (0 : Fin 96) (BitVec.toNat (rdG z1.th 0 (sf (0 : BitVec 3)).ga.toNat + BitVec.ofInt 64 ((sf (0 : BitVec 3)).imm.toInt * (↑(szBytes (sf (0 : BitVec 3)).sz) : Int)))) (szBytes (sf (0 : BitVec 3)).sz) false ∧
    MonitorRuns s0 (Instr.ldres (Issuer.cc (0 : Fin 96)) (sf (2 : BitVec 3))) (0 : Fin 96) z8 (sf (2 : BitVec 3)).guard ∧
    MonitorReach s0 (0 : Fin 96) (BitVec.toNat (rdG z8.th 0 (sf (2 : BitVec 3)).ga.toNat + BitVec.ofInt 64 ((sf (2 : BitVec 3)).imm.toInt * (↑(szBytes (sf (2 : BitVec 3)).sz) : Int)))) (szBytes (sf (2 : BitVec 3)).sz) false ∧
    MonitorRuns s0 (Instr.acq (Issuer.cc (0 : Fin 96)) (sc (0 : BitVec 3))) (0 : Fin 96) z18 (sc (0 : BitVec 3)).guard ∧
    MonitorReach s0 (0 : Fin 96) (BitVec.toNat (rdG z18.th 0 (sc (0 : BitVec 3)).ga.toNat + BitVec.ofInt 64 ((sc (0 : BitVec 3)).imm.toInt * (↑(szBytes (sc (0 : BitVec 3)).sz) : Int)))) (szBytes (sc (0 : BitVec 3)).sz) false := by decide +kernel

/-- States and operands that meet the hypotheses of the clauses of `MonitorStores`. -/
theorem witness_MonitorStores :
    (MonitorRuns s0 (Instr.st (Issuer.cc (0 : Fin 96)) (sf (3 : BitVec 3))) (0 : Fin 96) z22 (sf (3 : BitVec 3)).guard ∧
    MonitorReach s0 (0 : Fin 96) (BitVec.toNat (rdG z22.th 0 (sf (3 : BitVec 3)).ga.toNat + BitVec.ofInt 64 ((sf (3 : BitVec 3)).imm.toInt * (↑(szBytes (sf (3 : BitVec 3)).sz) : Int)))) (szBytes (sf (3 : BitVec 3)).sz) true ∧
    MonitorRuns s0 (Instr.rel (Issuer.cc (0 : Fin 96)) (sc (3 : BitVec 3))) (0 : Fin 96) z23 (sc (3 : BitVec 3)).guard ∧
    MonitorReach s0 (0 : Fin 96) (BitVec.toNat (rdG z23.th 0 (sc (3 : BitVec 3)).ga.toNat + BitVec.ofInt 64 ((sc (3 : BitVec 3)).imm.toInt * (↑(szBytes (sc (3 : BitVec 3)).sz) : Int)))) (szBytes (sc (3 : BitVec 3)).sz) true ∧
    (z24 = Instr.bars (Issuer.cc (0 : Fin 96)) rz ∨ z24 = Instr.barf (Issuer.cc (0 : Fin 96)) rz ∧ (getCC z25 0).xinv = []) ∧
    Issues z25 z24 (Issuer.cc (0 : Fin 96)) z26 ∧
    active z26 rz.guard = [0] ∧
    (getCC z25 0).armed = false) ∧
    ((getCC z25 0).sb = [p1] ∧
    (∀ (r : OutReq), r ∈ z25.fabric.out → r.who ≠ Issuer.cc (0 : Fin 96)) ∧
    lineDeferred z25 (agentCC 0 * 4096) (p1.pa / 128) = false ∧
    NoSilt z25 p1.pa) := 
  ⟨by decide +kernel,
    by decide +kernel⟩

/-- States and operands that meet the hypotheses of the clauses of `MonitorConditionalStores`. -/
theorem witness_MonitorConditionalStores :
    MonitorRuns s0 (Instr.stcond (Issuer.cc (0 : Fin 96)) rs true) (0 : Fin 96) z30 rs.guard ∧
    MonitorReach s0 (0 : Fin 96) (BitVec.toNat (rdG z30.th 0 rs.ga.toNat)) (if true = true then 8 else 4) true ∧
    NoSilt s0 (BitVec.toNat (rdG z30.th 0 rs.ga.toNat)) := by decide +kernel

/-- States and operands that meet the hypotheses of the clauses of `MonitorAtomics`. -/
theorem witness_MonitorAtomics :
    (MonitorRuns s0 (Instr.amoAdd (Issuer.cc (0 : Fin 96)) z36) (0 : Fin 96) z37 z36.guard ∧
    MonitorReach s0 (0 : Fin 96) (BitVec.toNat (rdG z37.th 0 z36.ga.toNat)) (if z36.dbl = true then 8 else 4) true ∧
    NoSilt s0 (BitVec.toNat (rdG z37.th 0 z36.ga.toNat)) ∧
    MonitorRuns s0 (Instr.amoAnd (Issuer.cc (0 : Fin 96)) z36) (0 : Fin 96) z38 z36.guard ∧
    MonitorReach s0 (0 : Fin 96) (BitVec.toNat (rdG z38.th 0 z36.ga.toNat)) (if z36.dbl = true then 8 else 4) true ∧
    NoSilt s0 (BitVec.toNat (rdG z38.th 0 z36.ga.toNat)) ∧
    MonitorRuns s0 (Instr.amoOr (Issuer.cc (0 : Fin 96)) z36) (0 : Fin 96) z39 z36.guard ∧
    MonitorReach s0 (0 : Fin 96) (BitVec.toNat (rdG z39.th 0 z36.ga.toNat)) (if z36.dbl = true then 8 else 4) true) ∧
    (NoSilt s0 (BitVec.toNat (rdG z39.th 0 z36.ga.toNat)) ∧
    MonitorRuns s0 (Instr.amoXor (Issuer.cc (0 : Fin 96)) z36) (0 : Fin 96) z40 z36.guard ∧
    MonitorReach s0 (0 : Fin 96) (BitVec.toNat (rdG z40.th 0 z36.ga.toNat)) (if z36.dbl = true then 8 else 4) true ∧
    NoSilt s0 (BitVec.toNat (rdG z40.th 0 z36.ga.toNat)) ∧
    MonitorRuns s0 (Instr.amoMin (Issuer.cc (0 : Fin 96)) z36) (0 : Fin 96) z41 z36.guard ∧
    MonitorReach s0 (0 : Fin 96) (BitVec.toNat (rdG z41.th 0 z36.ga.toNat)) (if z36.dbl = true then 8 else 4) true ∧
    NoSilt s0 (BitVec.toNat (rdG z41.th 0 z36.ga.toNat)) ∧
    MonitorRuns s0 (Instr.amoMax (Issuer.cc (0 : Fin 96)) z36) (0 : Fin 96) z42 z36.guard) ∧
    (MonitorReach s0 (0 : Fin 96) (BitVec.toNat (rdG z42.th 0 z36.ga.toNat)) (if z36.dbl = true then 8 else 4) true ∧
    NoSilt s0 (BitVec.toNat (rdG z42.th 0 z36.ga.toNat)) ∧
    MonitorRuns s0 (Instr.amoSwap (Issuer.cc (0 : Fin 96)) z36) (0 : Fin 96) z43 z36.guard ∧
    MonitorReach s0 (0 : Fin 96) (BitVec.toNat (rdG z43.th 0 z36.ga.toNat)) (if z36.dbl = true then 8 else 4) true ∧
    NoSilt s0 (BitVec.toNat (rdG z43.th 0 z36.ga.toNat)) ∧
    MonitorRuns s0 (Instr.amoCas (Issuer.cc (0 : Fin 96)) z36) (0 : Fin 96) z44 z36.guard ∧
    MonitorReach s0 (0 : Fin 96) (BitVec.toNat (rdG z44.th 0 z36.ga.toNat)) (if z36.dbl = true then 8 else 4) true ∧
    NoSilt s0 (BitVec.toNat (rdG z44.th 0 z36.ga.toNat))) ∧
    (MonitorRuns s0 (Instr.amoMinu (Issuer.cc (0 : Fin 96)) z36) (0 : Fin 96) z45 z36.guard ∧
    MonitorReach s0 (0 : Fin 96) (BitVec.toNat (rdG z45.th 0 z36.ga.toNat)) (if z36.dbl = true then 8 else 4) true ∧
    NoSilt s0 (BitVec.toNat (rdG z45.th 0 z36.ga.toNat)) ∧
    MonitorRuns s0 (Instr.amoMaxu (Issuer.cc (0 : Fin 96)) z36) (0 : Fin 96) z46 z36.guard ∧
    MonitorReach s0 (0 : Fin 96) (BitVec.toNat (rdG z46.th 0 z36.ga.toNat)) (if z36.dbl = true then 8 else 4) true ∧
    NoSilt s0 (BitVec.toNat (rdG z46.th 0 z36.ga.toNat)) ∧
    MonitorRuns s0 (Instr.amoFadd (Issuer.cc (0 : Fin 96)) z48) (0 : Fin 96) z59 z48.guard ∧
    MonitorReach s0 (0 : Fin 96) (BitVec.toNat (rdG z59.th 0 z48.ga.toNat)) (if z48.dbl = true then 8 else 4) true) ∧
    (NoSilt s0 (BitVec.toNat (rdG z59.th 0 z48.ga.toNat))) := 
  ⟨by decide +kernel,
    by decide +kernel,
    by decide +kernel,
    by decide +kernel,
    by decide +kernel⟩

end Sys2Proof.Tests.P04

namespace Sys2Proof.Tests.P05

open Sys2Proof Sys2Proof.Machine Sys2Proof.Tests

def win : Nat := 2 ^ 64 - 6 * 2 ^ 20
def lr : Threads := { gpr := [(4, 0x1122334455667788), (6, BitVec.ofNat 64 (win + 16)), (64+4, 5), (64+6, BitVec.ofNat 64 (win + 16))] }
def gl : Machine.State := { onTC (grp lr) with cores := [(0, { groups := [(0, grp lr)], ls := mwriteN [] 8 [1,2,3,0x84,5,6,7,0x88,9,10,11,12] })] }
def sf (z : BitVec 3) : SF := ⟨0, 4, 6, z, 0x7F⟩
def sc (z : BitVec 3) : ScF := ⟨3, 0, 4, 6, z, 0x7F⟩
def mr : Threads := { gpr := [(4, 0x1122334455667788), (5, 0x99AABBCCDDEEFF00), (6, 0x20000001), (7, 3)] }
def rz : RF := ⟨0,0,0,0⟩
def gco : Group := {grp lr with cid := 1}
def gc : Machine.State := { onTC (grp lr) with cores := [(0, { groups := [(0, gco)], cohorts := [{id := 1, ctx := 1, slots := [0]}]})] }
def z4 : Iss := view gl (Issuer.tc (0 : Fin 4) (0 : Fin 24) (0 : Fin 128)) (wordOf (Instr.ld (Issuer.tc (0 : Fin 4) (0 : Fin 24) (0 : Fin 128)) (sf (3 : BitVec 3))))
def z5 : Iss := view gl (Issuer.tc (0 : Fin 4) (0 : Fin 24) (0 : Fin 128)) (wordOf (Instr.ldv (Issuer.tc (0 : Fin 4) (0 : Fin 24) (0 : Fin 128)) (sf (3 : BitVec 3))))
def z6 : Iss := view gl (Issuer.tc (0 : Fin 4) (0 : Fin 24) (0 : Fin 128)) (wordOf (Instr.st (Issuer.tc (0 : Fin 4) (0 : Fin 24) (0 : Fin 128)) (sf (3 : BitVec 3))))
def z7 : Iss := view gl (Issuer.tc (0 : Fin 4) (0 : Fin 24) (0 : Fin 128)) (wordOf (Instr.acq (Issuer.tc (0 : Fin 4) (0 : Fin 24) (0 : Fin 128)) (sc (3 : BitVec 3))))
def z8 : Iss := view gl (Issuer.tc (0 : Fin 4) (0 : Fin 24) (0 : Fin 128)) (wordOf (Instr.rel (Issuer.tc (0 : Fin 4) (0 : Fin 24) (0 : Fin 128)) (sc (3 : BitVec 3))))
def z24 : Iss := view (onCC mr) (Issuer.cc (0 : Fin 96)) (wordOf (Instr.ld (Issuer.cc (0 : Fin 96)) (sf (3 : BitVec 3))))
def z25 : Iss := view (onCC mr) (Issuer.cc (0 : Fin 96)) (wordOf (Instr.st (Issuer.cc (0 : Fin 96)) (sf (3 : BitVec 3))))
def z26 : Iss := view (onCC mr) (Issuer.cc (0 : Fin 96)) (wordOf (Instr.ldv (Issuer.cc (0 : Fin 96)) (sf (3 : BitVec 3))))
def z27 : Iss := view (onCC mr) (Issuer.cc (0 : Fin 96)) (wordOf (Instr.ldres (Issuer.cc (0 : Fin 96)) (sf (3 : BitVec 3))))
def z28 : Iss := view (onCC mr) (Issuer.cc (0 : Fin 96)) (wordOf (Instr.acq (Issuer.cc (0 : Fin 96)) (sc (3 : BitVec 3))))
def z29 : Iss := view (onCC mr) (Issuer.cc (0 : Fin 96)) (wordOf (Instr.rel (Issuer.cc (0 : Fin 96)) (sc (3 : BitVec 3))))
def z30 : AF := (⟨3, 0, 4, 6, 7, true⟩:AF)
def z31 : Iss := view (onCC mr) (Issuer.cc (0 : Fin 96)) (wordOf (Instr.amoAdd (Issuer.cc (0 : Fin 96)) z30))
def z32 : Iss := view (onCC mr) (Issuer.cc (0 : Fin 96)) (wordOf (Instr.amoCas (Issuer.cc (0 : Fin 96)) z30))
def z33 : Iss := view (onCC mr) (Issuer.cc (0 : Fin 96)) (wordOf (Instr.barl (Issuer.cc (0 : Fin 96)) rz))
def z34 : Iss := view (onCC mr) (Issuer.cc (0 : Fin 96)) (wordOf (Instr.isync (Issuer.cc (0 : Fin 96)) rz))
def z37 : Iss := view (onTC (grp lr)) (Issuer.tc (0 : Fin 4) (0 : Fin 24) (0 : Fin 128)) (wordOf (Instr.gbar (Issuer.tc (0 : Fin 4) (0 : Fin 24) (0 : Fin 128)) rz))
def z38 : Iss := view (onTC (grp lr)) (Issuer.tc (0 : Fin 4) (0 : Fin 24) (0 : Fin 128)) (wordOf (Instr.gbar (Issuer.tc (0 : Fin 4) (0 : Fin 24) (0 : Fin 128)) rz))
def z39 : Iss := view (onTC (grp lr)) (Issuer.tc (0 : Fin 4) (0 : Fin 24) (0 : Fin 128)) (wordOf (Instr.cbar (Issuer.tc (0 : Fin 4) (0 : Fin 24) (0 : Fin 128)) rz))
def z44 : Iss := view gc (Issuer.tc (0 : Fin 4) (0 : Fin 24) (0 : Fin 128)) (wordOf (Instr.cbar (Issuer.tc (0 : Fin 4) (0 : Fin 24) (0 : Fin 128)) rz))
def z3 : Nat → Nat := fun l => (rdG z4.th l 6 + BitVec.ofInt 64 (-8)).toNat

/-- States and operands that meet the hypotheses of the clauses of `LocalStoreWindow`. -/
theorem witness_LocalStoreWindow :
    (Issues gl (Instr.ld (Issuer.tc (0 : Fin 4) (0 : Fin 24) (0 : Fin 128)) (sf (3 : BitVec 3))) (Issuer.tc (0 : Fin 4) (0 : Fin 24) (0 : Fin 128)) z4) ∧
    (((getCore gl (coreKey (0 : Fin 4) (0 : Fin 24))).port = [] ∧ (∀ (r : OutReq), r ∈ gl.fabric.out → r.who ≠ Issuer.tc (0 : Fin 4) (0 : Fin 24) (0 : Fin 128)) ∧ (getCore gl (coreKey (0 : Fin 4) (0 : Fin 24))).ls.wf = true)) ∧
    ((sf (3 : BitVec 3)).sz ≠ (4 : BitVec 3)) ∧
    (8 = szBytes (sf (3 : BitVec 3)).sz) ∧
    ((∀ (l : Nat), l ∈ active z4 (sf (3 : BitVec 3)).guard → 2 ^ 64 - 6 * 2 ^ 20 ≤ z3 l ∧ z3 l % 8 = 0)) ∧
    (Issues gl (Instr.ldv (Issuer.tc (0 : Fin 4) (0 : Fin 24) (0 : Fin 128)) (sf (3 : BitVec 3))) (Issuer.tc (0 : Fin 4) (0 : Fin 24) (0 : Fin 128)) z5) ∧
    ((∀ (l : Nat), l ∈ active z5 (sf (3 : BitVec 3)).guard → 2 ^ 64 - 6 * 2 ^ 20 ≤ z3 l ∧ z3 l % 8 = 0)) ∧
    (Issues gl (Instr.st (Issuer.tc (0 : Fin 4) (0 : Fin 24) (0 : Fin 128)) (sf (3 : BitVec 3))) (Issuer.tc (0 : Fin 4) (0 : Fin 24) (0 : Fin 128)) z6) ∧
    ((∀ (l : Nat), l ∈ active z6 (sf (3 : BitVec 3)).guard → 2 ^ 64 - 6 * 2 ^ 20 ≤ z3 l ∧ z3 l % 8 = 0)) ∧
    (Issues gl (Instr.acq (Issuer.tc (0 : Fin 4) (0 : Fin 24) (0 : Fin 128)) (sc (3 : BitVec 3))) (Issuer.tc (0 : Fin 4) (0 : Fin 24) (0 : Fin 128)) z7) ∧
    ((sc (3 : BitVec 3)).sz ≠ (4 : BitVec 3)) ∧
    (8 = szBytes (sc (3 : BitVec 3)).sz) ∧
    ((∀ (l : Nat), l ∈ active z7 (sc (3 : BitVec 3)).guard → 2 ^ 64 - 6 * 2 ^ 20 ≤ z3 l ∧ z3 l % 8 = 0)) ∧
    (Issues gl (Instr.rel (Issuer.tc (0 : Fin 4) (0 : Fin 24) (0 : Fin 128)) (sc (3 : BitVec 3))) (Issuer.tc (0 : Fin 4) (0 : Fin 24) (0 : Fin 128)) z8) ∧
    ((∀ (l : Nat), l ∈ active z8 (sc (3 : BitVec 3)).guard → 2 ^ 64 - 6 * 2 ^ 20 ≤ z3 l ∧ z3 l % 8 = 0)) ∧
    (∀ (l : Nat), z3 l = BitVec.toNat (rdG z4.th l (sf (3 : BitVec 3)).ga.toNat + BitVec.ofInt 64 ((sf (3 : BitVec 3)).imm.toInt * (↑8 : Int)))) ∧
    (∀ (l : Nat), z3 l = BitVec.toNat (rdG z5.th l (sf (3 : BitVec 3)).ga.toNat + BitVec.ofInt 64 ((sf (3 : BitVec 3)).imm.toInt * (↑8 : Int)))) ∧
    (∀ (l : Nat), z3 l = BitVec.toNat (rdG z6.th l (sf (3 : BitVec 3)).ga.toNat + BitVec.ofInt 64 ((sf (3 : BitVec 3)).imm.toInt * (↑8 : Int)))) ∧
    (∀ (l : Nat), z3 l = BitVec.toNat (rdG z7.th l (sc (3 : BitVec 3)).ga.toNat + BitVec.ofInt 64 ((sc (3 : BitVec 3)).imm.toInt * (↑8 : Int)))) ∧
    (∀ (l : Nat), z3 l = BitVec.toNat (rdG z8.th l (sc (3 : BitVec 3)).ga.toNat + BitVec.ofInt 64 ((sc (3 : BitVec 3)).imm.toInt * (↑8 : Int)))) := 
  ⟨by decide +kernel,
    by decide +kernel,
    by decide +kernel,
    by decide +kernel,
    by decide +kernel,
    by decide +kernel,
    by decide +kernel,
    by decide +kernel,
    by decide +kernel,
    by decide +kernel,
    by decide +kernel,
    by decide +kernel,
    by decide +kernel,
    by decide +kernel,
    by decide +kernel,
    fun _ => rfl,
    fun _ => rfl,
    fun _ => rfl,
    fun _ => rfl,
    fun _ => rfl⟩

/-- States and operands that meet the hypotheses of the clauses of `MisalignedAccessesTrap`. -/
theorem witness_MisalignedAccessesTrap :
    (536870905 = BitVec.toNat (rdG z24.th 0 (sf (3 : BitVec 3)).ga.toNat + BitVec.ofInt 64 ((sf (3 : BitVec 3)).imm.toInt * (↑(szBytes (sf (3 : BitVec 3)).sz) : Int))) ∧
    Issues (onCC mr) (Instr.ld (Issuer.cc (0 : Fin 96)) (sf (3 : BitVec 3))) (Issuer.cc (0 : Fin 96)) z24 ∧
    active z24 (sf (3 : BitVec 3)).guard = [0] ∧
    (getCC (onCC mr) 0).sb = [] ∧
    536870905 % szBytes (sf (3 : BitVec 3)).sz ≠ 0 ∧
    536870905 = BitVec.toNat (rdG z25.th 0 (sf (3 : BitVec 3)).ga.toNat + BitVec.ofInt 64 ((sf (3 : BitVec 3)).imm.toInt * (↑(szBytes (sf (3 : BitVec 3)).sz) : Int))) ∧
    Issues (onCC mr) (Instr.st (Issuer.cc (0 : Fin 96)) (sf (3 : BitVec 3))) (Issuer.cc (0 : Fin 96)) z25 ∧
    active z25 (sf (3 : BitVec 3)).guard = [0]) ∧
    (536870905 = BitVec.toNat (rdG z26.th 0 (sf (3 : BitVec 3)).ga.toNat + BitVec.ofInt 64 ((sf (3 : BitVec 3)).imm.toInt * (↑(szBytes (sf (3 : BitVec 3)).sz) : Int))) ∧
    Issues (onCC mr) (Instr.ldv (Issuer.cc (0 : Fin 96)) (sf (3 : BitVec 3))) (Issuer.cc (0 : Fin 96)) z26 ∧
    active z26 (sf (3 : BitVec 3)).guard = [0] ∧
    536870905 = BitVec.toNat (rdG z27.th 0 (sf (3 : BitVec 3)).ga.toNat + BitVec.ofInt 64 ((sf (3 : BitVec 3)).imm.toInt * (↑(szBytes (sf (3 : BitVec 3)).sz) : Int))) ∧
    Issues (onCC mr) (Instr.ldres (Issuer.cc (0 : Fin 96)) (sf (3 : BitVec 3))) (Issuer.cc (0 : Fin 96)) z27 ∧
    active z27 (sf (3 : BitVec 3)).guard = [0] ∧
    536870905 = BitVec.toNat (rdG z28.th 0 (sc (3 : BitVec 3)).ga.toNat + BitVec.ofInt 64 ((sc (3 : BitVec 3)).imm.toInt * (↑(szBytes (sc (3 : BitVec 3)).sz) : Int))) ∧
    Issues (onCC mr) (Instr.acq (Issuer.cc (0 : Fin 96)) (sc (3 : BitVec 3))) (Issuer.cc (0 : Fin 96)) z28) ∧
    (active z28 (sc (3 : BitVec 3)).guard = [0] ∧
    536870905 % szBytes (sc (3 : BitVec 3)).sz ≠ 0 ∧
    536870905 = BitVec.toNat (rdG z29.th 0 (sc (3 : BitVec 3)).ga.toNat + BitVec.ofInt 64 ((sc (3 : BitVec 3)).imm.toInt * (↑(szBytes (sc (3 : BitVec 3)).sz) : Int))) ∧
    Issues (onCC mr) (Instr.rel (Issuer.cc (0 : Fin 96)) (sc (3 : BitVec 3))) (Issuer.cc (0 : Fin 96)) z29 ∧
    active z29 (sc (3 : BitVec 3)).guard = [0] ∧
    536870913 = BitVec.toNat (rdG z31.th 0 z30.ga.toNat) ∧
    Issues (onCC mr) (Instr.amoAdd (Issuer.cc (0 : Fin 96)) z30) (Issuer.cc (0 : Fin 96)) z31 ∧
    active z31 z30.guard = [0]) ∧
    ((536870913 % if z30.dbl = true then 8 else 4) ≠ 0 ∧
    536870913 = BitVec.toNat (rdG z32.th 0 z30.ga.toNat) ∧
    Issues (onCC mr) (Instr.amoCas (Issuer.cc (0 : Fin 96)) z30) (Issuer.cc (0 : Fin 96)) z32 ∧
    active z32 z30.guard = [0]) := 
  ⟨by decide +kernel,
    by decide +kernel,
    by decide +kernel,
    by decide +kernel⟩

/-- States and operands that meet the hypotheses of the clauses of `FetchAndLoadBarriers`. -/
theorem witness_FetchAndLoadBarriers :
    Issues (onCC mr) (Instr.barl (Issuer.cc (0 : Fin 96)) rz) (Issuer.cc (0 : Fin 96)) z33 ∧
    Issues (onCC mr) (Instr.isync (Issuer.cc (0 : Fin 96)) rz) (Issuer.cc (0 : Fin 96)) z34 ∧
    active z34 rz.guard ≠ [] := by decide +kernel

/-- States and operands that meet the hypotheses of the clauses of `GroupBarriers`. -/
theorem witness_GroupBarriers :
    (Issues (onTC (grp lr)) (Instr.gbar (Issuer.tc (0 : Fin 4) (0 : Fin 24) (0 : Fin 128)) rz) (Issuer.tc (0 : Fin 4) (0 : Fin 24) (0 : Fin 128)) z37 ∧
    Issues (onTC (grp lr)) (Instr.gbar (Issuer.tc (0 : Fin 4) (0 : Fin 24) (0 : Fin 128)) rz) (Issuer.tc (0 : Fin 4) (0 : Fin 24) (0 : Fin 128)) z38 ∧
    getGroup (onTC (grp lr)) (coreKey (0 : Fin 4) (0 : Fin 24)) 0 = some (grp lr) ∧
    (grp lr).stack = [{ pc := z38.pc, mask := z38.mask, park := Park.run }] ∧
    laneMask (active z38 rz.guard) = z38.mask ∧
    z38.mask ≠ (0 : W32) ∧
    (grp lr).stepReq = false ∧
    (grp lr).gstate = GState.running) ∧
    ((grp lr).halting = false ∧
    Issues (onTC (grp lr)) (Instr.cbar (Issuer.tc (0 : Fin 4) (0 : Fin 24) (0 : Fin 128)) rz) (Issuer.tc (0 : Fin 4) (0 : Fin 24) (0 : Fin 128)) z39 ∧
    Issues gc (Instr.cbar (Issuer.tc (0 : Fin 4) (0 : Fin 24) (0 : Fin 128)) rz) (Issuer.tc (0 : Fin 4) (0 : Fin 24) (0 : Fin 128)) z44 ∧
    getGroup gc (coreKey (0 : Fin 4) (0 : Fin 24)) 0 = some gco ∧
    gco.stack = [{ pc := z44.pc, mask := z44.mask, park := Park.run }] ∧
    laneMask (active z44 rz.guard) = z44.mask ∧
    z44.mask ≠ (0 : W32) ∧
    gco.stepReq = false) ∧
    (gco.gstate = GState.running ∧
    gco.halting = false ∧
    gco.arrived = none ∧
    (∃ co, cohortOf (getCore gc (coreKey (0 : Fin 4) (0 : Fin 24))) gco = some co ∧ co.slots = [0] ∧ co.away = 0)) := 
  ⟨by decide +kernel,
    by decide +kernel,
    by decide +kernel⟩

end Sys2Proof.Tests.P05

namespace Sys2Proof.Tests.P06

open Sys2Proof Sys2Proof.Machine Sys2Proof.Tests

def lr : Threads := { gpr := [(4, 7), (5, 1), (6, 11), (7, 0), (64+4, 9), (64+5, 0), (64+6, 22), (64+7, 0x41)], pred := [(1,2)] }
def td (fmt rows cols stride base : Nat) (space : Bool) : W128 := BitVec.ofNat 128 (fmt * 2^122 + rows * 2^104 + cols * 2^88 + stride * 2^64 + (if space then 2^63 else 0) + base)
def tr : Threads := { tile := [(1, td 0 2 3 16 0 true), (2, td 0 2 3 32 0x100 true)] }
def tf : TF := ⟨0, 2, 1, 0, 0⟩
def tg : Group := grp tr
def rec : TMoveRec := { id := 0, td := td 0 2 3 32 0x100 true, ts := td 0 2 3 16 0 true, rop := 0, lane := 0 }
def tS : Machine.State := onTC tg
def tg2 : Group := {tg with tmoves := [rec]}
def tS2 : Machine.State := { onTC tg with cores := [(0, { groups := [(0, tg2)], ls := mwriteN [] 0 ((List.range 64).map (BitVec.ofNat 8 ·)) })] }
def tfw : TF := ⟨0, 0, 0, 0, 0⟩
def z0 : RF := ⟨0,4,6,5⟩
def z1 : Iss := view (onTC (grp lr)) (Issuer.tc (0 : Fin 4) (0 : Fin 24) (0 : Fin 128)) (wordOf (Instr.shfl (Issuer.tc (0 : Fin 4) (0 : Fin 24) (0 : Fin 128)) z0))
def z3 : RF := ⟨0,4,0,1⟩
def z5 : Iss := view (onTC (grp lr)) (Issuer.tc (0 : Fin 4) (0 : Fin 24) (0 : Fin 128)) (wordOf (Instr.ballot (Issuer.tc (0 : Fin 4) (0 : Fin 24) (0 : Fin 128)) z3))
def z6 : RF := ⟨0,3,6,4⟩
def z7 : Iss := view (onTC (grp lr)) tc0 (wordOf (Instr.tdset tc0 z6))
def z10 : RF := ⟨0,3,2,0⟩
def z11 : State := onTC (grp {lr with tile := [(2, 0x12345678000000009876543211112222)]})
def z13 : Iss := view z11 tc0 (wordOf (Instr.tdgetl tc0 z10))
def z14 : Iss := view z11 tc0 (wordOf (Instr.tdgeth tc0 z10))
def z19 : Iss := view tS (Issuer.tc (0 : Fin 4) (0 : Fin 24) (0 : Fin 128)) (wordOf (Instr.tmove (Issuer.tc (0 : Fin 4) (0 : Fin 24) (0 : Fin 128)) tf))
def z26 : Iss := view tS2 (Issuer.tc (0 : Fin 4) (0 : Fin 24) (0 : Fin 128)) (wordOf (Instr.twait (Issuer.tc (0 : Fin 4) (0 : Fin 24) (0 : Fin 128)) tfw))

/-- States and operands that meet the hypotheses of the clauses of `ShuffleAndBallot`. -/
theorem witness_ShuffleAndBallot :
    Issues (onTC (grp lr)) (Instr.shfl (Issuer.tc (0 : Fin 4) (0 : Fin 24) (0 : Fin 128)) z0) (Issuer.tc (0 : Fin 4) (0 : Fin 24) (0 : Fin 128)) z1 ∧
    Issues (onTC (grp lr)) (Instr.ballot (Issuer.tc (0 : Fin 4) (0 : Fin 24) (0 : Fin 128)) z3) (Issuer.tc (0 : Fin 4) (0 : Fin 24) (0 : Fin 128)) z5 := by decide +kernel

/-- States and operands that meet the hypotheses of the clauses of `TileRegisterAccess`. -/
theorem witness_TileRegisterAccess :
    0 ∈ active z7 z6.guard ∧
    (∀ (j : Nat), j ∈ active z7 z6.guard → 0 ≤ j) ∧
    Issues (onTC (grp lr)) (Instr.tdset tc0 z6) tc0 z7 ∧
    Issues z11 (Instr.tdgetl tc0 z10) tc0 z13 ∧
    Issues z11 (Instr.tdgeth tc0 z10) tc0 z14 := by decide +kernel

/-- States and operands that meet the hypotheses of the clauses of `TileMoves`. -/
theorem witness_TileMoves :
    (Issues tS (Instr.tmove (Issuer.tc (0 : Fin 4) (0 : Fin 24) (0 : Fin 128)) tf) (Issuer.tc (0 : Fin 4) (0 : Fin 24) (0 : Fin 128)) z19 ∧
    getGroup tS (coreKey (0 : Fin 4) (0 : Fin 24)) 0 = some tg ∧
    active z19 tf.guard ≠ [] ∧
    tmoveOk true tf.rop.toNat (tdOf (rdT z19.th tf.ts.toNat)) (tdOf (rdT z19.th tf.td.toNat)) = true ∧
    (tdOf (rdT z19.th tf.ts.toNat)).space = true ∧
    (tdOf (rdT z19.th tf.td.toNat)).space = true ∧
    tg.tmoves.length < 32 ∧
    Issues tS2 (Instr.twait (Issuer.tc (0 : Fin 4) (0 : Fin 24) (0 : Fin 128)) tfw) (Issuer.tc (0 : Fin 4) (0 : Fin 24) (0 : Fin 128)) z26) ∧
    (getGroup tS2 (coreKey (0 : Fin 4) (0 : Fin 24)) 0 = some tg2 ∧
    active z26 tfw.guard ≠ [] ∧
    running tS2 = true ∧
    tg2.stack ≠ [] ∧
    tg2.tmoves[0]? = some rec ∧
    rec.bad = none ∧
    rec.ids = [] ∧
    rec.wrote = false) ∧
    (rec.rop = 0 ∧
    rec.src = [] ∧
    rec.dst = [] ∧
    tS2.ccs = [] ∧
    tmoveOk true 0 (tdOf rec.ts) (tdOf rec.td) = true ∧
    (tdOf rec.ts).space = true ∧
    (tdOf rec.td).space = true ∧
    (getCore tS2 (coreKey (0 : Fin 4) (0 : Fin 24))).ls.wf = true) := 
  ⟨by decide +kernel,
    by decide +kernel,
    by decide +kernel⟩

end Sys2Proof.Tests.P06

namespace Sys2Proof.Tests.P06B

open Sys2Proof Sys2Proof.Machine Sys2Proof.Tests

def td (fmt rows cols stride base : Nat) (space : Bool) : W128 := BitVec.ofNat 128 (fmt * 2^122 + rows * 2^104 + cols * 2^88 + stride * 2^64 + (if space then 2^63 else 0) + base)
def tr : Threads := { tile := [(0, td 2 2 4 16 0 true), (1, td 2 2 4 16 0x100 true), (2, td 0 2 4 16 0x200 true), (12, td 0 2 4 16 0x300 true)] }
def mg : Group := grp tr
def arr : MArray := { owner := some 1 }
def mS (a : MArray) : Machine.State := { onTC mg with cores := [(0, { groups := [(0, mg)], array := a, ls := mwriteN [] 0 ((List.range 64).map (BitVec.ofNat 8 ·)) })] }
def xl : XF := ⟨0, 0, 0, 0, 0, 0⟩
def xs : XF := ⟨0, 1, 0, 0, 1, 0⟩
def xd : XF := ⟨0, 2, 0, 0, 0, 0⟩
def mi : MInstr := { kind := .mswap, ta := 0, shape := 0, acc := 0, zero := false, bound := 0, slot := 0, ctx := 1 }
def ml : MInstr := { mi with kind := .mload, ta := td 2 2 4 16 0 true }
def z1 : Iss := view (mS arr) (Issuer.tc (0 : Fin 4) (0 : Fin 24) (0 : Fin 128)) (wordOf (Instr.mload (Issuer.tc (0 : Fin 4) (0 : Fin 24) (0 : Fin 128)) xl))
def z5 : Iss := view (mS arr) (Issuer.tc (0 : Fin 4) (0 : Fin 24) (0 : Fin 128)) (wordOf (Instr.mswap (Issuer.tc (0 : Fin 4) (0 : Fin 24) (0 : Fin 128)) xl))
def z8 : Iss := view (mS arr) (Issuer.tc (0 : Fin 4) (0 : Fin 24) (0 : Fin 128)) (wordOf (Instr.mwait (Issuer.tc (0 : Fin 4) (0 : Fin 24) (0 : Fin 128)) xl))
def z9 : State := mS {arr with bankA := {grp := matGroup 2, shape := 0}}
def z13 : Iss := view z9 (Issuer.tc (0 : Fin 4) (0 : Fin 24) (0 : Fin 128)) (wordOf (Instr.mstream (Issuer.tc (0 : Fin 4) (0 : Fin 24) (0 : Fin 128)) xs))
def z19 : State := mS {arr with sets := [(0, td 0 2 4 16 0x300 true)]}
def z27 : Iss := view z19 (Issuer.tc (0 : Fin 4) (0 : Fin 24) (0 : Fin 128)) (wordOf (Instr.mdrain (Issuer.tc (0 : Fin 4) (0 : Fin 24) (0 : Fin 128)) xd))
def z29 : State := mS {arr with queue := List.replicate 16 mi}
def z30 : Iss := view z29 (Issuer.tc (0 : Fin 4) (0 : Fin 24) (0 : Fin 128)) (wordOf (Instr.mload (Issuer.tc (0 : Fin 4) (0 : Fin 24) (0 : Fin 128)) xl))
def z34 : Iss := view z29 (Issuer.tc (0 : Fin 4) (0 : Fin 24) (0 : Fin 128)) (wordOf (Instr.mswap (Issuer.tc (0 : Fin 4) (0 : Fin 24) (0 : Fin 128)) xl))
def z39 : State := mS {arr with queue := [mi]}
def z40 : State := mS {arr with queue := [{mi with started := true}]}
def z41 : MInstr := {mi with started := true}
def z42 : State := mS {arr with queue := [ml]}
def z43 : State := mS {arr with phase := .taper, taperR := 3, ramp := 4}
def z45 : State := mS {arr with bankA := {grp := matGroup 2, shape := 0}, queue := List.replicate 16 mi}
def z48 : Iss := view z45 (Issuer.tc (0 : Fin 4) (0 : Fin 24) (0 : Fin 128)) (wordOf (Instr.mstream (Issuer.tc (0 : Fin 4) (0 : Fin 24) (0 : Fin 128)) xs))
def z55 : State := mS {arr with sets := [(0, td 0 2 4 16 0x300 true)], queue := List.replicate 16 mi}
def z62 : Iss := view z55 (Issuer.tc (0 : Fin 4) (0 : Fin 24) (0 : Fin 128)) (wordOf (Instr.mdrain (Issuer.tc (0 : Fin 4) (0 : Fin 24) (0 : Fin 128)) xd))

/-- States and operands that meet the hypotheses of the clauses of `MatrixQueue`. -/
theorem witness_MatrixQueue :
    (Issues z29 (Instr.mload (Issuer.tc (0 : Fin 4) (0 : Fin 24) (0 : Fin 128)) xl) (Issuer.tc (0 : Fin 4) (0 : Fin 24) (0 : Fin 128)) z30 ∧
    getGroup z29 (coreKey (0 : Fin 4) (0 : Fin 24)) 0 = some mg ∧
    active z30 xl.guard ≠ [] ∧
    mloadCause xl.shape.toNat (tdOf (rdT z30.th xl.ta.toNat)) = none ∧
    16 ≤ (getCore z29 (coreKey (0 : Fin 4) (0 : Fin 24))).array.queue.length ∧
    Issues (mS arr) (Instr.mload (Issuer.tc (0 : Fin 4) (0 : Fin 24) (0 : Fin 128)) xl) (Issuer.tc (0 : Fin 4) (0 : Fin 24) (0 : Fin 128)) z1 ∧
    getGroup (mS arr) (coreKey (0 : Fin 4) (0 : Fin 24)) 0 = some mg ∧
    active z1 xl.guard ≠ []) ∧
    (mloadCause xl.shape.toNat (tdOf (rdT z1.th xl.ta.toNat)) = none ∧
    (getCore (mS arr) (coreKey (0 : Fin 4) (0 : Fin 24))).array.queue.length < 16 ∧
    Issues z45 (Instr.mstream (Issuer.tc (0 : Fin 4) (0 : Fin 24) (0 : Fin 128)) xs) (Issuer.tc (0 : Fin 4) (0 : Fin 24) (0 : Fin 128)) z48 ∧
    getGroup z45 (coreKey (0 : Fin 4) (0 : Fin 24)) 0 = some mg ∧
    active z48 xs.guard ≠ [] ∧
    mstreamCause (aProject (getCore z45 (coreKey (0 : Fin 4) (0 : Fin 24))).array) xs.shape.toNat (decide (xs.zero = (1 : BitVec 1))) xs.acc.toNat (tdOf (rdT z48.th xs.ta.toNat)) (tdOf (rdT z48.th (12 + xs.acc.toNat))) = none ∧
    16 ≤ (getCore z45 (coreKey (0 : Fin 4) (0 : Fin 24))).array.queue.length ∧
    Issues z9 (Instr.mstream (Issuer.tc (0 : Fin 4) (0 : Fin 24) (0 : Fin 128)) xs) (Issuer.tc (0 : Fin 4) (0 : Fin 24) (0 : Fin 128)) z13) ∧
    (getGroup z9 (coreKey (0 : Fin 4) (0 : Fin 24)) 0 = some mg ∧
    active z13 xs.guard ≠ [] ∧
    mstreamCause (aProject (getCore z9 (coreKey (0 : Fin 4) (0 : Fin 24))).array) xs.shape.toNat (decide (xs.zero = (1 : BitVec 1))) xs.acc.toNat (tdOf (rdT z13.th xs.ta.toNat)) (tdOf (rdT z13.th (12 + xs.acc.toNat))) = none ∧
    (getCore z9 (coreKey (0 : Fin 4) (0 : Fin 24))).array.queue.length < 16 ∧
    Issues z29 (Instr.mswap (Issuer.tc (0 : Fin 4) (0 : Fin 24) (0 : Fin 128)) xl) (Issuer.tc (0 : Fin 4) (0 : Fin 24) (0 : Fin 128)) z34 ∧
    active z34 xl.guard ≠ [] ∧
    Issues (mS arr) (Instr.mswap (Issuer.tc (0 : Fin 4) (0 : Fin 24) (0 : Fin 128)) xl) (Issuer.tc (0 : Fin 4) (0 : Fin 24) (0 : Fin 128)) z5 ∧
    active z5 xl.guard ≠ []) ∧
    ((tdOf (rdT z62.th xd.ta.toNat)).space = true ∧
    Issues z55 (Instr.mdrain (Issuer.tc (0 : Fin 4) (0 : Fin 24) (0 : Fin 128)) xd) (Issuer.tc (0 : Fin 4) (0 : Fin 24) (0 : Fin 128)) z62 ∧
    getGroup z55 (coreKey (0 : Fin 4) (0 : Fin 24)) 0 = some mg ∧
    active z62 xd.guard ≠ [] ∧
    mdrainCause (aProject (getCore z55 (coreKey (0 : Fin 4) (0 : Fin 24))).array) xd.acc.toNat (tdOf (rdT z62.th xd.ta.toNat)) = none ∧
    16 ≤ (getCore z55 (coreKey (0 : Fin 4) (0 : Fin 24))).array.queue.length ∧
    (tdOf (rdT z27.th xd.ta.toNat)).space = true ∧
    Issues z19 (Instr.mdrain (Issuer.tc (0 : Fin 4) (0 : Fin 24) (0 : Fin 128)) xd) (Issuer.tc (0 : Fin 4) (0 : Fin 24) (0 : Fin 128)) z27) ∧
    (getGroup z19 (coreKey (0 : Fin 4) (0 : Fin 24)) 0 = some mg ∧
    active z27 xd.guard ≠ [] ∧
    mdrainCause (aProject (getCore z19 (coreKey (0 : Fin 4) (0 : Fin 24))).array) xd.acc.toNat (tdOf (rdT z27.th xd.ta.toNat)) = none ∧
    (getCore z19 (coreKey (0 : Fin 4) (0 : Fin 24))).array.queue.length < 16 ∧
    Issues (mS arr) (Instr.mwait (Issuer.tc (0 : Fin 4) (0 : Fin 24) (0 : Fin 128)) xl) (Issuer.tc (0 : Fin 4) (0 : Fin 24) (0 : Fin 128)) z8 ∧
    active z8 xl.guard ≠ []) := 
  ⟨by decide +kernel,
    by decide +kernel,
    by decide +kernel,
    by decide +kernel,
    by decide +kernel⟩

/-- States and operands that meet the hypotheses of the clauses of `MatrixRuns`. -/
theorem witness_MatrixRuns :
    (running z39 = true ∧
    (getCore z39 (coreKey (0 : Fin 4) (0 : Fin 24))).array.queue = [mi] ∧
    mi.started = false ∧
    canStart (getCore z39 (coreKey (0 : Fin 4) (0 : Fin 24))) mi 0 = true ∧
    mi.kind = MKind.mswap ∧
    running z42 = true ∧
    (getCore z42 (coreKey (0 : Fin 4) (0 : Fin 24))).array.queue = [ml] ∧
    ml.started = false) ∧
    (canStart (getCore z42 (coreKey (0 : Fin 4) (0 : Fin 24))) ml 0 = true ∧
    ml.kind = MKind.mload ∧
    ml.shape < 5 ∧
    running z40 = true ∧
    (getCore z40 (coreKey (0 : Fin 4) (0 : Fin 24))).array.queue = [z41] ∧
    z41.started = true ∧
    z41.ids = [] ∧
    z41.bad = none) ∧
    ((z41.kind = MKind.mload ∨ z41.kind = MKind.mswap) ∧
    z41.pages = [] ∧
    z40.ccs = [] ∧
    getGroup z40 (coreKey (0 : Fin 4) (0 : Fin 24)) z41.slot = some mg ∧
    mg.stack ≠ []) := 
  ⟨by decide +kernel,
    by decide +kernel,
    by decide +kernel⟩

/-- States and operands that meet the hypotheses of the clauses of `HoldAndRamp`. -/
theorem witness_HoldAndRamp :
    (getCore z43 (coreKey (0 : Fin 4) (0 : Fin 24))).array.phase = ArrayPhase.taper := by decide +kernel

end Sys2Proof.Tests.P06B

namespace Sys2Proof.Tests.P07

open Sys2Proof Sys2Proof.Machine Sys2Proof.Tests

def rr : Threads := { gpr := [(4, 7), (6, 0xFFFFFFFFFFFFFFFF), (7, 3)], fcsr := [(0, 0x15)] }
def sw (n : BitVec 10) : IF := ⟨0, 0, 6, n⟩
def sr (n : BitVec 10) : IF := ⟨0, 4, 0, n⟩
def gs := onTC (grp rr)
def oc (q : CCore) : Machine.State := {up with ccs := [(0,q)]}
def xr : XinvRec := { gb := 3, ga := 0x10000, dies := [0,1,2,3,4] }
def es : Machine.State := { onCC rr with disp := { up.disp with ctxs := [(0, ctx1)] }, epochs := { up.epochs with slots := [(1, { job := 9, protect := 1, state := 1, committed := 6 })] } }
def z0 : Iss := view (onCC rr) (.cc 0) (wordOf (.swr (.cc 0) (sw 0x100)))
def z3 : Iss := view (onCC rr) (.cc 0) (wordOf (.swr (.cc 0) (sw 6)))
def z4 : Iss := view (onCC rr) (.cc 0) (wordOf (.srd (.cc 0) (sr 0x204)))
def z6 : Iss := view (onCC rr) (.cc 0) (wordOf (.srd (.cc 0) (sr 2)))
def z8 : Iss := view gs tc0 (wordOf (.srd tc0 (sr 0)))
def z11 : Iss := view (oc { core0 rr with irq := [0x1003, 5], mstat := 4, level := .monitor }) (.cc 0) (wordOf (.waiti (.cc 0) ⟨0,0,0,0⟩))
def z12 : State := oc { core0 rr with irq := [0x1003, 5], mstat := 4, level := .monitor }
def z14 : State := oc { core0 rr with irq := [], mstat := 4, level := .monitor }
def z15 : RF := ⟨0,0,4,7⟩
def z16 : Iss := view (onCC rr) (Issuer.cc (0 : Fin 96)) (wordOf (Instr.xinv (Issuer.cc (0 : Fin 96)) z15))
def z18 : State := oc {core0 rr with xinv := [xr]}
def z20 : XinvRec := {xr with seen := [0]}
def z22 : State := oc {core0 rr with xinv := [{xr with seen := [0]}]}
def z24 : RF := ⟨0,4,0,0⟩
def z25 : Iss := view (onCC rr) (Issuer.cc (0 : Fin 96)) (wordOf (Instr.epoch (Issuer.cc (0 : Fin 96)) z24))
def z27 : RF := ⟨0,4,0,0⟩
def z29 : Iss := view es (Issuer.cc (0 : Fin 96)) (wordOf (Instr.epoch (Issuer.cc (0 : Fin 96)) z27))

/-- States and operands that meet the hypotheses of the clauses of `SystemRegisterAccess`. -/
theorem witness_SystemRegisterAccess :
    (Issues (onCC rr) (Instr.swr (Issuer.cc (0 : Fin 96)) (sw (256 : BitVec 10))) (Issuer.cc (0 : Fin 96)) z0 ∧
    active z0 (sw (256 : BitVec 10)).guard = [0] ∧
    (sw (256 : BitVec 10)).imm.toNat ∈ [256, 257, 258, 259, 260, 261, 262, 263, 512, 513, 514, 515, 516, 517, 518] ∧
    Issues (onCC rr) (Instr.swr (Issuer.cc (0 : Fin 96)) (sw (6 : BitVec 10))) (Issuer.cc (0 : Fin 96)) z3 ∧
    (sw (6 : BitVec 10)).imm.toNat = 6 ∧
    Issues (onCC rr) (Instr.srd (Issuer.cc (0 : Fin 96)) (sr (516 : BitVec 10))) (Issuer.cc (0 : Fin 96)) z4 ∧
    256 ≤ (sr (516 : BitVec 10)).imm.toNat ∧
    Issues (onCC rr) (Instr.srd (Issuer.cc (0 : Fin 96)) (sr (2 : BitVec 10))) (Issuer.cc (0 : Fin 96)) z6) ∧
    ((sr (2 : BitVec 10)).imm.toNat < 256 ∧
    Issues gs (Instr.srd (Issuer.tc (0 : Fin 4) (0 : Fin 24) (0 : Fin 128)) (sr (0 : BitVec 10))) (Issuer.tc (0 : Fin 4) (0 : Fin 24) (0 : Fin 128)) z8 ∧
    (sr (0 : BitVec 10)).imm.toNat < 256) := 
  ⟨by decide +kernel,
    by decide +kernel⟩

/-- States and operands that meet the hypotheses of the clauses of `InterruptsTaken`. -/
theorem witness_InterruptsTaken :
    halyard z12 = true ∧
    (getCC z12 0).irq = [4099, 5] ∧
    ccReady z12 (getCC z12 0) = true ∧
    irqEnabled (getCC z12 0) = true ∧
    ((getCC z14 0).irq = [] ∨ irqEnabled (getCC z14 0) = false) ∧
    Issues z12 (Instr.waiti (Issuer.cc (0 : Fin 96)) ({ guard := (0 : BitVec 4), gd := (0 : BitVec 6), ga := (0 : BitVec 6), gb := (0 : BitVec 6) } : RF)) (Issuer.cc (0 : Fin 96)) z11 ∧
    active z11 ({ guard := (0 : BitVec 4), gd := (0 : BitVec 6), ga := (0 : BitVec 6), gb := (0 : BitVec 6) } : RF).guard ≠ [] := by decide +kernel

/-- States and operands that meet the hypotheses of the clauses of `TranslationInvalidations`. -/
theorem witness_TranslationInvalidations :
    (Issues (onCC rr) (Instr.xinv (Issuer.cc (0 : Fin 96)) z15) (Issuer.cc (0 : Fin 96)) z16 ∧
    active z16 z15.guard = [0] ∧
    (getCC (onCC rr) 0).armed = false ∧
    halyard z18 = true ∧
    (getCC z18 0).xinv = [xr] ∧
    xr.gb = BitVec.toNat (3 : BitVec 13) ∧
    xr.ga = BitVec.toNat (65536 : W64) ∧
    xr.seen = []) ∧
    (xr.dies = [0, 1, 2, 3, 4] ∧
    xr.waits = [] ∧
    halyard z22 = true ∧
    (getCC z22 0).xinv = [z20] ∧
    z20.ga = BitVec.toNat (65536 : W64) ∧
    0 ∈ z20.dies ∧
    0 ∈ z20.seen ∧
    z20.waits = []) := 
  ⟨by decide +kernel,
    by decide +kernel⟩

/-- States and operands that meet the hypotheses of the clauses of `EpochInstruction`. -/
theorem witness_EpochInstruction :
    (Issues (onCC rr) (Instr.epoch (Issuer.cc (0 : Fin 96)) z24) (Issuer.cc (0 : Fin 96)) z25 ∧
    active z25 z24.guard = [0] ∧
    (getCC (onCC rr) 0).sb = [] ∧
    (getCC (onCC rr) 0).xinv = [] ∧
    (getCC (onCC rr) 0).armed = false ∧
    (∀ (r : OutReq), r ∈ (onCC rr).fabric.out → r.who ≠ Issuer.cc (0 : Fin 96)) ∧
    epochNumber (onCC rr) z25.ctx.toNat = none ∧
    Issues es (Instr.epoch (Issuer.cc (0 : Fin 96)) z27) (Issuer.cc (0 : Fin 96)) z29) ∧
    (active z29 z27.guard = [0] ∧
    (getCC es 0).sb = [] ∧
    (getCC es 0).xinv = [] ∧
    (getCC es 0).armed = false ∧
    (∀ (r : OutReq), r ∈ es.fabric.out → r.who ≠ Issuer.cc (0 : Fin 96)) ∧
    getCtx es z29.ctx.toNat = some ctx1 ∧
    (getSlot es ctx1.slot).protect ≠ 0) := 
  ⟨by decide +kernel,
    by decide +kernel⟩

end Sys2Proof.Tests.P07

namespace Sys2Proof.Tests.P08

open Sys2Proof Sys2Proof.Machine Sys2Proof.Tests

def wr : Threads := { gpr := [(6, 0x20000000), (7, 3)] }
def pq (q : Partition → Partition) : Machine.State := modPart (onCC wr) 0 q
def wt : Watch := { line := 0x20000000/128, consumer := .cc 0, part := 0, ctx := 0 }
def ws : Machine.State := modDisp (pq fun p => {p with watches := 1}) fun d => {d with watches := [(3, wt)]}
def lr : Threads := { gpr := [(4, 7), (6, 11),  (64+4, 9)], pred := [(1,2)], tile := [(2, 0x1234)] }
def dx : Ctx := { ctx1 with debug := 0x1000000, debugOk := true }
def lf : Leaf := { oa := 0x30000000, tgt := 0, u := true, w := true, r := true }
def hg : Group := { grp lr with gstate := .halted }
def dth (n : Nat) : Threads := { gpr := [(6, BitVec.ofNat 64 n)] }
def dbg (g : Group) (n : Nat) (img : List Byte) : Machine.State := { onTC g with
  ccs := [(0, { core0 (dth n) with gsel := 1 * 2^32 + 0 })]
  disp := { up.disp with ctxs := [(1, dx)] }
  dies := up.dies.map fun p => (p.1, { p.2 with xlat := [(pageKey 1 0x1000000, lf)] })
  mem := mwriteN [] 0x30000000 img }
def z3 : RF := ⟨0,4,6,0⟩
def z5 : Iss := view (onCC wr) (Issuer.cc (0 : Fin 96)) (wordOf (Instr.watch (Issuer.cc (0 : Fin 96)) z3))
def z6 : RF := ⟨0,4,6,0⟩
def z7 : State := pq fun p => {p with watches := 16384}
def z8 : Iss := view z7 (Issuer.cc (0 : Fin 96)) (wordOf (Instr.watch (Issuer.cc (0 : Fin 96)) z6))
def z10 : RF := ⟨0,0,0,7⟩
def z13 : Iss := view ws (Issuer.cc (0 : Fin 96)) (wordOf (Instr.unwatch (Issuer.cc (0 : Fin 96)) z10))
def z14 : IF := ⟨0,0,6,0x108⟩
def z15 : Iss := view (dbg (grp lr) 1 []) (Issuer.cc (0 : Fin 96)) (wordOf (Instr.gctlHalt (Issuer.cc (0 : Fin 96)) z14))
def z18 : IF := ⟨0,0,6,0x108⟩
def z19 : State := dbg hg 2 (imageBytes hg 1 0x50 2 4)
def z21 : Iss := view z19 (Issuer.cc (0 : Fin 96)) (wordOf (Instr.gctlResume (Issuer.cc (0 : Fin 96)) z18))
def z23 : IF := ⟨0,0,6,0x108⟩
def z24 : State := dbg hg 3 (imageBytes hg 1 0x50 2 4)
def z27 : Iss := view z24 (Issuer.cc (0 : Fin 96)) (wordOf (Instr.gctlSingleStep (Issuer.cc (0 : Fin 96)) z23))

/-- States and operands that meet the hypotheses of the clauses of `WatchedLines`. -/
theorem witness_WatchedLines :
    (active z8 z6.guard = [0] ∧
    z8.level = Level.monitor ∧
    (getCC z7 0).armed = false ∧
    Issues z7 (Instr.watch (Issuer.cc (0 : Fin 96)) z6) (Issuer.cc (0 : Fin 96)) z8 ∧
    BitVec.toNat (rdG z8.th 0 z6.ga.toNat) % 128 = 0 ∧
    paPass z7 Who.sys false (BitVec.toNat (rdG z8.th 0 z6.ga.toNat)) = true ∧
    (getPart z7 z8.part).watchQuota ≤ (getPart z7 z8.part).watches ∧
    active z5 z3.guard = [0]) ∧
    (z5.level = Level.monitor ∧
    (getCC (onCC wr) 0).armed = false ∧
    Issues (onCC wr) (Instr.watch (Issuer.cc (0 : Fin 96)) z3) (Issuer.cc (0 : Fin 96)) z5 ∧
    BitVec.toNat (rdG z5.th 0 z3.ga.toNat) % 128 = 0 ∧
    paPass (onCC wr) Who.sys false (BitVec.toNat (rdG z5.th 0 z3.ga.toNat)) = true ∧
    (getPart (onCC wr) z5.part).watches < (getPart (onCC wr) z5.part).watchQuota ∧
    (List.filter (fun w => decide (w.snd.line = BitVec.toNat (rdG z5.th 0 z3.ga.toNat) / 128)) (onCC wr).disp.watches).length < 4 ∧
    active z13 z10.guard = [0]) ∧
    (z13.level = Level.monitor ∧
    (getCC ws 0).armed = false ∧
    Issues ws (Instr.unwatch (Issuer.cc (0 : Fin 96)) z10) (Issuer.cc (0 : Fin 96)) z13 ∧
    tsorted ws.disp.watches = true ∧
    tfind ws.disp.watches (BitVec.toNat (rdG z13.th 0 z10.gb.toNat)) = some wt ∧
    wt.consumer = Consumer.cc 0 ∧
    wt.part = z13.part) ∧
    (∃ h, h < 16384 ∧ tfind (onCC wr).disp.watches h = none) := 
  ⟨by decide +kernel,
    by decide +kernel,
    by decide +kernel,
    ⟨0, by decide +kernel⟩⟩

/-- States and operands that meet the hypotheses of the clauses of `GroupDebugControl`. -/
theorem witness_GroupDebugControl :
    (Issues (dbg (grp lr) 1 []) (Instr.gctlHalt (Issuer.cc (0 : Fin 96)) z14) (Issuer.cc (0 : Fin 96)) z15 ∧
    active z15 z14.guard = [0] ∧
    z14.imm = (264 : BitVec 10) ∧
    rdG z15.th 0 z14.ga.toNat = BitVec.ofNat 64 1 ∧
    selected (dbg (grp lr) 1 []) 0 = some (0, 0, grp lr) ∧
    getCtx (dbg (grp lr) 1 []) (grp lr).ctx.toNat = some dx ∧
    dx.debugOk = true ∧
    (grp lr).gstate = GState.running) ∧
    ((grp lr).halting = false ∧
    Issues z19 (Instr.gctlResume (Issuer.cc (0 : Fin 96)) z18) (Issuer.cc (0 : Fin 96)) z21 ∧
    active z21 z18.guard = [0] ∧
    z18.imm = (264 : BitVec 10) ∧
    rdG z21.th 0 z18.ga.toNat = BitVec.ofNat 64 2 ∧
    selected z19 0 = some (0, 0, hg) ∧
    getCtx z19 hg.ctx.toNat = some dx ∧
    hg.gstate = GState.halted) ∧
    (imagePlace z19 0 0 hg = some 805306368 ∧
    (∀ (j : Nat), j < 134 → linePoisoned z19 ((805306368 / 128 : Nat) + j) = false) ∧
    imageOk (imageOf (memBytes z19 805306368 17024)) hg.alloc = true ∧
    (∃ e, e ∈ imageStack (imageOf (memBytes z19 805306368 17024)) ∧ e.park = Park.run) ∧
    Issues z24 (Instr.gctlSingleStep (Issuer.cc (0 : Fin 96)) z23) (Issuer.cc (0 : Fin 96)) z27 ∧
    active z27 z23.guard = [0] ∧
    z23.imm = (264 : BitVec 10) ∧
    rdG z27.th 0 z23.ga.toNat = BitVec.ofNat 64 3) ∧
    (selected z24 0 = some (0, 0, hg) ∧
    getCtx z24 hg.ctx.toNat = some dx ∧
    imagePlace z24 0 0 hg = some 805306368 ∧
    (∀ (j : Nat), j < 134 → linePoisoned z24 ((805306368 / 128 : Nat) + j) = false) ∧
    imageOk (imageOf (memBytes z24 805306368 17024)) hg.alloc = true ∧
    (∃ e, e ∈ imageStack (imageOf (memBytes z24 805306368 17024)) ∧ e.park = Park.run)) := 
  ⟨by decide +kernel,
    by decide +kernel,
    by decide +kernel,
    by decide +kernel⟩

end Sys2Proof.Tests.P08

namespace Sys2Proof.Tests.P09

open Sys2Proof Sys2Proof.Machine Sys2Proof.Tests

def ln : Nat := 0x20000000 / 128
def hd (f : ReqHdr → ReqHdr) : ReqHdr := f { txn := 5, line := BitVec.ofNat 41 ln, src := 2, ctx := 0, part := 0, idk := 2, gmask := 0x05, boff := 4, bsize := 2, poison := false, aop := 0, thread := 0 }
def hs (l : Line) (f : Homes → Homes) : Machine.State := { up with homes := f { lines := [(ln, l)] }, mem := mwriteN [] 0x20000000 ((List.range 128).map fun i => BitVec.ofNat 8 (i+1)) }
def v : Line := { st := .V }
def key : Nat := (reqBy (hd id)).key
def d128 : List Byte := (List.range 128).map fun i => BitVec.ofNat 8 (200 - i)
def d16 : List Byte := (List.range 16).map fun i => BitVec.ofNat 8 (200 - i)
def d32 : List Byte := (List.range 32).map fun i => BitVec.ofNat 8 (200 - i)
def rh : RspHdr := { txn := 5, line := BitVec.ofNat 41 ln, own := 0, status := 0, gmask := 0, poison := false }
def pq : PendReq := ⟨1, hd id, 0, []⟩
def z1 : State := hs v fun h => {h with resvs := [⟨key, ln, true⟩]}
def z2 : ReqHdr := hd fun h => {h with bsize := 4}
def z4 : ReqHdr := hd fun h => {h with aop := 0}
def z5 : State := hs {v with lock := some 2} id
def z6 : State := hs {st := .X, owner := 2, mod := true} id
def z7 : State := hs {st := .X, owner := 3, hint := true} id
def z8 : State := hs {st := .S, sharers := [2,3]} id
def z10 : State := hs {st := .X, owner := 2, mod := true} id
def z12 : State := hs v fun h => {h with txns := [(5, pq)]}
def z13 : State := hs {st := .F, pend := [pq]} id

/-- States and operands that meet the hypotheses of the clauses of `HomeReads`. -/
theorem witness_HomeReads :
    HomeReady (hs v id) (hd id) false := by decide +kernel

/-- States and operands that meet the hypotheses of the clauses of `HomeWrites`. -/
theorem witness_HomeWrites :
    (QuietLine (hs v id) (hd id).line.toNat ∧
    HomeReady (hs v id) (hd id) true ∧
    d128.length = 128 ∧
    QuietLine z1 (hd id).line.toNat ∧
    HomeReady z1 (hd id) true ∧
    (hd id).bsize.toNat < 4 ∧
    (hd id).boff.toNat + subLen (hd id) ≤ 16 ∧
    d16.length = 16) ∧
    (QuietLine (hs v id) z2.line.toNat ∧
    HomeReady (hs v id) z2 true ∧
    4 ≤ z2.bsize.toNat ∧
    granules z2.gmask.toNat ≠ [] ∧
    d32.length = 16 * (granules z2.gmask.toNat).length ∧
    hasResv z1 (reqBy (hd id)).key (hd id).line.toNat = true ∧
    hasResv (hs v id) (reqBy (hd id)).key (hd id).line.toNat = false ∧
    QuietLine (hs v id) z4.line.toNat) ∧
    (HomeReady (hs v id) z4 true ∧
    aopOf z4.aop.toNat = some (AmoOp.add, false) ∧
    QuietLine z5 (hd id).line.toNat ∧
    domainUp z5 = true ∧
    halyard z5 = true ∧
    2 ^ 28 ≤ (hd id).line.toNat * 128 ∧
    paPass z5 (reqWho (hd id)) true ((hd id).line.toNat * 128) = true ∧
    (getLine z5 (hd id).line.toNat).st = LState.V) ∧
    ((getLine z5 (hd id).line.toNat).pend = [] ∧
    (getLine z5 (hd id).line.toNat).lock = some (hd id).src.toNat ∧
    (getLine z5 (hd id).line.toNat).hint = false ∧
    tfind z5.homes.deferred (hd id).line.toNat = none ∧
    resvDefers z5 (reqBy (hd id)).key (hd id).line.toNat = false ∧
    (hd id).poison = false ∧
    granules (hd id).gmask.toNat ≠ [] ∧
    d32.length = 16 * (granules (hd id).gmask.toNat).length) := 
  ⟨by decide +kernel,
    by decide +kernel,
    by decide +kernel,
    by decide +kernel⟩

/-- States and operands that meet the hypotheses of the clauses of `ControlCoreRequests`. -/
theorem witness_ControlCoreRequests :
    (HomeReady (hs v id) (hd id) false ∧
    HomeReady (hs v id) (hd id) true ∧
    domainUp z6 = true ∧
    halyard z6 = true ∧
    tfind z6.homes.deferred (hd id).line.toNat = none ∧
    (getLine z6 (hd id).line.toNat).pend = [] ∧
    (getLine z6 (hd id).line.toNat).lock = none ∧
    (getLine z6 (hd id).line.toNat).st = LState.X) ∧
    ((getLine z6 (hd id).line.toNat).owner = (hd id).src.toNat ∧
    (hd id).poison = false ∧
    d128.length = 128 ∧
    z6.mem.wf = true ∧
    domainUp z8 = true ∧
    halyard z8 = true ∧
    tfind z8.homes.deferred (hd id).line.toNat = none ∧
    (getLine z8 (hd id).line.toNat).pend = []) ∧
    ((getLine z8 (hd id).line.toNat).lock = none ∧
    (getLine z8 (hd id).line.toNat).st = LState.S ∧
    domainUp z7 = true ∧
    halyard z7 = true ∧
    tfind z7.homes.deferred (hd id).line.toNat = none ∧
    (getLine z7 (hd id).line.toNat).pend = [] ∧
    (getLine z7 (hd id).line.toNat).lock = none ∧
    (getLine z7 (hd id).line.toNat).st = LState.X) ∧
    ((getLine z7 (hd id).line.toNat).hint = true ∧
    (getLine z7 (hd id).line.toNat).owner ≠ (hd id).src.toNat ∧
    paPass z7 (reqWho (hd id)) false ((hd id).line.toNat * 128) = true) := 
  ⟨by decide +kernel,
    by decide +kernel,
    by decide +kernel,
    by decide +kernel⟩

/-- States and operands that meet the hypotheses of the clauses of `DirectoryAndStacks`. -/
theorem witness_DirectoryAndStacks :
    (domainUp (hs v id) = true ∧
    halyard (hs v id) = true ∧
    BitVec.toNat (0 : BitVec 4) ≤ 2 ∧
    tfind (hs v id).homes.deferred (hd id).line.toNat = none ∧
    resvDefers (hs v id) (reqBy (hd id)).key (hd id).line.toNat = false ∧
    (hs v id).ccs = [] ∧
    ((getLine (hs v id) (hd id).line.toNat).st = LState.I ∨ (getLine (hs v id) (hd id).line.toNat).st = LState.V) ∧
    domainUp z10 = true) ∧
    (halyard z10 = true ∧
    tfind z10.homes.deferred (hd id).line.toNat = none ∧
    resvDefers z10 (reqBy (hd id)).key (hd id).line.toNat = false ∧
    z10.ccs = [] ∧
    ((getLine z10 (hd id).line.toNat).st = LState.X ∨ (getLine z10 (hd id).line.toNat).st = LState.S) ∧
    (getLine z10 (hd id).line.toNat).poison = false ∧
    2 ^ 28 ≤ (hd id).line.toNat * 128 ∧
    paPass (hs v id) (reqWho (hd id)) false ((hd id).line.toNat * 128) = true) ∧
    ((getOwn (hs v id) ((hd id).line.toNat / 512)).poison = false ∧
    (getOwn (hs v id) ((hd id).line.toNat / 512)).lost = false ∧
    domainUp (hs { } id) = true ∧
    halyard (hs { } id) = true ∧
    covered (hs { } id) ((hd id).line.toNat * 128) = true ∧
    ((getLine (hs { } id) (hd id).line.toNat).st = LState.I ∨ (getLine (hs { } id) (hd id).line.toNat).st = LState.W) ∧
    d128.length = 128 ∧
    (hs { } id).mem.wf = true) ∧
    ((hd id).poison = false ∧
    domainUp (hs { st := LState.F } id) = true ∧
    halyard (hs { st := LState.F } id) = true ∧
    (getLine (hs { st := LState.F } id) rh.line.toNat).st = LState.F ∧
    (getLine (hs { st := LState.F } id) rh.line.toNat).pend = [] ∧
    rh.poison = false ∧
    (hs { st := LState.F } id).mem.wf = true ∧
    domainUp (hs { st := LState.K } id) = true) ∧
    (halyard (hs { st := LState.K } id) = true ∧
    (getLine (hs { st := LState.K } id) rh.line.toNat).st = LState.K ∧
    (getLine (hs { st := LState.K } id) rh.line.toNat).pend = []) := 
  ⟨by decide +kernel,
    by decide +kernel,
    by decide +kernel,
    by decide +kernel,
    by decide +kernel⟩

/-- States and operands that meet the hypotheses of the clauses of `ResponsesClose`. -/
theorem witness_ResponsesClose :
    (domainUp z12 = true ∧
    halyard z12 = true ∧
    tfind z12.homes.txns rh.txn.toNat = some pq ∧
    (getLine z12 rh.line.toNat).st ≠ LState.W ∧
    (getLine z12 rh.line.toNat).st ≠ LState.F ∧
    pq.h.src.toNat = 2 ∧
    (true = true ∨ (getLine z12 rh.line.toNat).st = LState.X) ∧
    domainUp (hs { st := LState.W } id) = true) ∧
    (halyard (hs { st := LState.W } id) = true ∧
    (getLine (hs { st := LState.W } id) rh.line.toNat).st = LState.W ∧
    (getLine (hs { st := LState.W } id) rh.line.toNat).pend = [] ∧
    tsorted (hs { st := LState.W } id).homes.lines = true ∧
    domainUp z13 = true ∧
    halyard z13 = true ∧
    (getLine z13 rh.line.toNat).st = LState.F ∧
    (getLine z13 rh.line.toNat).pend = [pq]) ∧
    (tsorted z13.homes.lines = true ∧
    tfind z12.homes.deferred (BitVec.toNat (0 : BitVec 41)) = none) := 
  ⟨by decide +kernel,
    by decide +kernel,
    by decide +kernel⟩

end Sys2Proof.Tests.P09

namespace Sys2Proof.Tests.P10

open Sys2Proof Sys2Proof.Machine Sys2Proof.Tests

def ln : Nat := 0x20000000 / 128
def hs (l : Line) (f : Homes → Homes) : Machine.State := { up with homes := f { lines := [(ln, l)] }, mem := mwriteN [] 0x20000000 ((List.range 128).map fun i => BitVec.ofNat 8 (i+1)), disp := {up.disp with ctxs := [(1, ctx1)]}, hbm := {up.hbm with own := [(ln/512, {owner := 1, part := 0, state := 2, zero := false})]} }
def v : Line := { st := .V }
def rd : RedHdr := { line := BitVec.ofNat 41 ln, tag := 0, rop := 2, fmt := 9, round := 0, node := 0, ctx := 1, gmask := 0x05 }
def d128 : List Byte := (List.range 128).map fun i => BitVec.ofNat 8 (200 - i)
def rr : RedRound := {line := ln, tag := 5, round := 0, rop := 1, fmt := 0, ctx := 1, vals := [(1,2,d128)]}
def thr (n : Nat) : Machine.State := { up with epochs := { up.epochs with threshold := n } }
def cx : Machine.State := { up with cores := [(0, {array := {owner := some 1}})], disp := { up.disp with ctxs := [(1, ctx1)] }, epochs := {up.epochs with slots := [(1, {job := 7, protect := 1, state := 1, committed := 3})]} }
def w0 : Window := { count := 2 }
def we : Machine.State := { onTC (grp {}) with epochs := {up.epochs with windows := [(0x105, w0)], slots := [(1, {cls := 1})]} }
def dn : Machine.State := { up with homes := { down := true }, ccs := [(0, core0 {})] }
def mp (s : Machine.State) : Machine.State := { s with epochs := { s.epochs with map := [(0, 3)] } }
def z1 : RedHdr := {rd with tag := 5}
def z2 : State := hs v fun h => {h with routers := [(3, [rr])]}
def z3 : RedHdr := {rd with rop := 0, fmt := 3}
def z5 : State := hs {st := .V, lock := some 7} id
def z7 : State := hs {v with dirty := true} id

/-- States and operands that meet the hypotheses of the clauses of `ReductionPackets`. -/
theorem witness_ReductionPackets :
    (domainUp (hs v id) = true ∧
    rd.tag = (0 : BitVec 12) ∧
    z3.tag = (0 : BitVec 12) ∧
    d128.length = 128 ∧
    fmtBits z3.fmt.toNat ∈ [8, 16, 32] ∧
    2 ^ 28 ≤ z3.line.toNat * 128 ∧
    paPass (hs v id) (Who.ctx z3.ctx (ctxPart (hs v id) z3.ctx.toNat)) true (z3.line.toNat * 128) = true ∧
    (getLine (hs v id) z3.line.toNat).st = LState.V) ∧
    (linePoisoned (hs v id) z3.line.toNat = false ∧
    QuietLine (hs v id) z3.line.toNat ∧
    routerRound z2 (BitVec.toNat (3 : BitVec 7)) z1.line.toNat z1.tag.toNat = [rr]) := 
  ⟨by decide +kernel,
    by decide +kernel⟩

/-- States and operands that meet the hypotheses of the clauses of `ErrorsCounted`. -/
theorem witness_ErrorsCounted :
    (running (mp up) = true ∧
    corePresent (mp up) (coreKey (0 : Fin 4) (0 : Fin 24)) = true ∧
    getGroup (mp up) (coreKey (0 : Fin 4) (0 : Fin 24)) 0 = none ∧
    (tget (mp up).epochs.windows (unitId 0 1 0) { }).count + 1 < (mp up).epochs.threshold ∧
    running (mp (thr 1)) = true ∧
    corePresent (mp (thr 1)) (coreKey (0 : Fin 4) (0 : Fin 24)) = true ∧
    (getCore (mp (thr 1)) (coreKey (0 : Fin 4) (0 : Fin 24))).groups = [] ∧
    (¬(tget (mp (thr 1)).epochs.windows (unitId 0 1 0) { }).count + 1 < (mp (thr 1)).epochs.threshold)) ∧
    (running (mp cx) = true ∧
    corePresent (mp cx) (coreKey (0 : Fin 4) (0 : Fin 24)) = true ∧
    (getCore (mp cx) (coreKey (0 : Fin 4) (0 : Fin 24))).array.owner = some (1 : BitVec 12) ∧
    (getCore (mp cx) (coreKey (0 : Fin 4) (0 : Fin 24))).array.queue = [] ∧
    arraysOf (mp cx) (1 : BitVec 12) = [coreKey (0 : Fin 4) (0 : Fin 24)] ∧
    groupsOf (mp cx) (1 : BitVec 12) = [] ∧
    getCtx (mp cx) (BitVec.toNat (1 : BitVec 12)) = some ctx1 ∧
    (getSlot (mp cx) ctx1.slot).protect ≠ 0) ∧
    ((getSlot (mp cx) ctx1.slot).overflowed = false ∧
    (tget (mp cx).epochs.windows (unitId 0 1 0) { }).count + 1 < (mp cx).epochs.threshold ∧
    (getCC (mp up) 0).retired = false ∧
    (tget (mp up).epochs.windows (unitId 4 7 0) { }).count + 1 < (mp up).epochs.threshold ∧
    (getCC (mp (thr 1)) 0).retired = false ∧
    (¬(tget (mp (thr 1)).epochs.windows (unitId 4 7 0) { }).count + 1 < (mp (thr 1)).epochs.threshold)) := 
  ⟨by decide +kernel,
    by decide +kernel,
    by decide +kernel⟩

/-- States and operands that meet the hypotheses of the clauses of `WindowsAndSelfTests`. -/
theorem witness_WindowsAndSelfTests :
    tfind we.epochs.windows (BitVec.toNat (261 : W32)) = some w0 ∧
    running we = true ∧
    (∀ (g : Nat × Group), g ∈ (getCore we (coreKey (0 : Fin 4) (0 : Fin 24))).groups → (getSlot we (slotOfCtx we g.snd.ctx.toNat)).cls ≠ 0) := by decide +kernel

/-- States and operands that meet the hypotheses of the clauses of `DomainGoesDown`. -/
theorem witness_DomainGoesDown :
    (halyard (hs { st := LState.K } id) = true ∧
    (hs { st := LState.K } id).life = Life.usable ∧
    (hs { st := LState.K } id).homes.down = false ∧
    (hs { st := LState.K } id).homes.dead = false ∧
    (getLine (hs { st := LState.K } id) (BitVec.ofNat 41 ln).toNat).st = LState.K ∧
    halyard z5 = true ∧
    z5.life = Life.usable ∧
    z5.homes.down = false) ∧
    (z5.homes.dead = false ∧
    (getLine z5 (BitVec.ofNat 41 ln).toNat).lock = some 7 ∧
    1 ≠ 0 ∧
    1 ≠ 2 ∧
    2 = 2 ∧
    BitVec.toNat (5 : W16) < 8 ∧
    (getLink z5 (BitVec.toNat (5 : W16))).state = 6 ∧
    (hs { st := LState.K } id).homes.spareRows ≠ 0) := 
  ⟨by decide +kernel,
    by decide +kernel⟩

/-- States and operands that meet the hypotheses of the clauses of `SliceDataErrors`. -/
theorem witness_SliceDataErrors :
    (domainUp z7 = true ∧
    halyard z7 = true ∧
    (getLine z7 (BitVec.ofNat 41 ln).toNat).st ≠ LState.I ∧
    (tget z7.epochs.windows (unitId (sliceDie 5) 3 5) { }).count + 1 < z7.epochs.threshold ∧
    (getLine z7 (BitVec.ofNat 41 ln).toNat).dirty = true ∧
    domainUp (hs v id) = true ∧
    halyard (hs v id) = true ∧
    (getLine (hs v id) (BitVec.ofNat 41 ln).toNat).st ≠ LState.I) ∧
    ((tget (hs v id).epochs.windows (unitId (sliceDie 5) 3 5) { }).count + 1 < (hs v id).epochs.threshold ∧
    (getLine (hs v id) (BitVec.ofNat 41 ln).toNat).dirty = false ∧
    (getOwn (hs v id) ((BitVec.ofNat 41 ln).toNat / 512)).poison = false ∧
    replicaOf z7 ((BitVec.ofNat 41 ln).toNat * 128) = none) := 
  ⟨by decide +kernel,
    by decide +kernel⟩

/-- States and operands that meet the hypotheses of the clauses of `DomainComesBack`. -/
theorem witness_DomainComesBack :
    (halyard dn = true ∧
    dn.life = Life.usable ∧
    dn.homes.down = true ∧
    dn.homes.dead = false ∧
    restartFailed dn = false ∧
    linksActive dn = true ∧
    monitorPoisoned dn = false ∧
    dn.pcie = []) ∧
    (dn.disp.vfs = [] ∧
    slotsInUse dn = [] ∧
    (∀ (c : Nat × Core), c ∈ dn.cores → c.snd.array.queue = [])) := 
  ⟨by decide +kernel,
    by decide +kernel⟩

end Sys2Proof.Tests.P10

namespace Sys2Proof.Tests.P11

open Sys2Proof Sys2Proof.Machine Sys2Proof.Tests

def hg : Group := { grp {} with halting := true, cause := 0x06 }
def dx : Ctx := { ctx1 with debugOk := false, preempt := 0x30000000 }
def gS (g : Group) (c : Ctx) : Machine.State := { onTC g with disp := {up.disp with ctxs := [(1, c)]} }
def sg : Group := { grp {} with gstate := .halted, saveReq := true }
def px : Ctx := { dx with preempting := true }
def im : List Byte := imageBytes { grp { gpr := [(4,7)], tile := [(2,3)] } with gstate := .halted } 0 0x10 0 4
def sv : Saved := { entry := 3, place := 0, cohort := 2, cid := 1, lss := 0, array := false, number := 5, alloc := 64, gstate := .running, cause := 0 }
def rx : Ctx := { ctx1 with preempt := 0x30000000, saved := [(0, sv)] }
def rS (bs : List Byte) : Machine.State := { up with disp := {up.disp with ctxs := [(1, rx)]}, mem := mwriteN [] 0x30000000 bs, epochs := { up.epochs with map := [(0, 3)] } }
def z2 : State := gS {hg with cause := 0, matrix := 1} dx
def z3 : Group := {hg with cause := 0, matrix := 1}
def z4 : State := gS {sg with saveReq := false, cutReq := true} dx
def z5 : Group := {sg with saveReq := false, cutReq := true}
def z7 : State := {gS sg px with disp := {up.disp with ctxs := [(1, px)], entries := [(0, {ctx := 1, words := [], seq := 0, queue := 0, user := 0})]}}

/-- States and operands that meet the hypotheses of the clauses of `GroupsHalt`. -/
theorem witness_GroupsHalt :
    (running (gS hg dx) = true ∧
    getGroup (gS hg dx) (coreKey (0 : Fin 4) (0 : Fin 24)) 0 = some hg ∧
    hg.halting = true ∧
    hg.tmoves = [] ∧
    hg.matrix = 0 ∧
    (hg.stack ≠ [] ∨ hg.cause ≠ 0) ∧
    (getCore (gS hg dx) (coreKey (0 : Fin 4) (0 : Fin 24))).port = [] ∧
    running z2 = true) ∧
    (getGroup z2 (coreKey (0 : Fin 4) (0 : Fin 24)) 0 = some z3 ∧
    z3.halting = true ∧
    (z3.tmoves ≠ [] ∨ z3.matrix ≠ 0 ∨ z3.waitIds ≠ []) ∧
    hg.waitIds = []) := 
  ⟨by decide +kernel,
    by decide +kernel⟩

/-- States and operands that meet the hypotheses of the clauses of `GroupsSaved`. -/
theorem witness_GroupsSaved :
    (running (gS sg dx) = true ∧
    getGroup (gS sg dx) (coreKey (0 : Fin 4) (0 : Fin 24)) 0 = some sg ∧
    getCtx (gS sg dx) sg.ctx.toNat = some dx ∧
    sg.gstate ≠ GState.running ∧
    sg.atCut = false ∧
    outStores (gS sg dx) (slotIssuer (coreKey (0 : Fin 4) (0 : Fin 24)) 0) = [] ∧
    (getCore (gS sg dx) (coreKey (0 : Fin 4) (0 : Fin 24))).port = [] ∧
    sg.saveReq = true) ∧
    (tsorted (getCore (gS sg dx) (coreKey (0 : Fin 4) (0 : Fin 24))).groups = true ∧
    running z4 = true ∧
    getGroup z4 (coreKey (0 : Fin 4) (0 : Fin 24)) 0 = some z5 ∧
    getCtx z4 z5.ctx.toNat = some dx ∧
    z5.gstate ≠ GState.running ∧
    z5.atCut = false ∧
    outStores z4 (slotIssuer (coreKey (0 : Fin 4) (0 : Fin 24)) 0) = [] ∧
    (getCore z4 (coreKey (0 : Fin 4) (0 : Fin 24))).port = []) ∧
    (z5.saveReq = false ∧
    z5.cutReq = true ∧
    getCtx z7 (BitVec.toNat (1 : BitVec 12)) = some px ∧
    px.preempting = true ∧
    groupsOf z7 (1 : BitVec 12) ≠ []) := 
  ⟨by decide +kernel,
    by decide +kernel,
    by decide +kernel⟩

/-- States and operands that meet the hypotheses of the clauses of `GroupsRestored`. -/
theorem witness_GroupsRestored :
    (running (rS im) = true ∧
    getCtx (rS im) (BitVec.toNat (1 : BitVec 12)) = some rx ∧
    tfind rx.saved 0 = some sv ∧
    rx.preempting = false ∧
    workOk (rS im) (BitVec.toNat (1 : BitVec 12)) = true ∧
    (rS im).cores = [] ∧
    corePresent (rS im) (coreKey (0 : Fin 4) (0 : Fin 24)) = true ∧
    bit (getPart (rS im) rx.part).cores (coreKey (0 : Fin 4) (0 : Fin 24)) = true) ∧
    (sv.alloc ≤ 64 ∧
    sv.lss ≤ 6 * 2 ^ 20 ∧
    (∀ (j : Nat), j < 134 → linePoisoned (rS im) ((if sv.cut = true then rx.epsave + 2 ^ 22 + 32768 * 0 else rx.preempt + 32768 * 0) / 128 + j) = false) ∧
    imageOk (imageOf (memBytes (rS im) (if sv.cut = true then rx.epsave + 2 ^ 22 + 32768 * 0 else rx.preempt + 32768 * 0) 17024)) sv.alloc = true ∧
    sv.gstate = GState.running ∧
    (∃ e, e ∈ imageStack (imageOf (memBytes (rS im) (if sv.cut = true then rx.epsave + 2 ^ 22 + 32768 * 0 else rx.preempt + 32768 * 0) 17024)) ∧ e.park = Park.run) ∧
    tsorted rx.saved = true ∧
    running (rS [(1 : Byte)]) = true) ∧
    (getCtx (rS [(1 : Byte)]) (BitVec.toNat (1 : BitVec 12)) = some rx ∧
    workOk (rS [(1 : Byte)]) (BitVec.toNat (1 : BitVec 12)) = true ∧
    (rS [(1 : Byte)]).cores = [] ∧
    corePresent (rS [(1 : Byte)]) (coreKey (0 : Fin 4) (0 : Fin 24)) = true ∧
    bit (getPart (rS [(1 : Byte)]) rx.part).cores (coreKey (0 : Fin 4) (0 : Fin 24)) = true ∧
    (∀ (j : Nat), j < 134 → linePoisoned (rS [(1 : Byte)]) ((if sv.cut = true then rx.epsave + 2 ^ 22 + 32768 * 0 else rx.preempt + 32768 * 0) / 128 + j) = false) ∧
    imageOk (imageOf (memBytes (rS [(1 : Byte)]) (if sv.cut = true then rx.epsave + 2 ^ 22 + 32768 * 0 else rx.preempt + 32768 * 0) 17024)) sv.alloc = false ∧
    rx.state ≠ CtxState.ended) ∧
    ((rS [(1 : Byte)]).disp.entries = []) := 
  ⟨by decide +kernel,
    by decide +kernel,
    by decide +kernel,
    by decide +kernel⟩

end Sys2Proof.Tests.P11

namespace Sys2Proof.Tests.P12

open Sys2Proof Sys2Proof.Machine Sys2Proof.Tests

def rq : OutReq := { id := 5, tgt := 1, dev := 0, addr := 0x1000, va := 0x2000, kind := .load, who := .cc 0, ctx := 0 }
def ol : OutLane := ⟨0, 4, 4, true⟩
def cw : CCore := { core0 {} with waitIds := [5] }
def oS (r : OutReq) : Machine.State := { up with ccs := [(0, cw)], fabric := { up.fabric with out := [r] } }
def lw : List Nat := [2^60, 0, 0, 0, 0x40000000, 0x20, 0, 0, 4 * 2^32 + 2 * 2^24 + 1 * 2^22, 256 * 2^40, 0x99] ++ List.replicate 5 0
def w0 : Work := { place := 0, words := lw }
def x0 : Entry := { queue := 3, ctx := 1, seq := 0, user := 0, words := lw, phase := .checked, parts := [w0] }
def lS (x : Entry) : Machine.State := { up with disp := { up.disp with parts := [(0, {partition0 with cores := 1})], ctxs := [(1, ctx1)], entries := [(5, x)], queues := [(3, {ctx := 1})] }, epochs := { up.epochs with map := [(0, 3)] } }
def p0 : Placement := placementOf x0 5 w0 0
def wbig : Work := {w0 with words := lw.set 8 (400 * 2^32 + 200 * 2^24)}
def xbig : Entry := {x0 with words := wbig.words, parts := [wbig]}
def wr : Work := {w0 with running := true, toPlace := [0,1], cores := [0]}
def xr : Entry := {x0 with phase := .running, parts := [wr]}
def wp : Work := {w0 with running := true, toPlace := [1], placed := [(0, 0, false)]}
def xp : Entry := {x0 with phase := .running, parts := [wp]}
def we : Work := {w0 with running := true, toPlace := [], placed := [(0, 1, true)]}
def xe : Entry := {x0 with phase := .running, parts := [we]}
def co : Cohort := { id := 1, ctx := 1, entry := 5, number := 1, ended := true }
def z0 : State := oS {rq with lanes := [ol]}
def z1 : OutReq := {rq with lanes := [ol]}
def z2 : State := oS {rq with kind := .store}
def z3 : OutReq := {rq with kind := .store}
def z4 : State := oS {rq with kind := .store, tgt := 3}
def z5 : OutReq := {rq with kind := .store, tgt := 3}
def z6 : State := {lS xp with cores := [(0, {testing := true})]}
def z7 : State := {lS xe with cores := [(0, {cohorts := [co]})]}

/-- States and operands that meet the hypotheses of the clauses of `OffDeviceAnswers`. -/
theorem witness_OffDeviceAnswers :
    (halyard z0 = true ∧
    z0.fabric.out = [z1] ∧
    z1.id = 5 ∧
    z1.who = Issuer.cc (0 : Fin 96) ∧
    z1.failed = false ∧
    z1.denied = false ∧
    z1.orphan = false ∧
    z1.tgt ≠ 3) ∧
    (z1.kind = OutKind.load ∧
    z1.lanes = [ol] ∧
    ol.size ≤ 8 ∧
    (getCC z0 0).waitIds = [5] ∧
    (getCC z0 0).results = [] ∧
    (getCC z0 0).armed = false ∧
    halyard z2 = true ∧
    z2.fabric.out = [z3]) ∧
    (z3.id = 5 ∧
    z3.who = Issuer.cc (0 : Fin 96) ∧
    z3.failed = false ∧
    z3.denied = false ∧
    z3.orphan = false ∧
    z3.tgt ≠ 3 ∧
    z3.kind = OutKind.store ∧
    halyard z4 = true) ∧
    (z4.fabric.out = [z5] ∧
    z5.id = 5 ∧
    z5.who = Issuer.cc (0 : Fin 96) ∧
    z5.failed = false ∧
    z5.denied = false ∧
    z5.orphan = false ∧
    z5.tgt = 3 ∧
    z5.kind = OutKind.store) := 
  ⟨by decide +kernel,
    by decide +kernel,
    by decide +kernel,
    by decide +kernel⟩

/-- States and operands that meet the hypotheses of the clauses of `LaunchesRun`. -/
theorem witness_LaunchesRun :
    (running (lS x0) = true ∧
    getEntry (lS x0) (BitVec.toNat (5 : BitVec 10)) = some x0 ∧
    startable (lS x0) x0 1 = some w0 ∧
    tagBit w0.words = false ∧
    noResources (lS x0) x0.ctx w0.words = false ∧
    running (lS xbig) = true ∧
    getEntry (lS xbig) (BitVec.toNat (5 : BitVec 10)) = some xbig ∧
    startable (lS xbig) xbig 1 = some wbig) ∧
    (tagBit wbig.words = false ∧
    noResources (lS xbig) xbig.ctx wbig.words = true ∧
    xbig.parts = [wbig] ∧
    wbig.tag = 0 ∧
    xbig.phase = EPhase.checked ∧
    running (lS xr) = true ∧
    getEntry (lS xr) (BitVec.toNat (5 : BitVec 10)) = some xr ∧
    workOk (lS xr) xr.ctx.toNat = true) ∧
    (restoreFirst (lS xr) xr = false ∧
    placing xr = some (wr, 0) ∧
    cohortCore (lS xr) xr wr 0 = some (coreKey (0 : Fin 4) (0 : Fin 24)) ∧
    running z6 = true ∧
    getEntry z6 p0.entry.toNat = some xp ∧
    xp.ctx = p0.ctx ∧
    List.find? (fun v => v.placed.contains (coreKey (0 : Fin 4) (0 : Fin 24), BitVec.toNat p0.cohort, false)) xp.parts = some wp ∧
    coreFits z6 (coreKey (0 : Fin 4) (0 : Fin 24)) (BitVec.toNat p0.ncoh) (16 * (p0.alloc.toNat + 1)) (256 * p0.lss.toNat) p0.array p0.ctx = false) ∧
    (running (lS xp) = true ∧
    getEntry (lS xp) p0.entry.toNat = some xp ∧
    coreFits (lS xp) (coreKey (0 : Fin 4) (0 : Fin 24)) (BitVec.toNat p0.ncoh) (16 * (p0.alloc.toNat + 1)) (256 * p0.lss.toNat) p0.array p0.ctx = true ∧
    (getCore (lS xp) (coreKey (0 : Fin 4) (0 : Fin 24))).groups = [] ∧
    1 ≤ BitVec.toNat p0.ncoh ∧
    List.find? (fun y => decide (y.snd.ctx = (1 : BitVec 12)) && y.snd.parts.any fun v => v.placed.contains (coreKey (0 : Fin 4) (0 : Fin 24), BitVec.toNat (0 : W32), false)) (lS xp).disp.entries = some (5, xp) ∧
    getEntry (lS xp) 5 = some xp ∧
    List.find? (fun v => v.placed.contains (coreKey (0 : Fin 4) (0 : Fin 24), BitVec.toNat (0 : W32), false)) xp.parts = some wp) ∧
    (running z7 = true ∧
    List.find? (fun y => y.ended && decide (y.ctx = (1 : BitVec 12)) && decide (y.number = BitVec.toNat (1 : W32))) (getCore z7 (coreKey (0 : Fin 4) (0 : Fin 24))).cohorts = some co ∧
    getEntry z7 co.entry = some xe ∧
    xe.parts = [we] ∧
    we.place = co.place ∧
    we.running = true ∧
    we.toPlace = [] ∧
    we.tag = 0) ∧
    (we.placed = [(coreKey (0 : Fin 4) (0 : Fin 24), co.number, true)] ∧
    xe.phase = EPhase.running ∧
    (∀ (y : Ctx), getCtx z7 (BitVec.toNat (1 : BitVec 12)) = some y → y.saved = [])) := 
  ⟨by decide +kernel,
    by decide +kernel,
    by decide +kernel,
    by decide +kernel,
    by decide +kernel,
    by decide +kernel⟩

end Sys2Proof.Tests.P12

namespace Sys2Proof.Tests.P13

open Sys2Proof Sys2Proof.Machine Sys2Proof.Tests

def cwd : List Nat := [2 * 2^60, 0, 0, 0, 0x100008, 0x200010, 100 * 2^24] ++ List.replicate 9 0
def wc : Work := { place := 0, words := cwd }
def xc : Entry := { queue := 3, ctx := 1, seq := 0, user := 0, words := cwd, phase := .checked, parts := [wc] }
def la : Leaf := { oa := 0x30000000, u := true, r := true, w := true }
def lb : Leaf := { oa := 0x40000000, u := true, r := true, w := true }
def cS : Machine.State := { up with
  disp := { up.disp with ctxs := [(1, ctx1)], entries := [(5, xc)], queues := [(3, {ctx := 1, prio := 7})] }
  homes := { lines := [(0x30000000/128, {st := .V}), (0x40000000/128, {st := .V})] }
  mem := mwriteN [] 0x30000000 ((List.range 128).map fun i => BitVec.ofNat 8 (i+1))
  hbm := {up.hbm with own := [(0x3000, {owner := 1, state := 2, zero := false}), (0x4000, {owner := 1, state := 2, zero := false})]}
  xlat := { held := [{ctx := 1, page := 0x10, leaf := la}, {ctx := 1, page := 0x20, leaf := lb}] } }
def wt : Watch := { line := 5, consumer := .cc 0, part := 0, ctx := 0, pending := true }
def sw : List Nat := [4 * 2^60] ++ List.replicate 15 0
def xs : Entry := { queue := 3, ctx := 1, seq := 0, user := 0, words := sw, phase := .checked, parts := [{wc with place := 1}] }
def lw : List Nat := [2^60, 0, 0, 0, 0x40000000, 0x20, 0, 0, 4 * 2^32 + 2 * 2^24 + 1 * 2^22, 256 * 2^40, 0x99] ++ List.replicate 5 0
def wr : Work := { place := 0, words := lw, running := true, toPlace := [0,1], cores := [0]}
def xr : Entry := {xc with phase := .running, parts := [wr], words := lw}
def x2 : Entry := {xr with ctx := 2, queue := 4, parts := [{wr with toPlace := [], placed := [(0,0,true)]}] }
def pS : Machine.State := { up with
  cores := [(0, {testing := true, groups := [(0, {grp {} with ctx := 2, entry := 6})]})]
  disp := { up.disp with parts := [(0, {partition0 with cores := 1})], ctxs := [(1, ctx1), (2, ctx1)], entries := [(5, xr), (6, x2)], queues := [(3, {ctx := 1, prio := 7}), (4, {ctx := 2, prio := 1})] }
  epochs := { up.epochs with map := [(0, 3)] } }
def q0 : Queue := { ctx := 1, ring := 0x50000000, compl := 0x60000000, logn := 0, clogn := 0, ctail := 3 }
def xd : Entry := { xc with queue := 9, phase := .completed }
def kS : Machine.State := { up with
  disp := { up.disp with parts := [(0, {partition0 with cores := 1})], ctxs := [(1, ctx1)], entries := [(5, xd)], queues := [(9, q0)], order := [5] }
  homes := { lines := [(0x60000000/128, {st := .V}), (0x60000000/128+1, {st := .V}), (0x60000000/128+2, {st := .V})] }
  hbm := {up.hbm with own := [(0x6000, {owner := 1, state := 2, zero := false}), (0x5000, {owner := 1, state := 2, zero := false})]} }
def dS (tail : Nat) (bs : List Byte) (q : Queue) : Machine.State := { kS with
  mem := mwriteN (mwriteN [] 0x50000000 (natLe 8 tail)) 0x50000100 bs
  disp := { kS.disp with entries := [], order := [], queues := [(9, q)], watches := [(9, {wt with pending := true})] }
  epochs := {up.epochs with slots := [(1, {protect := 0})] } }
def z0 : State := {cS with disp := {cS.disp with entries := [(5, xs)], watches := [(7, wt)]}}
def z1 : State := dS 0 [] {q0 with ctail := 0}
def z2 : Queue := {q0 with ctail := 0}
def z3 : State := dS 17 [] {q0 with ctail := 0}
def z4 : Queue := {q0 with ctail := 0}
def z5 : State := dS 1 ((cwd.set 7 0).flatMap (natLe 8)) {q0 with ctail := 0}
def z6 : Queue := {q0 with ctail := 0}

/-- States and operands that meet the hypotheses of the clauses of `DispatcherWork`. -/
theorem witness_DispatcherWork :
    (running cS = true ∧
    getEntry cS (BitVec.toNat (5 : BitVec 10)) = some xc ∧
    startable cS xc 2 = some wc ∧
    xc.parts = [wc] ∧
    xc.phase = EPhase.checked ∧
    wc.tag = 0 ∧
    wc.wrote = false ∧
    heldOf cS xc.ctx.toNat (dw wc.words 4) = some la) ∧
    (heldOf cS xc.ctx.toNat (dw wc.words 5) = some lb ∧
    la.tgt = 0 ∧
    lb.tgt = 0 ∧
    0 < lenField wc.words ∧
    dw wc.words 4 % 128 + lenField wc.words ≤ 128 ∧
    dw wc.words 5 % 128 + lenField wc.words ≤ 128 ∧
    (getLine cS (outAddr la (dw wc.words 4) / 128)).st = LState.V ∧
    linePoisoned cS (outAddr la (dw wc.words 4) / 128) = false) ∧
    (lineDeferred cS (copyBy cS xc.ctx).key (outAddr lb (dw wc.words 5) / 128) = false ∧
    QuietSpan cS (outAddr lb (dw wc.words 5)) (lenField wc.words) ∧
    running z0 = true ∧
    getEntry z0 (BitVec.toNat (5 : BitVec 10)) = some xs ∧
    kindOf xs.words = 4 ∧
    xs.phase = EPhase.checked ∧
    orderOk z0 xs = true ∧
    workOk z0 xs.ctx.toNat = true ∧
    (∃ v, v ∈ xs.parts ∧ v.done = false)) ∧
    (running pS = true ∧
    getEntry pS (BitVec.toNat (5 : BitVec 10)) = some xr ∧
    prioOf pS xr = 7 ∧
    workOk pS xr.ctx.toNat = true ∧
    placing xr = some (wr, 0) ∧
    cohortCore pS xr wr 0 = none ∧
    victimCtx pS xr.ctx = some 2 ∧
    getCtx pS 2 = some ctx1) ∧
    (tfind z0.disp.watches (BitVec.toNat (7 : BitVec 14)) = some wt ∧
    wt.pending = true ∧
    wt.consumer = Consumer.cc 0) := 
  ⟨by decide +kernel,
    by decide +kernel,
    by decide +kernel,
    by decide +kernel,
    by decide +kernel⟩

/-- No partition is torn down. -/
theorem parts_run : ∀ q ∈ kS.disp.parts, q.2.state ≠ 2 := by decide +kernel

/-- States and operands that meet the hypotheses of the clauses of `CompletionRecords`. -/
theorem witness_CompletionRecords :
    (running kS = true ∧
    getEntry kS (BitVec.toNat (5 : BitVec 10)) = some xd ∧
    xd.queue = BitVec.toNat (9 : BitVec 14) ∧
    getQueue kS (BitVec.toNat (9 : BitVec 14)) = some q0 ∧
    xd.phase = EPhase.completed ∧
    xd.heldFor = none ∧
    firstWaiting kS (BitVec.toNat (9 : BitVec 14)) = some (BitVec.toNat (5 : BitVec 10)) ∧
    q0.ctail - leNat (memBytes kS (q0.compl + 128) 8) < 2 ^ (q0.clogn + 6)) ∧
    (bit (dw xd.words 0) 56 = false ∧
    q0.deleting = false ∧
    q0.compl % 128 = 0 ∧
    tsorted kS.disp.entries = true ∧
    (∀ (c : Nat × Ctx), c ∈ kS.disp.ctxs → ∀ (r : Replay), r ∈ c.snd.replay → r.waiting = false) ∧
    (getLine kS (q0.compl / 128 + 1)).st = LState.V ∧
    QuietSpan kS (q0.compl + 256 + 32 * (q0.ctail % 2 ^ (q0.clogn + 6))) 32 ∧
    QuietSpan kS q0.compl 8) ∧
    (∀ (p : Nat), (getPart kS p).state ≠ 2) := 
  ⟨by decide +kernel,
    by decide +kernel,
    fun p => tget_all (P := fun (q : Partition) => q.state ≠ 2) (by decide) parts_run p⟩

/-- States and operands that meet the hypotheses of the clauses of `DescriptorsFetched`. -/
theorem witness_DescriptorsFetched :
    (running z1 = true ∧
    getQueue z1 (BitVec.toNat (9 : BitVec 14)) = some z2 ∧
    z2.state = 1 ∧
    z2.deleting = false ∧
    2 ^ 28 ≤ z2.ring ∧
    leNat (memBytes z1 z2.ring 8) ≤ z2.head ∧
    running z3 = true ∧
    getQueue z3 (BitVec.toNat (9 : BitVec 14)) = some z4) ∧
    (z4.state = 1 ∧
    z4.deleting = false ∧
    2 ^ 28 ≤ z4.ring ∧
    z4.head + 2 ^ (z4.logn + 4) < leNat (memBytes z3 z4.ring 8) ∧
    z3.disp.entries = [] ∧
    running z5 = true ∧
    getQueue z5 (BitVec.toNat (9 : BitVec 14)) = some z6 ∧
    z6.state = 1) ∧
    (z6.deleting = false ∧
    2 ^ 28 ≤ z6.ring ∧
    leNat (memBytes z5 z6.ring 8) = z6.head + 1 ∧
    z5.disp.queues = [(BitVec.toNat (9 : BitVec 14), z6)] ∧
    mayFetch z5 z6 = true ∧
    z5.disp.entries = [] ∧
    (getSlot z5 (slotOfCtx z5 z6.ctx.toNat)).protect = 0) := 
  ⟨by decide +kernel,
    by decide +kernel,
    by decide +kernel⟩

end Sys2Proof.Tests.P13

namespace Sys2Proof.Tests.P14

open Sys2Proof Sys2Proof.Machine Sys2Proof.Tests

def cwd : List Nat := [2 * 2^60, 0, 0, 0, 0x100008, 0x200010, 100 * 2^24] ++ List.replicate 9 0
def xc : Entry := { queue := 3, ctx := 1, seq := 0, user := 0, words := cwd, phase := .fetched }
def la : Leaf := { oa := 0x30000000, u := true, r := true, w := true }
def lb : Leaf := { oa := 0x40000000, u := true, r := true, w := true }
def fS (own2 : Nat) (c : Tab Leaf) : Machine.State := { up with
  dies := up.dies.map fun p => (p.1, { p.2 with xlat := c })
  disp := { up.disp with ctxs := [(1, ctx1)], entries := [(5, xc)], queues := [(3, {ctx := 1})] }
  hbm := {up.hbm with own := [(0x3000, {owner := 1, state := 2, zero := false}), (0x4000, {owner := own2, state := 2, zero := false})]} }
def both : Tab Leaf := [(pageKey 1 0x100000, la), (pageKey 1 0x200000, lb)]
def okOf (s : Machine.State) : Machine.State × List FRange × Machine.State × List Byte × List (Nat × Leaf) :=
  match gather s xc with
  | (s1, .ok rs, _) => (match checkPages s1 1 0 (pagesUnion rs) with | (s2, .ok bs, ps) => (s1, rs, s2, bs, ps) | (s2, _, ps) => (s1, rs, s2, [], ps))
  | (s1, _, _) => (s1, [], s1, [], [])
def g1 := okOf (fS 1 both)
def xo : Entry := { xc with words := [2 * 2^60 + 2^32, 0x200000, 0, 0, 0x100008, 0x200010, 100 * 2^24] ++ List.replicate 9 0 }
def oS : Machine.State := {fS 2 both with disp := {(fS 2 both).disp with entries := [(5, xo)]}}
def oF : Machine.State := {fS 1 [] with disp := {(fS 1 []).disp with entries := [(5, xo)]}}
def stS : Machine.State := {oS with mem := mwriteN [] 0x40000000 (natLe 8 0 ++ natLe 8 (2^24)) , hbm := (fS 1 both).hbm, homes := {lines := [(0x40000000/128, {st := .V})]}}
def wS (b : Tab Leaf) : Machine.State := fS 1 b
def z0 : List (List Nat) := (gather (fS 1 both) xc).2.2
def z1 : State := (walk (wS []) 1 1 (ctxRoot (wS []) 1) 0x100000 .read true).1

/-- States and operands that meet the hypotheses of the clauses of `FootprintsChecked`. -/
theorem witness_FootprintsChecked :
    (running (fS 1 both) = true ∧
    getEntry (fS 1 both) (BitVec.toNat (5 : BitVec 10)) = some xc ∧
    xc.phase = EPhase.fetched ∧
    xc.waiting = false ∧
    workOk (fS 1 both) xc.ctx.toNat = true ∧
    gather (fS 1 both) xc = (g1.fst, Gather.ok g1.snd.fst, z0) ∧
    List.length (pagesUnion g1.snd.fst) ≤ 65536 ∧
    checkPages g1.fst xc.ctx 0 (pagesUnion g1.snd.fst) = (g1.snd.snd.fst, VaRes.ok g1.snd.snd.snd.fst, g1.snd.snd.snd.snd)) ∧
    (g1.snd.snd.fst.xlat.held.length + g1.snd.snd.snd.snd.length ≤ 65536 ∧
    running stS = true ∧
    getEntry stS (BitVec.toNat (5 : BitVec 10)) = some xo ∧
    xo.phase = EPhase.fetched ∧
    xo.waiting = false ∧
    workOk stS xo.ctx.toNat = true ∧
    gather stS xo = ((gather stS xo).fst, Gather.status 4, (gather stS xo).snd.snd) ∧
    getEntry (gather stS xo).fst (BitVec.toNat (5 : BitVec 10)) = some xo) ∧
    (xo.parts = [] ∧
    running oS = true ∧
    getEntry oS (BitVec.toNat (5 : BitVec 10)) = some xo ∧
    workOk oS xo.ctx.toNat = true ∧
    gather oS xo = ((gather oS xo).fst, Gather.own 2097152, (gather oS xo).snd.snd) ∧
    getEntry (gather oS xo).fst (BitVec.toNat (5 : BitVec 10)) = some xo) := 
  ⟨by decide +kernel,
    by decide +kernel,
    by decide +kernel⟩

/-- States and operands that meet the hypotheses of the clauses of `WalksAnswer`. -/
theorem witness_WalksAnswer :
    running (wS []) = true ∧
    (getCtx (wS []) (BitVec.toNat (1 : BitVec 12))).isSome = true ∧
    Machine.walk (wS []) 1 (BitVec.toNat (1 : BitVec 12)) (ctxRoot (wS []) (BitVec.toNat (1 : BitVec 12))) (BitVec.toNat (1048576 : W64)) Acc.read true = (z1, XRes.fault 0 4) := by decide +kernel

/-- A descriptor whose first footprint page no table maps, for the fault clause of `FootprintsChecked`. -/
theorem witness_FootprintsFault :
    running oF = true ∧ getEntry oF 5 = some xo ∧ xo.phase = .fetched ∧ xo.waiting = false ∧ workOk oF xo.ctx.toNat = true ∧
    gather oF xo = ((gather oF xo).1, .fault 0x200000 0 4, (gather oF xo).2.2) ∧ getEntry (gather oF xo).1 5 = some xo := by
  decide +kernel

end Sys2Proof.Tests.P14

namespace Sys2Proof.Tests.P15

open Sys2Proof Sys2Proof.Machine Sys2Proof.Tests

def wk : Machine.State := { up with
  dies := up.dies.map fun p => (p.1, { p.2 with walks := [(walkKey 1 1 0x100000, 0x70000000)] })
  mem := mwriteN [] 0x70000080 (natLe 8 0x30000027)
  homes := { lines := [(0x70000080/128, {st := .V})] }
  disp := { up.disp with ctxs := [(1, ctx1)] }
  hbm := {up.hbm with own := [(0x3000, {owner := 1, state := 2, zero := false})]} }
def wr := walk wk 1 1 (ctxRoot wk 1) 0x100000 .read true
def wl : Leaf := match wr.2 with | .ok l => l | _ => {}
def cT : Ctx := { ctx1 with trapq := 0x30000000, trapcore := 2 }
def tr : TrapRec := { ctx := 1, cause := 6, die := 0, core := 1, group := 2, lane := 3, seq := 9, lanemask := 3, pc := 0x1000, val := 0x77 }
def rS : Machine.State := { up with
  disp := { up.disp with ctxs := [(1, cT)] }
  homes := { lines := [(0x30000100/128, {st := .V}), (0x30000000/128, {st := .V})] }
  mem := mwriteN [] 0x30000000 [1,2,3]
  hbm := {up.hbm with own := [(0x3000, {owner := 1, state := 2, zero := false})]} }
def fr : FaultRec := { ctx := 1, part := 0, program := false, reason := 0, access := 1, first := 1, va := 0x100000, level := 2 }
def en : Entry := { queue := 3, ctx := 1, seq := 0, user := 0, words := [], phase := .fetched, waiting := true }
def fS (rs : List OpenRec) (ring : FaultRing) : Machine.State := { rS with
  disp := { rS.disp with entries := [(5, en)], queues := [(3, {ctx := 1})] }
  xlat := { records := rs, rings := [(0, ring)] } }
def full : FaultRing := { base := 0x30000000, n := 4, hd := 0, tail := 4 }
def orc : OpenRec := { rec0 := {fr with access := 2}, waiters := [.entry 6] }
def orw : OpenRec := { rec0 := fr, waiters := [.entry 5], index := some 0 }
def rg : FaultRing := { base := 0x30000000, n := 4, hd := 0, tail := 1 }
def rsS : Machine.State := { fS [orw] rg with mem := mwriteN [] (0x30000000 + 256 + 24) (natLe 8 1) }

/-- States and operands that meet the hypotheses of the clauses of `WalksAnswer`. -/
theorem witness_WalksAnswer2 :
    running wk = true ∧
    (getCtx wk (BitVec.toNat (1 : BitVec 12))).isSome = true ∧
    Machine.walk wk 1 (BitVec.toNat (1 : BitVec 12)) (ctxRoot wk (BitVec.toNat (1 : BitVec 12))) (BitVec.toNat (1048576 : W64)) Acc.read true = (wr.fst, XRes.ok wl) := by decide +kernel

/-- States and operands that meet the hypotheses of the clauses of `RecordsKept`. -/
theorem witness_RecordsKept :
    (running rS = true ∧
    getCtx rS tr.ctx.toNat = some cT ∧
    cT.state = CtxState.live ∧
    handledCause (BitVec.toNat tr.cause) = true ∧
    cT.trapTail - cT.trapHead < trapCap cT ∧
    cT.trapq % 128 = 0 ∧
    QuietSpan rS (cT.trapq + 256 + 32 * (cT.trapTail % trapCap cT)) 32 ∧
    QuietSpan rS cT.trapq 8) ∧
    (running (fS [] full) = true ∧
    stillWaits (fS [] full) (Waiter.entry (5 : BitVec 10)) = true ∧
    List.find? (fun o => decide (o.rec0.ctx = fr.ctx) && decide (o.rec0.va = fr.va) && !o.closed) (fS [] full).xlat.records = none ∧
    ringOn (getRing (fS [] full) fr.part.toNat) = true ∧
    (getRing (fS [] full) fr.part.toNat).n ≤ (getRing (fS [] full) fr.part.toNat).tail - (getRing (fS [] full) fr.part.toNat).hd ∧
    (∀ (o : OpenRec), o ∈ (fS [] full).xlat.records → o.rec0.part = fr.part ∧ o.closed = false) ∧
    (fS [] full).xlat.records.length < 4096 ∧
    fr.program = false) ∧
    (running (fS [orc] full) = true ∧
    stillWaits (fS [orc] full) (Waiter.entry (5 : BitVec 10)) = true ∧
    (fS [orc] full).xlat.records = [orc] ∧
    (decide (orc.rec0.ctx = fr.ctx) && decide (orc.rec0.va = fr.va) && !orc.closed) = true ∧
    orc.index = none ∧
    running rsS = true ∧
    2 ^ 28 ≤ (getRing rsS 0).base ∧
    ringOn (getRing rsS 0) = true) ∧
    ((getRing rsS 0).handle = none ∧
    (getRing rsS 0).hd < (getRing rsS 0).tail ∧
    BitVec.toNat (1 : W64) = (getRing rsS 0).hd + 1 ∧
    rsS.xlat.records = [orw] ∧
    rsS.xlat.stalled = [] ∧
    orw.rec0.part.toNat = 0 ∧
    orw.index = some (getRing rsS 0).hd ∧
    orw.closed = false) ∧
    (orw.waiters = [Waiter.entry (5 : BitVec 10)] ∧
    getEntry rsS (BitVec.toNat (5 : BitVec 10)) = some en ∧
    leNat (memBytes rsS (faultAddr (getRing rsS 0) (getRing rsS 0).hd + 24) 8) % 4 = 1 ∧
    Granted (fS [] full) Requester.i3c (17664 + 0) 3 Cls.bmc ∧
    Cls.bmc.trio = true ∧
    BitVec.toNat (0 : W64) < 96) := 
  ⟨by decide +kernel,
    by decide +kernel,
    by decide +kernel,
    by decide +kernel,
    by decide +kernel⟩

end Sys2Proof.Tests.P15

namespace Sys2Proof.Tests.P16

open Sys2Proof Sys2Proof.Machine Sys2Proof.Tests

def orr (n : Nat) : ObsRec := { unit := 5, event := 1, ctx := 0, kind := 0, arg := 0, timer := 9, param := 8, seq := BitVec.ofNat 32 n, count := 0 }
def ring0 : ObsRing := { base := 0x30000000, size := 2048, mode := 1, tail := 8, head := 0 }
def tS (next : Nat) (rq : List ObsRec) : Machine.State := { up with
  dies := tmod up.dies 1 (die0 1) fun x => { x with traceBuf := [orr 7], traceNext := next }
  homes := { lines := [(0x30000100/128, {st := .V}), (0x30000180/128, {st := .V})] }
  obs := { up.obs with ring := ring0, lanesOn := 1, ringQueue := rq } }
def rg0 : Machine.State := { up with hbm := { regions := [(0, { size := 768000000000, base := 0 })], system := true } }
def gS : Machine.State := rg0
def z0 : State := tS 7 ((List.range 9).map orr)
def z2 : LogWin := ({count := 0} : LogWin)
def z3 : State := {gS with obs := {gS.obs with level := 1, logWins := [(9, {count := 0})]}}
def z4 : LogWin := ({count := 3} : LogWin)
def z5 : State := {gS with obs := {gS.obs with logWins := [(9, {count := 3})]}}

/-- States and operands that meet the hypotheses of the clauses of `TraceEngine`. -/
theorem witness_TraceEngine :
    (halyard (tS 7 []) = true ∧
    (getDie (tS 7 []) 1).ringGap = none ∧
    (getDie (tS 7 []) 1).laneGap = none ∧
    (tS 7 []).obs.ringQueue.length < 32767 ∧
    (tS 7 []).obs.laneQueue.length < 32767 ∧
    (getDie (tS 7 []) 1).traceNext < 2 ^ 32 ∧
    halyard z0 = true ∧
    domainUp z0 = true) ∧
    (traceRingOn z0 = true ∧
    8 ≤ z0.obs.ringQueue.length ∧
    (z0.obs.ring.mode = 0 ∨ z0.obs.ring.tail + 8 ≤ z0.obs.ring.head + z0.obs.ring.size) ∧
    (z0.obs.ring.base + 32 * (z0.obs.ring.tail % z0.obs.ring.size)) % 128 = 0 ∧
    QuietSpan z0 (z0.obs.ring.base + 32 * (z0.obs.ring.tail % z0.obs.ring.size)) 128 ∧
    QuietSpan z0 (z0.obs.ring.base + 32 * (z0.obs.ring.tail % z0.obs.ring.size) + 128) 128) := 
  ⟨by decide +kernel,
    by decide +kernel⟩

/-- States and operands that meet the hypotheses of the clauses of `RingsAndMarkers`. -/
theorem witness_RingsAndMarkers :
    (Cls.bmc.trio = true ∧
    ((2 : Byte) = (1 : Byte) ∨ (2 : Byte) = (2 : Byte)) ∧
    halyard z3 = true ∧
    tfind z3.obs.logWins (BitVec.toNat (9 : W16)) = some z2 ∧
    z2.count = 0 ∧
    halyard z5 = true ∧
    tfind z5.obs.logWins (BitVec.toNat (9 : W16)) = some z4 ∧
    z4.count ≠ 0) ∧
    (z5.obs.logBuf.length < 1024 ∧
    z5.obs.log.base = 0 ∧
    ((1 : Byte) = (1 : Byte) ∨ (1 : Byte) = (2 : Byte)) ∧
    Granted gS Requester.i3c 36864 1 Cls.bmc ∧
    gS.obs.level ≠ 0 ∧
    (getDie gS 4).traceBuf.length < 4096 ∧
    (getDie gS 4).traceGap = none) := 
  ⟨by decide +kernel,
    by decide +kernel⟩

end Sys2Proof.Tests.P16

namespace Sys2Proof.Tests.P16B

open Sys2Proof Sys2Proof.Machine Sys2Proof.Tests

def gS : Machine.State := {up with obs := {up.obs with level := 0}}
def cS : Machine.State := {up with obs := {up.obs with reads := [{tag := 5, q := .i3c, op := 1, dtag := 3, index := 0x9041, sub := 1}]}}
def rr : CtrRead := {tag := 5, q := .i3c, op := 1, dtag := 3, index := 0x9041, sub := 1}
def w0 : W64 := 0x3000
def w1 : W64 := 2 * 2^32
def w2 : W64 := BitVec.ofNat 64 (2^63)
def fc : FrameCmd := { next := 0x3000, last := 0x3001, new := {owner := 5, state := 2, zero := false} }
def fS (c : FrameCmd) : Machine.State := {up with hbm := {up.hbm with cmds := [c]}, mem := mwriteN [] 0x2FFFFFFE [1,2,3,4,5]}
def la : Leaf := { oa := 0x30000000, u := true, r := true, w := true }
def xe : Entry := { queue := 3, ctx := 1, seq := 0, user := 0, words := [], phase := .running, pages := [16] }
def z5 : State := {fS fc with disp := {up.disp with entries := [(5, xe)]}, xlat := {held := [{ctx := 1, page := 16, leaf := la}]}}

/-- States and operands that meet the hypotheses of the clauses of `RingsAndMarkers`. -/
theorem witness_RingsAndMarkers2 :
    Cls.bmc.trio = true ∧
    ((1 : Byte) = (1 : Byte) ∨ (1 : Byte) = (2 : Byte)) ∧
    Granted gS Requester.i3c 36896 (BitVec.toNat (1 : Byte)) Cls.bmc ∧
    obsRingCheck gS gS.obs.ring 26 (BitVec.toNat (1 : Byte)) (BitVec.toNat (805306368 : W64)) = 0 ∧
    Granted gS Requester.i3c 37120 (BitVec.toNat (1 : Byte)) Cls.bmc ∧
    obsRingCheck gS gS.obs.log 20 (BitVec.toNat (1 : Byte)) (BitVec.toNat (805306368 : W64)) = 0 ∧
    gS.obs.logBuf = [] := by decide +kernel

/-- States and operands that meet the hypotheses of the clauses of `CountersRead`. -/
theorem witness_CountersRead :
    (halyard cS = true ∧
    (getDie cS 1).clocks = true ∧
    counterDie (BitVec.toNat (36929 : W16)) = 1 ∧
    counterAt cS (BitVec.toNat (36929 : W16)) (BitVec.toNat (1 : Byte)) = some 0 ∧
    (getDie cS 2).clocks = true ∧
    counterDie (BitVec.toNat (36929 : W16)) ≠ 2 ∧
    cS.obs.reads = [rr] ∧
    rr.tag = BitVec.toNat (5 : W64)) ∧
    (rr.index = BitVec.toNat (36929 : W16) ∧
    rr.sub = BitVec.toNat (1 : Byte) ∧
    windowPort rr.q = none) := 
  ⟨by decide +kernel,
    by decide +kernel⟩

/-- A command still to be applied, and a later one refused. -/
def fR : Machine.State := { fS fc with hbm := { (fS fc).hbm with cmdResult := 2 } }

/-- States and operands that meet the hypotheses of the clauses of `FrameCommands`. -/
theorem witness_FrameCommands :
    (Granted up Requester.i3c 16400 1 Cls.bmc ∧
    windowPort Requester.i3c = none ∧
    (Cls.bmc.trio = true ∨ Cls.bmc.isPart = true) ∧
    frameCheck up Cls.bmc (BitVec.toNat w0) (BitVec.toNat w1) (BitVec.toNat w2) = 3 ∧
    halyard (fS fc) = true ∧
    (fS fc).hbm.cmds = [fc] ∧
    frameHeld (fS fc) fc.next = false ∧
    halyard z5 = true) ∧
    (fR.hbm.cmds = [fc] ∧
    frameHeld fR fc.next = false ∧
    halyard fR = true ∧
    fR.hbm.cmdResult = 2) ∧
    (z5.hbm.cmds = [fc] ∧
    frameHeld z5 fc.next = true ∧
    halyard up = true ∧
    (getOwn up (BitVec.toNat (12288 : BitVec 24))).zero = true ∧
    (regionOf up (BitVec.toNat (12288 : BitVec 24) * 65536)).isSome = true) := 
  ⟨by decide +kernel,
    by decide +kernel,
    by decide +kernel⟩

end Sys2Proof.Tests.P16B

namespace Sys2Proof.Tests.P17

open Sys2Proof Sys2Proof.Machine Sys2Proof.Tests

def w0 : W64 := 0x900000
def w1 : W64 := 2 * 2^32
def w2 : W64 := BitVec.ofNat 64 (5 * 2^52 + 2 * 2^44)
def pS : Machine.State := { up with hbm := { regions := [(0, { size := 0x40000000 })], system := true }, mem := mwriteN [] 0x3FFFFFFE [1,2,3,4] }
def hS : Machine.State := { pS with homes := {lines := [(0x30000000/128, {st := .V})]}}
def s0 : Machine.State := { State.reset with life := .starting }
def nol (c : Bool) : Machine.State := { up with dies := up.dies.map fun d => (d.1, {d.2 with clocks := c}), links := up.links.map fun l => (l.1, {l.2 with state := 9}) }
def prb : Machine.State := { up with life := .starting }
def z2 : State := {prb with dies := up.dies.map fun d => (d.1, {d.2 with answered := [2]})}

/-- States and operands that meet the hypotheses of the clauses of `FrameCommands`. -/
theorem witness_FrameCommands2 :
    Granted up Requester.i3c 16400 1 Cls.bmc ∧
    windowPort Requester.i3c = none ∧
    (Cls.bmc.trio = true ∨ Cls.bmc.isPart = true) ∧
    frameCheck up Cls.bmc (BitVec.toNat w0) (BitVec.toNat w1) (BitVec.toNat w2) = 0 := by decide +kernel

/-- States and operands that meet the hypotheses of the clauses of `PlacementRegions`. -/
theorem witness_PlacementRegions :
    (1 ≤ BitVec.toNat (1 : Byte) ∧
    BitVec.toNat (1 : Byte) ≤ 5 ∧
    Granted pS Requester.i3c (16640 + BitVec.toNat (1 : Byte)) (BitVec.toNat (1 : Byte)) Cls.bmc ∧
    Cls.bmc.trio = true ∧
    regionBad pS (BitVec.toNat (1 : Byte)) (regionWith (tget pS.hbm.regions (BitVec.toNat (1 : Byte)) { }) (BitVec.toNat (1 : Byte)) (BitVec.toNat (1342177280 : W64))) = false ∧
    framesFree pS (tget pS.hbm.regions (BitVec.toNat (1 : Byte)) { }) (regionWith (tget pS.hbm.regions (BitVec.toNat (1 : Byte)) { }) (BitVec.toNat (1 : Byte)) (BitVec.toNat (1342177280 : W64))) = true ∧
    1 ≤ BitVec.toNat (2 : Byte) ∧
    BitVec.toNat (2 : Byte) ≤ 5) ∧
    (Granted pS Requester.i3c (16640 + BitVec.toNat (0 : Byte)) (BitVec.toNat (2 : Byte)) Cls.bmc ∧
    regionBad pS (BitVec.toNat (0 : Byte)) (regionWith (tget pS.hbm.regions (BitVec.toNat (0 : Byte)) { }) (BitVec.toNat (2 : Byte)) (BitVec.toNat (1073676288 : W64))) = false ∧
    framesFree pS (tget pS.hbm.regions (BitVec.toNat (0 : Byte)) { }) (regionWith (tget pS.hbm.regions (BitVec.toNat (0 : Byte)) { }) (BitVec.toNat (2 : Byte)) (BitVec.toNat (1073676288 : W64))) = false) := 
  ⟨by decide +kernel,
    by decide +kernel⟩

/-- States and operands that meet the hypotheses of the clauses of `StackEvents`. -/
theorem witness_StackEvents :
    halyard hS = true ∧
    (tget hS.epochs.windows (unitId (3 / 3) 4 (32 * (3 % 3) + 4)) { }).count + 1 < hS.epochs.threshold ∧
    (getLine hS (BitVec.toNat (6291456 : BitVec 33))).st = LState.V ∧
    replicaOf hS (BitVec.toNat (6291456 : BitVec 33) * 128) = none := by decide +kernel

/-- States and operands that meet the hypotheses of the clauses of `RootPlls`. -/
theorem witness_RootPlls :
    ((s0.life = Life.starting ∨ s0.life = Life.usable ∨ s0.life = Life.failed) ∧
    (getDie s0 1).everLocked = false ∧
    s0.life = Life.starting ∧
    (1 : Fin 5) ≠ (4 : Fin 5) ∧
    (getDie up 1).clocks = true ∧
    ((nol false).life = Life.starting ∨ (nol false).life = Life.usable ∨ (nol false).life = Life.failed) ∧
    (getDie (nol false) 1).everLocked = true ∧
    (getDie (nol false) 1).clocks = false) ∧
    ((getDie (nol false) 1).lost = false) := 
  ⟨by decide +kernel,
    by decide +kernel⟩

/-- States and operands that meet the hypotheses of the clauses of `PositionProbe`. -/
theorem witness_PositionProbe :
    (prb.life = Life.starting ∧
    (getDie prb 1).clocks = true ∧
    (1 : Fin 4) ≠ (3 : Fin 4) ∧
    (getDie prb 1).answered = [] ∧
    BitVec.toNat (1 : Byte) < 4 ∧
    roleOf (portMapOf (BitVec.toNat (1 : Byte))) 1 = 0 ∧
    z2.life = Life.starting ∧
    (getDie z2 1).clocks = true) ∧
    ((getDie z2 1).answered ≠ [] ∧
    (¬1 ∈ (getDie z2 1).answered) ∧
    (getDie prb 4).clocks = true ∧
    (getDie prb 1).everLocked = true) := 
  ⟨by decide +kernel,
    by decide +kernel⟩

end Sys2Proof.Tests.P17

namespace Sys2Proof.Tests.P18

open Sys2Proof Sys2Proof.Machine Sys2Proof.Tests

def lk (l : Link) : Machine.State := { up with life := .starting, links := tput up.links 1 l }
def alls (f : Module) (xs : List (Nat × Module)) : Link := { state := 1, mods := ((List.range 128).filterMap fun i => if i % 64 < 50 then some (i, (tfind xs i).getD f) else none) }
def mkF (seq ack : Nat) (nak idle good : Bool) : List Byte :=
  let body := natLe 8 (seq * 2^52 + ack * 2^40 + b2n nak * 2^39 + b2n idle * 2^38) ++ List.replicate 8 0
  natLe 4 (if good then flitCrc body else flitCrc body + 1) ++ body.drop 4
def fS : Machine.State := {up with links := tput up.links 1 {state := 6, inter := 0x1FF, mods := [(3, {rxLast := 9, txSeq := 8, acked := 3, replay := [(4,[]),(5,[]),(6,[])], owed := [1,2,3,4,5,6]})]}}
def z0 : State := lk (alls {clock := true} [(3, {pairs := 1})])
def z1 : State := lk {alls {lanes := true} [(3, {pairs := 1})] with state := 2}
def z2 : State := lk {alls {lanes := true} [(3, {pairs := 1})] with state := 2, tries := 8}
def z3 : State := lk {state := 4, gotA := true, advA := 0x8F}
def z4 : State := lk {state := 4, advA := 0x8F}
def z5 : State := lk {state := 5, creditA := true, advA := 0x8F}
def z6 : State := lk {state := 4, creditA := true, advA := 0x8F}
def z7 : State := lk {state := 6, inter := 0x1FF, creditA := true, advA := 0x8F}
def z8 : State := {up with links := tput up.links 1 {state := 6, inter := 0x1FF, sideB := {count := 0, good := 2}, sideA := {count := 1, good := 3, aligned := true}}}
def z9 : State := {up with links := tput up.links 1 {state := 6, inter := 0x1FF, sideB := {count := 0, good := 2}, sideA := {count := 0, good := 2}}}
def z10 : State := {up with links := tput up.links 1 {state := 6, inter := 0x1FF, sideB := {count := 0, good := 2}, sideA := {count := 1, good := 3, aligned := true}}}
def z11 : List Byte := mkF 10 5 false false true
def z13 : List Byte := mkF 12 5 false false true
def z14 : List Byte := mkF 10 5 false false false
def z15 : State := {fS with links := tmod fS.links 1 {} fun l => {l with inter := 0x17F}}
def z17 : State := {fS with links := tmod fS.links 1 {} fun l => {l with mods := [(3, {recal := some 7, excluded := [2,7]})]}}

/-- States and operands that meet the hypotheses of the clauses of `LinksTrain`. -/
theorem witness_LinksTrain :
    ((getDie (lk { state := 1 }) (endDie 1 false)).clocks = true ∧
    3 < moduleCount 1 ∧
    (lk { state := 1 }).life = Life.starting ∧
    (getLink (lk { state := 1 }) 1).state = 1 ∧
    (getMod (lk { state := 1 }) 1 false 3).pairs = 0 ∧
    (getDie z0 (endDie 1 false)).clocks = true ∧
    z0.life = Life.starting ∧
    (getLink z0 1).state = 1) ∧
    ((getMod z0 1 false 3).pairs = 1 ∧
    (getDie z1 (endDie 1 false)).clocks = true ∧
    z1.life = Life.starting ∧
    (getLink z1 1).state = 2 ∧
    (getMod z1 1 false 3).retired = [] ∧
    [(1 : Fin 84), (2 : Fin 84)].length ≤ 4 ∧
    [(1 : Fin 84), (2 : Fin 84)].Nodup ∧
    (getDie z2 (endDie 1 false)).clocks = true) ∧
    (z2.life = Life.starting ∧
    (getLink z2 1).state = 2 ∧
    (getMod z2 1 false 3).retired = [] ∧
    5 ≤ [(1 : Fin 84), (2 : Fin 84), (3 : Fin 84), (4 : Fin 84), (5 : Fin 84)].length ∧
    [(1 : Fin 84), (2 : Fin 84), (3 : Fin 84), (4 : Fin 84), (5 : Fin 84)].Nodup ∧
    1 ≤ (getLink (lk { state := 1 }) 1).state ∧
    (getLink (lk { state := 1 }) 1).state ≤ 5 ∧
    (getLink (lk { state := 1 }) 1).tries < 8) ∧
    (1 ≤ (getLink z2 1).state ∧
    (getLink z2 1).state ≤ 5 ∧
    8 ≤ (getLink z2 1).tries) := 
  ⟨by decide +kernel,
    by decide +kernel,
    by decide +kernel,
    by decide +kernel⟩

/-- States and operands that meet the hypotheses of the clauses of `LinksNegotiate`. -/
theorem witness_LinksNegotiate :
    (z3.life = Life.starting ∧
    (getLink z3 1).state = 4 ∧
    BitVec.getLsbD (133 : W64) 0 = true ∧
    (getLink z3 1).before = none ∧
    (if true = true then (getLink z3 1).gotA else (getLink z3 1).gotB) = true ∧
    z4.life = Life.starting ∧
    (getLink z4 1).state = 4 ∧
    (if true = true then (getLink z4 1).gotA else (getLink z4 1).gotB) = false) ∧
    (z6.life = Life.starting ∧
    (getLink z6 1).state = 4 ∧
    BitVec.getLsbD (132 : W64) 0 = false ∧
    z5.life = Life.starting ∧
    (getLink z5 1).state = 5 ∧
    (if true = true then (getLink z5 1).creditA else (getLink z5 1).creditB) = true ∧
    1 ≤ (getLink z3 1).state ∧
    (getLink z3 1).state ≤ 5) ∧
    (1 ≤ BitVec.toNat (2 : Byte) ∧
    BitVec.toNat (2 : Byte) ≤ 3 ∧
    z7.life = Life.starting ∧
    (getLink z7 1).state = 6 ∧
    ((7 : Byte) = (255 : Byte) ∨ BitVec.toNat (7 : Byte) < moduleCount 1)) := 
  ⟨by decide +kernel,
    by decide +kernel,
    by decide +kernel⟩

/-- States and operands that meet the hypotheses of the clauses of `LinksLost`. -/
theorem witness_LinksLost :
    (z8.life = Life.usable ∧
    z8.homes.down = false ∧
    z8.homes.dead = false ∧
    (getLink z8 1).state = 6 ∧
    z10.life = Life.usable ∧
    z10.homes.down = false ∧
    z10.homes.dead = false ∧
    (getLink z10 1).state = 6) ∧
    ((getDie z10 (endDie 1 false)).clocks = true ∧
    (sideOf (getLink z10 1) false).aligned = true ∧
    (getDie z8 (endDie 1 true)).clocks = true ∧
    BitVec.toNat (32257 : W16) / 256 = 126 ∧
    BitVec.toNat (32257 : W16) / 16 % 16 < 5 ∧
    BitVec.toNat (32257 : W16) % 16 = ((sideOf (getLink z8 1) true).count + 1) % 16 ∧
    BitVec.toNat (32257 : W16) / 16 % 16 < 3 ∧
    z9.life = Life.usable) ∧
    (z9.homes.down = false ∧
    z9.homes.dead = false ∧
    (getLink z9 1).state = 6 ∧
    (getDie z9 (endDie 1 true)).clocks = true ∧
    BitVec.toNat (32305 : W16) / 256 = 126 ∧
    BitVec.toNat (32305 : W16) / 16 % 16 < 5 ∧
    BitVec.toNat (32305 : W16) % 16 = ((sideOf (getLink z9 1) true).count + 1) % 16 ∧
    3 ≤ BitVec.toNat (32305 : W16) / 16 % 16) ∧
    ((2 ≤ (sideOf (getLink z9 1) true).good ∨ (sideOf (getLink z9 1) true).aligned = true)) := 
  ⟨by decide +kernel,
    by decide +kernel,
    by decide +kernel,
    by decide +kernel⟩

/-- States and operands that meet the hypotheses of the clauses of `LinksCarry`. -/
theorem witness_LinksCarry :
    ((getLink fS 1).state = 6 ∧
    3 < moduleCount 1 ∧
    (tget fS.epochs.windows (unitModule 1 false 3) { }).count + 1 < fS.epochs.threshold ∧
    fS.life = Life.usable ∧
    fS.homes.down = false ∧
    fS.homes.dead = false ∧
    (getMod fS 1 false 3).recal = none ∧
    BitVec.getLsbD (getLink fS 1).inter 7 = true) ∧
    ((excludedOf (getMod fS 1 false 3)).length < 4 ∧
    (getLink z15 1).state = 6 ∧
    (getMod z15 1 false 3).recal = none ∧
    BitVec.getLsbD (getLink z15 1).inter 7 = false ∧
    (getLink z17 1).state = 6 ∧
    (getMod z17 1 false 3).recal = some 7 ∧
    flitGood z11 = true ∧
    flitBad z11 = false) ∧
    (flitSeq z11 = ((getMod fS 1 false 3).rxLast + 1) % 4096 ∧
    flitNak z11 = false ∧
    flitGood z13 = true ∧
    flitBad z13 = false ∧
    flitSeq z13 ≠ ((getMod fS 1 false 3).rxLast + 1) % 4096 ∧
    (getMod fS 1 false 3).nakWait = false ∧
    flitGood z14 = false ∧
    (tget z15.epochs.windows (unitModule 1 false 3) { }).count + 1 < z15.epochs.threshold) := 
  ⟨by decide +kernel,
    by decide +kernel,
    by decide +kernel⟩

end Sys2Proof.Tests.P18

namespace Sys2Proof.Tests.P19

open Sys2Proof Sys2Proof.Machine Sys2Proof.Tests

def pad (n : Nat) (l : List Nat) : List W64 := (l ++ List.replicate (n - l.length) 0).map (BitVec.ofNat 64 ·)
def p0 : Partition := { state := 1, cores := 1, ccores := 1, watchQuota := 100, ctxQuota := 10, guaranteed := 10 }
def bS : Machine.State := { up with disp := { up.disp with parts := [(0, p0)] } }
def pw : List W64 := pad 13 [1 * 2^56 + 5 * 2^50, 6, 0, 6, 0, 0, 50 * 2^49 + 7 * 2^36]
def p5 : Partition := { p0 with cores := 2, ccores := 2 }
def xe : Entry := { queue := 3, ctx := 3, seq := 0, user := 0, words := [], phase := .running }
def b2S (st : Nat) (es : List (Nat × Entry)) : Machine.State := { up with
  disp := { up.disp with parts := [(0, p0), (5, {p5 with state := st, limit := if st = 2 then 9 else 0})], ctxs := [(3, {part := 5})], entries := es }
  homes := { up.homes with reef := [(1, {part := 5, size := 4096, base := 0})] } }
def pd (op lim : Nat) : List W64 := pad 13 [op * 2^56 + 5 * 2^50 + lim]
def own (xs : List (Nat × Own)) : Hbm := { up.hbm with own := xs }
def oC (k : Nat) (presv : Bool) : Own := { owner := k, state := 2, zero := false, presv := presv }
def slot1 : JobSlot := { job := 7, protect := 0 }
def cS (cs : List (Nat × Ctx)) (qs : List (Nat × Queue)) : Machine.State := { bS with
  epochs := { bS.epochs with slots := [(1, slot1)] }
  hbm := own [(0x3000, oC 6 false), (0x4000, oC 6 false), (0x5000, oC 6 false)]
  homes := { lines := [(0x50000080/128, {st := .V})] }
  disp := { bS.disp with ctxs := cs, queues := qs } }
def cw : List W64 := pad 9 [1 * 2^56 + 6 * 2^44, 1 * 2^50 + 1 * 2^36, 0x123000, 0x30000000, 0, 0, 0x40000000]
def q0 : Queue := { ctx := 6, ring := 0x50000000, compl := 0x60000000, logn := 0, clogn := 0, head := 3, tail := 9 }
def cc (op : Nat) : List W64 := pad 9 [op * 2^56 + 6 * 2^44]
def c6 : Ctx := { ctx1 with state := .live }
def gS : Machine.State := { cS [(6, c6)] [] with cores := [(0, { groups := [(0, {grp {} with ctx := 6}), (1, grp {})]})] }
def qw : List W64 := pad 8 [1 * 2^56, 6 * 2^52 + 255 * 2^33, 0x30000000, 0x40000000]
def qS : Machine.State := { cS [(6, c6)] [] with mem := mwriteN (mwriteN [] 0x30000000 [7]) 0x40000080 [5], homes := {lines := [(0x30000000/128, {st := .V}), (0x40000080/128, {st := .V})]} }
def qd : List W64 := pad 8 [2 * 2^56 + 4 * 2^42]
def qwS : Machine.State := cS [(6, c6)] [(4, q0)]
def z0 : State := {b2S 1 [] with disp := {(b2S 1 []).disp with ctxs := []}}
def z1 : State := cS [(6, c6)] [(4, q0)]
def z3 : State := cS [(6, c6)] [(4, q0)]
def z4 : State := {qwS with disp := {qwS.disp with entries := [(2, {xe with queue := 4, ctx := 6})]}}

/-- States and operands that meet the hypotheses of the clauses of `PartitionCommands`. -/
theorem witness_PartitionCommands :
    (Granted bS Requester.i3c 12544 1 Cls.bmc ∧
    windowPort Requester.i3c = none ∧
    Cls.bmc.trio = true ∧
    hostMay bS Cls.bmc (partNum pw) = true ∧
    pw.length = 13 ∧
    partCheck bS pw = 0 ∧
    opOf pw = 1 ∧
    Granted (b2S 1 [(4, xe)]) Requester.i3c 12544 1 Cls.bmc) ∧
    (hostMay (b2S 1 [(4, xe)]) Cls.bmc (partNum (pd 2 77)) = true ∧
    (pd 2 77).length = 13 ∧
    partCheck (b2S 1 [(4, xe)]) (pd 2 77) = 0 ∧
    opOf (pd 2 77) = 2 ∧
    partBusy (b2S 1 [(4, xe)]) (partNum (pd 2 77)) = true ∧
    Granted (b2S 1 []) Requester.i3c 12544 1 Cls.bmc ∧
    hostMay (b2S 1 []) Cls.bmc (partNum (pd 2 77)) = true ∧
    partCheck (b2S 1 []) (pd 2 77) = 0) ∧
    (partBusy (b2S 1 []) (partNum (pd 2 77)) = false ∧
    hostMay (b2S 1 [(4, xe)]) Cls.bmc (partNum (pd 3 0)) = true ∧
    (pd 3 0).length = 13 ∧
    partCheck (b2S 1 [(4, xe)]) (pd 3 0) = 0 ∧
    opOf (pd 3 0) = 3 ∧
    Granted z0 Requester.i3c 12544 1 Cls.bmc ∧
    hostMay z0 Cls.bmc (partNum (pd 4 0)) = true ∧
    (pd 4 0).length = 13) ∧
    (partCheck z0 (pd 4 0) = 0 ∧
    opOf (pd 4 0) = 4 ∧
    halyard (b2S 2 [(4, xe)]) = true ∧
    (getPart (b2S 2 [(4, xe)]) 5).state = 2 ∧
    (getPart (b2S 2 [(4, xe)]) 5).limit ≠ 0) := 
  ⟨by decide +kernel,
    by decide +kernel,
    by decide +kernel,
    by decide +kernel⟩

/-- States and operands that meet the hypotheses of the clauses of `ContextCommands`. -/
theorem witness_ContextCommands :
    (Granted (cS [] []) Requester.i3c 12560 1 Cls.bmc ∧
    windowPort Requester.i3c = none ∧
    Cls.bmc.trio = true ∧
    cw.length = 9 ∧
    ctxCheck (cS [] []) cw = 0 ∧
    opOf cw = 1 ∧
    Granted z1 Requester.i3c 12560 1 Cls.bmc ∧
    (cc 2).length = 9) ∧
    (ctxCheck z1 (cc 2) = 0 ∧
    opOf (cc 2) = 2 ∧
    getCtx z1 (ctxNum (cc 2)) = some c6 ∧
    groupsOf z1 (BitVec.ofNat 12 (ctxNum (cc 2))) = [] ∧
    arraysOf z1 (BitVec.ofNat 12 (ctxNum (cc 2))) = [] ∧
    z1.disp.entries = [] ∧
    z1.disp.queues = [(4, q0)] ∧
    q0.ctx.toNat = ctxNum (cc 2)) ∧
    (QuietSpan z1 (q0.ring + 128) 8 ∧
    Granted (cS [(6, c6)] []) Requester.i3c 12560 1 Cls.bmc ∧
    (cc 3).length = 9 ∧
    ctxCheck (cS [(6, c6)] []) (cc 3) = 0 ∧
    opOf (cc 3) = 3 ∧
    getCtx (cS [(6, c6)] []) (ctxNum (cc 3)) = some c6 ∧
    groupsOf (cS [(6, c6)] []) (BitVec.ofNat 12 (ctxNum (cc 3))) = [] ∧
    arraysOf (cS [(6, c6)] []) (BitVec.ofNat 12 (ctxNum (cc 3))) = []) ∧
    ((cS [(6, c6)] []).disp.entries = [] ∧
    queuesOf (cS [(6, c6)] []) (ctxNum (cc 3)) = [] ∧
    tsorted (cS [(6, c6)] []).disp.ctxs = true ∧
    (cc 4).length = 9 ∧
    ctxCheck (cS [(6, c6)] []) (cc 4) = 0 ∧
    opOf (cc 4) = 4 ∧
    getCtx (cS [(6, c6)] []) (ctxNum (cc 4)) = some c6 ∧
    groupsOf (cS [(6, c6)] []) (BitVec.ofNat 12 (ctxNum (cc 4))) = []) ∧
    (Granted gS Requester.i3c 12560 1 Cls.bmc ∧
    ctxCheck gS (cc 4) = 0 ∧
    getCtx gS (ctxNum (cc 4)) = some c6 ∧
    groupsOf gS (BitVec.ofNat 12 (ctxNum (cc 4))) ≠ []) := 
  ⟨by decide +kernel,
    by decide +kernel,
    by decide +kernel,
    by decide +kernel,
    by decide +kernel⟩

/-- States and operands that meet the hypotheses of the clauses of `QueueCommands`. -/
theorem witness_QueueCommands :
    (Granted qS Requester.i3c 12576 1 Cls.bmc ∧
    windowPort Requester.i3c = none ∧
    Cls.bmc.trio = true ∧
    qw.length = 8 ∧
    queueCheck qS qw = 0 ∧
    opOf qw = 1 ∧
    2 ^ 28 ≤ (queueOf qw).ring ∧
    2 ^ 28 ≤ (queueOf qw).compl) ∧
    (Granted z3 Requester.i3c 12576 1 Cls.bmc ∧
    qd.length = 8 ∧
    queueCheck z3 qd = 0 ∧
    opOf qd = 2 ∧
    getQueue z3 (queueHandle qd) = some q0 ∧
    (∀ (e : Nat × Entry), e ∈ z3.disp.entries → e.snd.queue ≠ queueHandle qd) ∧
    tsorted z3.disp.queues = true ∧
    Granted z4 Requester.i3c 12576 1 Cls.bmc) ∧
    (queueCheck z4 qd = 0 ∧
    getQueue z4 (queueHandle qd) = some q0 ∧
    (∃ e, e ∈ z4.disp.entries ∧ e.snd.queue = queueHandle qd) ∧
    Granted qS Requester.i3c 12577 3 Cls.bmc) ∧
    (∃ i, i < 16384 ∧ tfind qS.disp.watches i = none) := 
  ⟨by decide +kernel,
    by decide +kernel,
    by decide +kernel,
    ⟨0, by decide +kernel⟩⟩

end Sys2Proof.Tests.P19

namespace Sys2Proof.Tests.P20

open Sys2Proof Sys2Proof.Machine Sys2Proof.Tests

def sl1 : JobSlot := { job := 7, state := 1, committed := 3 }
def c1 : Ctx := { ctx1 with slot := 1 }
def eS (sl : JobSlot) : Machine.State := { up with
  cores := [(0, { groups := [(0, {grp {} with atCut := true}), (1, {grp {} with ctx := 2})]})]
  fabric := { up.fabric with device := 5 }
  disp := { up.disp with ctxs := [(1, c1)] }
  epochs := { up.epochs with slots := [(1, sl)] } }
def rec1 : Silt := { frame := 0x300000, kind := 1, ctx := 1, slot := 1, epoch := 4, seq := 1, srcdev := 5, timer := 9, part := 0 }
def eS2 : Machine.State := { eS {sl1 with state := 2, copied := [0x300000]} with epochs := { (eS {sl1 with state := 2, copied := [0x300000]}).epochs with silt := [(0, rec1), (2, {rec1 with epoch := 5})] } }
def rS0 : Machine.State := { eS sl1 with cores := [] }
def mm : Memory := mwriteN [] (0x300000 * 65536 + 65530) [1,2,3,4,5,6,7]
def rS1 : Machine.State := { rS0 with mem := mwriteN mm (siltSlotPa rS0 0 + 65534) [8, 9, 10], disp := {rS0.disp with ctxs := []}, epochs := { (eS {sl1 with state := 3}).epochs with silt := [(0, rec1)] } }
def rS3 : Machine.State := { rS1 with
  epochs := (eS {sl1 with state := 3, far := [9]}).epochs
  fabric := { rS1.fabric with failed := [9] } }
def rS2 : Machine.State := { rS0 with disp := {rS0.disp with ctxs := [(1, {c1 with state := .torn})]}, epochs := { (eS {sl1 with state := 3}).epochs with silt := [] } }
def co : Coord := { job := 7, phase := 0, epoch := 0, recorded := 3, mirrored := 2 }
def kS (c : Coord) (sl : JobSlot) : Machine.State := { eS sl with epochs := { (eS sl).epochs with coords := [c] } }
def co1 : Coord := {co with phase := 1, epoch := 4}
def co2 : Coord := {co with phase := 2, epoch := 4}
def co3 : Coord := {co with phase := 3, epoch := 4}
def co4 : Coord := {co with phase := 4, epoch := 4}
def co5 : Coord := {co with phase := 5, epoch := 4}
def own (xs : List (Nat × Own)) : Hbm := { up.hbm with own := xs }
def sS (presv : Bool) (m : Memory) : Machine.State := { eS sl1 with hbm := own [(0x300000, { owner := 1, state := 2, zero := false, presv := presv }), (0x300001, {part := 0, state := 1, zero := false})], mem := m, homes := { lines := [(0x300001*512, {st := .V})] } }
def tr2 : Silt := { rec1 with kind := 2, part := 3 }
def hS2 : Machine.State := { sS false mm with hbm := own [(0x300001, {part := 3, state := 1, zero := false})], epochs := { (sS false mm).epochs with silt := [(2, tr2)] } }
def rpS : Machine.State := {up with hbm := {up.hbm with system := false}, fabric := {up.fabric with device := 5}, epochs := {up.epochs with replicas := [(2, {source := 0x100000000, replica := 6 * 2^48})]}}
def z2 : State := eS {sl1 with state := 2, cutFor := some 4}
def z4 : Ctx := {c1 with state := .torn}
def z5 : State := kS co {sl1 with protect := 2}
def z6 : State := eS {sl1 with state := 2, cutFor := some 4}
def z8 : State := {hS2 with homes := {lines := [(4352*512, {st := .V})]}}

/-- States and operands that meet the hypotheses of the clauses of `EpochsCommit`. -/
theorem witness_EpochsCommit :
    ((halyard (eS sl1) = true ∧ slotOfJob (eS sl1) (BitVec.toNat (7 : W16)) = some 1 ∧ ((getSlot (eS sl1) 1).devices = 1 ∧ BitVec.toNat (5 : W16) = (eS sl1).fabric.device ∨ managerOk (eS sl1) (BitVec.toNat (5 : W16)) (BitVec.toNat (0 : W32)) false = true ∧ (eS sl1).fabric.gen = BitVec.toNat (0 : W32))) ∧
    (getSlot (eS sl1) 1).protect ≠ 0 ∧
    BitVec.toNat (4 : W64) = (getSlot (eS sl1) 1).committed + 1 ∧
    ((getSlot (eS sl1) 1).state = 1 ∨ (getSlot (eS sl1) 1).state = 5) ∧
    (getSlot (eS sl1) 1).cutFor = none ∧
    (∀ (k : Nat), k ∈ ctxsOfSlot (eS sl1) 1 → Option.map Ctx.saved (getCtx (eS sl1) k) = some []) ∧
    SortedCores (eS sl1) ∧
    BitVec.toNat (1 : Byte) = 1) ∧
    ((getSlot z6 1).cutFor = some 4 ∧
    running z6 = true ∧
    atCutAll z6 1 = true ∧
    (halyard eS2 = true ∧ slotOfJob eS2 (BitVec.toNat (7 : W16)) = some 1 ∧ ((getSlot eS2 1).devices = 1 ∧ BitVec.toNat (5 : W16) = eS2.fabric.device ∨ managerOk eS2 (BitVec.toNat (5 : W16)) (BitVec.toNat (0 : W32)) false = true ∧ eS2.fabric.gen = BitVec.toNat (0 : W32))) ∧
    (getSlot eS2 1).protect = 1 ∧
    (getSlot eS2 1).state = 2 ∧
    (getSlot eS2 1).cutFor = none ∧
    BitVec.toNat (4 : W64) = (getSlot eS2 1).committed + 1) ∧
    (tsorted eS2.epochs.silt = true ∧
    (halyard z2 = true ∧ slotOfJob z2 (BitVec.toNat (7 : W16)) = some 1 ∧ ((getSlot z2 1).devices = 1 ∧ BitVec.toNat (5 : W16) = z2.fabric.device ∨ managerOk z2 (BitVec.toNat (5 : W16)) (BitVec.toNat (0 : W32)) false = true ∧ z2.fabric.gen = BitVec.toNat (0 : W32))) ∧
    (getSlot z2 1).state = 2 ∧
    BitVec.toNat (4 : W64) = (getSlot z2 1).committed + 1) := 
  ⟨by decide +kernel,
    by decide +kernel,
    by decide +kernel⟩

/-- States and operands that meet the hypotheses of the clauses of `EpochsRollBack`. -/
theorem witness_EpochsRollBack :
    ((halyard rS0 = true ∧ slotOfJob rS0 (BitVec.toNat (7 : W16)) = some 1 ∧ ((getSlot rS0 1).devices = 1 ∧ BitVec.toNat (5 : W16) = rS0.fabric.device ∨ managerOk rS0 (BitVec.toNat (5 : W16)) (BitVec.toNat (0 : W32)) false = true ∧ rS0.fabric.gen = BitVec.toNat (0 : W32))) ∧
    (getSlot rS0 1).protect ≠ 0 ∧
    (getSlot rS0 1).state ≠ 6 ∧
    ctxsOfSlot rS0 1 = [1] ∧
    getCtx rS0 1 = some c1 ∧
    c1.state ≠ CtxState.ended ∧
    1 < 4096 ∧
    groupsOf rS0 (BitVec.ofNat 12 1) = []) ∧
    (arraysOf rS0 (BitVec.ofNat 12 1) = [] ∧
    rS0.disp.entries = [] ∧
    coresOfSlot rS0 1 = [] ∧
    (halyard rS1 = true ∧ slotOfJob rS1 (BitVec.toNat (7 : W16)) = some 1 ∧ ((getSlot rS1 1).devices = 1 ∧ BitVec.toNat (5 : W16) = rS1.fabric.device ∨ managerOk rS1 (BitVec.toNat (5 : W16)) (BitVec.toNat (0 : W32)) false = true ∧ rS1.fabric.gen = BitVec.toNat (0 : W32))) ∧
    (getSlot rS1 1).state = 3 ∧
    (getSlot rS1 1).stopping = false ∧
    BitVec.toNat (3 : W64) ≤ (getSlot rS1 1).committed ∧
    (recordsOf rS1 1 fun e => decide (BitVec.toNat (3 : W64) < e)) = [(0, rec1)]) ∧
    (tfind rS1.epochs.silt 0 = some rec1 ∧
    rec1.kind = 1 ∧
    (tget rS1.disp.tracks rec1.part { }).on = false ∧
    0 < siltN rS1 ∧
    5120 + siltP rS1 ≤ rec1.frame ∧
    (∀ (o : Nat × Own), o ∈ rS1.hbm.own → o.snd.poison = false) ∧
    ctxsOfSlot rS1 1 = [] ∧
    rS1.mem.wf = true) ∧
    (pathsBlocked rS1 1 = false ∧
    (halyard rS3 = true ∧ slotOfJob rS3 (BitVec.toNat (7 : W16)) = some 1 ∧ ((getSlot rS3 1).devices = 1 ∧ BitVec.toNat (5 : W16) = rS3.fabric.device ∨ managerOk rS3 (BitVec.toNat (5 : W16)) (BitVec.toNat (0 : W32)) false = true ∧ rS3.fabric.gen = BitVec.toNat (0 : W32))) ∧
    (getSlot rS3 1).state = 3 ∧
    (getSlot rS3 1).stopping = false ∧
    BitVec.toNat (3 : W64) ≤ (getSlot rS3 1).committed ∧
    pathsBlocked rS3 1 = true) ∧
    ((halyard rS2 = true ∧ slotOfJob rS2 (BitVec.toNat (7 : W16)) = some 1 ∧ ((getSlot rS2 1).devices = 1 ∧ BitVec.toNat (5 : W16) = rS2.fabric.device ∨ managerOk rS2 (BitVec.toNat (5 : W16)) (BitVec.toNat (0 : W32)) false = true ∧ rS2.fabric.gen = BitVec.toNat (0 : W32))) ∧
    (getSlot rS2 1).state = 3 ∧
    (getSlot rS2 1).stopping = false ∧
    getCtx rS2 1 = some z4 ∧
    1 ∈ ctxsOfSlot rS2 1) ∧
    (∀ (n : Nat) (y : Ctx), getCtx rS2 n = some y → y.replay = []) := 
  ⟨by decide +kernel,
    by decide +kernel,
    by decide +kernel,
    by decide +kernel,
    by decide +kernel,
    fun n y h => (show ∀ q ∈ rS2.disp.ctxs, q.2.replay = [] by decide +kernel) _ (tfind_mem h)⟩

/-- States and operands that meet the hypotheses of the clauses of `CoordinatorDecides`. -/
theorem witness_CoordinatorDecides :
    (halyard (kS co sl1) = true ∧
    coordinates (kS co sl1) (BitVec.toNat (7 : W16)) = true ∧
    co.job = BitVec.toNat (7 : W16) ∧
    findCoord (kS co sl1) (BitVec.toNat (7 : W16)) = some co ∧
    co.phase = 0 ∧
    BitVec.toNat (4 : W64) = co.recorded + 1 ∧
    protectOf (kS co sl1) (BitVec.toNat (7 : W16)) ≠ 2 ∧
    halyard z5 = true) ∧
    (coordinates z5 (BitVec.toNat (7 : W16)) = true ∧
    findCoord z5 (BitVec.toNat (7 : W16)) = some co ∧
    protectOf z5 (BitVec.toNat (7 : W16)) = 2 ∧
    co.mirrored ≠ co.recorded ∧
    halyard (kS co1 sl1) = true ∧
    coordinates (kS co1 sl1) (BitVec.toNat (7 : W16)) = true ∧
    co1.job = BitVec.toNat (7 : W16) ∧
    (findCoord (kS co1 sl1) (BitVec.toNat (7 : W16)) = some co1 ∧ co1.phase = 1 ∧ BitVec.toNat (5 : W16) ∈ devicesOf (kS co1 sl1) (BitVec.toNat (7 : W16)) ∧ ∀ (d : Nat), d ∈ devicesOf (kS co1 sl1) (BitVec.toNat (7 : W16)) → d = BitVec.toNat (5 : W16) ∨ d ∈ co1.answered)) ∧
    (BitVec.toNat (4 : W64) = co1.epoch ∧
    halyard (kS co2 sl1) = true ∧
    coordinates (kS co2 sl1) (BitVec.toNat (7 : W16)) = true ∧
    co2.job = BitVec.toNat (7 : W16) ∧
    (findCoord (kS co2 sl1) (BitVec.toNat (7 : W16)) = some co2 ∧ co2.phase = 2 ∧ BitVec.toNat (5 : W16) ∈ devicesOf (kS co2 sl1) (BitVec.toNat (7 : W16)) ∧ ∀ (d : Nat), d ∈ devicesOf (kS co2 sl1) (BitVec.toNat (7 : W16)) → d = BitVec.toNat (5 : W16) ∨ d ∈ co2.answered) ∧
    BitVec.toNat (4 : W64) = co2.epoch ∧
    co.phase ≠ 3 ∧
    co.phase ≠ 4) ∧
    (classEnds (protectOf (kS co sl1) (BitVec.toNat (7 : W16))) (BitVec.toNat (3 : Byte)) = false ∧
    halyard (kS co3 sl1) = true ∧
    coordinates (kS co3 sl1) (BitVec.toNat (7 : W16)) = true ∧
    co3.job = BitVec.toNat (7 : W16) ∧
    (findCoord (kS co3 sl1) (BitVec.toNat (7 : W16)) = some co3 ∧ co3.phase = 3 ∧ BitVec.toNat (5 : W16) ∈ devicesOf (kS co3 sl1) (BitVec.toNat (7 : W16)) ∧ ∀ (d : Nat), d ∈ devicesOf (kS co3 sl1) (BitVec.toNat (7 : W16)) → d = BitVec.toNat (5 : W16) ∨ d ∈ co3.answered) ∧
    halyard (kS co4 sl1) = true ∧
    coordinates (kS co4 sl1) (BitVec.toNat (7 : W16)) = true ∧
    co4.job = BitVec.toNat (7 : W16)) ∧
    ((findCoord (kS co4 sl1) (BitVec.toNat (7 : W16)) = some co4 ∧ co4.phase = 4 ∧ BitVec.toNat (5 : W16) ∈ devicesOf (kS co4 sl1) (BitVec.toNat (7 : W16)) ∧ ∀ (d : Nat), d ∈ devicesOf (kS co4 sl1) (BitVec.toNat (7 : W16)) → d = BitVec.toNat (5 : W16) ∨ d ∈ co4.answered) ∧
    halyard (kS co5 sl1) = true ∧
    coordinates (kS co5 sl1) (BitVec.toNat (7 : W16)) = true ∧
    co5.job = BitVec.toNat (7 : W16) ∧
    findCoord (kS co5 sl1) (BitVec.toNat (7 : W16)) = some co5 ∧
    co5.phase = 5 ∧
    BitVec.toNat (4 : W64) = co5.epoch ∧
    (∀ (i : Nat), slotOfJob (kS co sl1) (BitVec.toNat (7 : W16)) = some i → (getSlot (kS co sl1) i).buddy ≠ BitVec.toNat (5 : W16))) ∧
    (co.wants = false) := 
  ⟨by decide +kernel,
    by decide +kernel,
    by decide +kernel,
    by decide +kernel,
    by decide +kernel,
    by decide +kernel⟩

/-- States and operands that meet the hypotheses of the clauses of `SiltAndReplicas`. -/
theorem witness_SiltAndReplicas :
    (running (sS true mm) = true ∧
    (getOwn (sS true mm) (BitVec.toNat (3145728 : BitVec 24))).presv = true ∧
    (getOwn (sS true mm) (BitVec.toNat (3145728 : BitVec 24))).state = 2 ∧
    (getCtx (sS true mm) (getOwn (sS true mm) (BitVec.toNat (3145728 : BitVec 24))).owner).isSome = true ∧
    (getSlot (sS true mm) (slotOfCtx (sS true mm) (getOwn (sS true mm) (BitVec.toNat (3145728 : BitVec 24))).owner)).protect ≠ 0 ∧
    (¬BitVec.toNat (3145728 : BitVec 24) ∈ (getSlot (sS true mm) (slotOfCtx (sS true mm) (getOwn (sS true mm) (BitVec.toNat (3145728 : BitVec 24))).owner)).copied) ∧
    lowestFree (sS true mm).epochs.silt 0 < siltN (sS true mm) ∧
    (tget (sS true mm).disp.tracks (getOwn (sS true mm) (BitVec.toNat (3145728 : BitVec 24))).part { }).on = false) ∧
    (5120 + siltP (sS true mm) ≤ BitVec.toNat (3145728 : BitVec 24) ∧
    (sS true mm).mem.wf = true ∧
    Granted rpS Requester.i3c 28688 1 Cls.bmc ∧
    Cls.bmc.local2 = true ∧
    2 ≤ BitVec.toNat (40 : Byte) ∧
    BitVec.toNat (40 : Byte) ≤ 40 ∧
    rpS.epochs.silt = [] ∧
    anyHeld rpS (5120 + siltP rpS) (5120 + poolFrames (BitVec.toNat (40 : Byte))) = false) ∧
    (Granted (sS true mm) Requester.i3c (13312 + 3) 1 Cls.bmc ∧
    Cls.bmc.trio = true ∧
    (1 : Byte) = (1 : Byte) ∧
    Granted z8 Requester.i3c (13312 + 3) 3 Cls.bmc ∧
    windowPort Requester.i3c = none ∧
    BitVec.toNat ((4352 : W64) * (65536 : W64)) % 4 = 0 ∧
    BitVec.toNat (21474836480 : W64) % 2 ^ 32 = 0 ∧
    1 ≤ BitVec.toNat (21474836480 : W64) / 2 ^ 32) ∧
    (BitVec.toNat ((4352 : W64) * (65536 : W64)) < 2 ^ 40 ∧
    rangeFrames (BitVec.toNat ((4352 : W64) * (65536 : W64))) (max 1 (4 * (BitVec.toNat (21474836480 : W64) / 2 ^ 32))) (harvestFrame z8 3) = true ∧
    z8.epochs.silt = [(2, tr2)] ∧
    tr2.part = 3 ∧
    tr2.kind = 2 ∧
    (tget z8.disp.tracks 3 { }).overflow = false ∧
    QuietSpan z8 (BitVec.toNat ((4352 : W64) * (65536 : W64))) 4 ∧
    BitVec.toNat ((4352 : W64) * (65536 : W64)) + 4 ≤ siltBase) ∧
    (Granted (sS true mm) Requester.i3c (29696 + 2) (BitVec.toNat (1 : Byte)) Cls.bmc ∧
    1 ≤ BitVec.toNat (1 : Byte) ∧
    BitVec.toNat (1 : Byte) ≤ 3 ∧
    replicaForm (BitVec.toNat (1 : Byte)) (BitVec.toNat (65536 : W64)) = false ∧
    ((replicaWith (tget (sS true mm).epochs.replicas 2 { }) (BitVec.toNat (1 : Byte)) (BitVec.toNat (65536 : W64))).size = 0 ∨ replicaBad (sS true mm) (replicaWith (tget (sS true mm).epochs.replicas 2 { }) (BitVec.toNat (1 : Byte)) (BitVec.toNat (65536 : W64))) = false)) := 
  ⟨by decide +kernel,
    by decide +kernel,
    by decide +kernel,
    by decide +kernel,
    by decide +kernel⟩

end Sys2Proof.Tests.P20

namespace Sys2Proof.Tests.P21

open Sys2Proof Sys2Proof.Machine Sys2Proof.Tests

def mkF (seq ack : Nat) (nak idle good bad : Bool) : List Byte :=
  let body := natLe 8 (seq * 2^52 + ack * 2^40 + b2n nak * 2^39 + b2n idle * 2^38 + b2n bad * 2^33) ++ List.replicate 8 0
  natLe 4 (if good then flitCrc body else flitCrc body + 1) ++ body.drop 4
def pt : Port := { state := 5, partner := 6, rxLast := 9, txSeq := 8, acked := 3, replay := [(4,[]),(5,[]),(6,[])], credits := portCredits }
def fS (p : Port) : Machine.State := { up with fabric := { up.fabric with device := 5, ports := [(2, p)] } }
def pk : SPkt := { dst := 7, src := 6, hops := 3, tag := 9, job := 4, addr := 0x30000000, sagent := 1, thread := 2, gmask := 6, boff := 0, bsize := 4, poison := false, aop := 0, status := 0, rel := false, rgen := 0, opx := 0 }
def rt (port : Nat) : W32 := BitVec.ofNat 32 (2^31 + port)
def rS (bank : Tab W32) (ps : Tab Port) : Machine.State := { up with fabric := { up.fabric with device := 5, ports := ps, bank0 := bank } }
def two : Tab Port := [(2, pt), (3, {pt with replay := []})]
def je : JobEntry := { job := 4, ctx := 1, part := 0, enabled := true }
def mem0 : Memory := mwriteN [] 0x2FFFFFF0 ((List.range 300).map fun i => BitVec.ofNat 8 (i % 255 + 1))
def qS (je : JobEntry) (own : Nat) (rs : List Resv) : Machine.State := { rS [(6, rt 2)] two with
  fabric := { (rS [(6, rt 2)] two).fabric with jobs := [(0, je)] }
  mem := mem0
  homes := { lines := [(0x30000000/128, {st := .V}), (0x30000080/128, {st := .V})], resvs := rs }
  hbm := {up.hbm with own := [(0x3000, {owner := own, state := 2, zero := false})]} }
def pr : SPkt := { pk with dst := 5, gmask := 0x0106 }
def d48 : List Byte := (List.range 48).map fun i => BitVec.ofNat 8 (200 - i)
def pz : SPkt := {pr with bsize := 2, boff := 4}
def rsv : Resv := { who := (pktBy pz je).key, line := pktPa pz / 128 }
def z0 : List Byte := mkF 10 5 false false true false
def z1 : List Byte := mkF 12 5 false false true false
def z2 : State := fS {pt with replays := 40}
def z3 : List Byte := mkF 12 5 false false false false
def z4 : List Byte := mkF 10 5 false false true true
def z5 : List Byte := mkF 10 5 false false true false
def z6 : State := fS {pt with protect := 1, keyState := 2}
def z7 : State := fS {state := 2, failures := 2}
def z8 : State := fS {state := 3, failures := 1, credits := portCredits}
def z9 : State := {fS {state := 3, failures := 1, protect := 1, credits := portCredits} with fabric := {(fS {state := 3, failures := 1, protect := 1, credits := portCredits}).fabric with role := 1, gen := 3}}
def z10 : State := fS {state := 4, failures := 1, keyState := 2, protect := 1}
def z11 : State := fS {state := 7, failures := 1, keyState := 2, protect := 1}
def z12 : State := rS [(6, rt 2), (7, rt 3)] two
def z13 : SPkt := {pk with hops := 0}
def z14 : State := rS [(6, rt 2), (7, rt 3)] two
def z15 : SPkt := {pk with rgen := 3}
def z16 : State := rS [(6, rt 2), (7, rt 3)] two
def z17 : SPkt := {pk with rgen := 3}
def z18 : State := rS [(6, rt 2), (7, rt 3)] two
def z19 : SPkt := {pr with opx := BitVec.ofNat 64 (2 * 256 + 3 * 4)}
def z20 : SPkt := {pr with bsize := 2, boff := 4}
def z21 : SPkt := {pr with bsize := 3, boff := 8, aop := 8}
def z22 : JobEntry := {je with rolling := true}
def z23 : State := qS {je with rolling := true} 2 []
def z24 : State := qS {je with job := 9} 1 []
def z25 : SPkt := {pr with opx := 1}
def z26 : Instr := .red 2 {pr with opx := 1} d48
def z27 : SPkt := {pk with hops := 0}
def z28 : State := rS [(6, rt 2), (7, rt 3)] two

/-- States and operands that meet the hypotheses of the clauses of `PortsCarry`. -/
theorem witness_PortsCarry :
    (halyard (fS pt) = true ∧
    3 ≤ (getPort (fS pt) 2).state ∧
    (getPort (fS pt) 2).state ≤ 5 ∧
    flitGood z0 = true ∧
    sflitBad z0 = false ∧
    ((getPort (fS pt) 2).protect = 1 ∧ (getPort (fS pt) 2).keyState = 2 → true = true) ∧
    flitSeq z0 = ((getPort (fS pt) 2).rxLast + 1) % 4096 ∧
    flitNak z0 = false) ∧
    ((getPort (fS pt) 2).queue = [] ∧
    (getPort (fS pt) 2).replays < 32 ∧
    halyard z2 = true ∧
    3 ≤ (getPort z2 2).state ∧
    (getPort z2 2).state ≤ 5 ∧
    flitGood z1 = true ∧
    sflitBad z1 = false ∧
    ((getPort z2 2).protect = 1 ∧ (getPort z2 2).keyState = 2 → true = true)) ∧
    (flitSeq z1 ≠ ((getPort z2 2).rxLast + 1) % 4096 ∧
    flitGood z3 = false ∧
    (tget (fS pt).epochs.windows (unitPort 2) { }).count + 1 < (fS pt).epochs.threshold ∧
    halyard z6 = true ∧
    3 ≤ (getPort z6 2).state ∧
    (getPort z6 2).state ≤ 5 ∧
    flitGood z5 = true ∧
    (getPort z6 2).protect = 1) ∧
    ((getPort z6 2).keyState = 2 ∧
    false = false ∧
    (tget z6.epochs.windows (unitPort 2) { }).count + 1 < z6.epochs.threshold ∧
    flitGood z4 = true ∧
    sflitBad z4 = true ∧
    (PortLoss.unacked = PortLoss.replayed32 → 32 ≤ (getPort (fS pt) 2).replays) ∧
    (PortLoss.unacked = PortLoss.unacked → (getPort (fS pt) 2).replay ≠ [])) := 
  ⟨by decide +kernel,
    by decide +kernel,
    by decide +kernel,
    by decide +kernel⟩

/-- States and operands that meet the hypotheses of the clauses of `PortsComeUp`. -/
theorem witness_PortsComeUp :
    (halyard (fS { }) = true ∧
    (fS { }).life = Life.usable ∧
    (getPort (fS { }) 2).state ≤ 2 ∧
    (getPort (fS { }) 2).state ≤ 1 ∧
    halyard z7 = true ∧
    z7.life = Life.usable ∧
    (getPort z7 2).state = 2 ∧
    halyard z8 = true) ∧
    (z8.life = Life.usable ∧
    (getPort z8 2).state = 3 ∧
    (getPort z8 2).credits = portCredits ∧
    (getPort z8 2).protect ≠ 1 ∧
    (getPort z8 2).queue = [] ∧
    halyard z9 = true ∧
    z9.life = Life.usable ∧
    (getPort z9 2).state = 3) ∧
    ((getPort z9 2).credits = portCredits ∧
    (getPort z9 2).protect = 1 ∧
    halyard z10 = true ∧
    z10.life = Life.usable ∧
    (getPort z10 2).state = 4 ∧
    (getPort z10 2).keyState = 2 ∧
    (getPort z10 2).queue = [] ∧
    2 ≤ (getPort z7 2).state) ∧
    ((getPort z7 2).state ≤ 4 ∧
    halyard z11 = true ∧
    z11.life = Life.usable ∧
    (getPort z11 2).state = 7) := 
  ⟨by decide +kernel,
    by decide +kernel,
    by decide +kernel,
    by decide +kernel⟩

/-- States and operands that meet the hypotheses of the clauses of `PacketsRouted`. -/
theorem witness_PacketsRouted :
    (arrives z18 2 z17 = true ∧
    BitVec.toNat z17.dst ≠ 65535 ∧
    z18.fabric.device ≠ 65535 ∧
    BitVec.toNat z17.dst ≠ z18.fabric.device ∧
    routeEntry z18 z17.rgen.toNat (BitVec.toNat z17.dst) = none ∧
    pktClass (BitVec.toNat (32 : BitVec 6)) ≠ 0 ∧
    arrives z16 2 z15 = true ∧
    BitVec.toNat z15.dst ≠ 65535) ∧
    (z16.fabric.device ≠ 65535 ∧
    BitVec.toNat z15.dst ≠ z16.fabric.device ∧
    routeEntry z16 z15.rgen.toNat (BitVec.toNat z15.dst) = none ∧
    pktClass (BitVec.toNat (1 : BitVec 6)) = 0 ∧
    arrives z28 2 z27 = true ∧
    BitVec.toNat z27.dst ≠ 65535 ∧
    z28.fabric.device ≠ 65535 ∧
    BitVec.toNat z27.dst ≠ z28.fabric.device) ∧
    (routeEntry z28 z27.rgen.toNat (BitVec.toNat z27.dst) = some (rt 3) ∧
    (routePort z28 (rt 3) (BitVec.toNat z27.src) = none ∨ z27.hops = (0 : BitVec 5)) ∧
    arrives z14 2 z13 = true ∧
    BitVec.toNat z13.dst ≠ 65535 ∧
    z14.fabric.device ≠ 65535 ∧
    BitVec.toNat z13.dst ≠ z14.fabric.device ∧
    routeEntry z14 z13.rgen.toNat (BitVec.toNat z13.dst) = some (rt 3) ∧
    (routePort z14 (rt 3) (BitVec.toNat z13.src) = none ∨ z13.hops = (0 : BitVec 5))) ∧
    (arrives z12 2 pk = true ∧
    BitVec.toNat pk.dst ≠ 65535 ∧
    z12.fabric.device ≠ 65535 ∧
    BitVec.toNat pk.dst ≠ z12.fabric.device ∧
    routeEntry z12 pk.rgen.toNat (BitVec.toNat pk.dst) = some (rt 3) ∧
    routePort z12 (rt 3) (BitVec.toNat pk.src) = some (3, 0) ∧
    pk.hops ≠ (0 : BitVec 5) ∧
    (getPort z12 3).queue = []) ∧
    (portCan z12 3 { vc := 2 * pktClass (BitVec.toNat (1 : BitVec 6)) + 0, op := BitVec.toNat (1 : BitVec 6), p := pk, data := [] } = true) ∧
    AnswerBy z16 z15 36 [] 2 ∧
    AnswerBy z14 z13 36 [] 2 := 
  ⟨by decide +kernel,
    by decide +kernel,
    by decide +kernel,
    by decide +kernel,
    by decide +kernel,
    ⟨0, by decide +kernel⟩,
    ⟨0, by decide +kernel⟩⟩

/-- Answers that leave at once, for `RemoteRequestsServed`. -/
theorem witness_RemoteRequestsServed_answers :
    AnswerBy (qS je 1 []) pr 32 (List.flatMap (fun g => memBytes (qS je 1 []) (pr.addr.toNat + 16 * g) 16) (pktGranules pr)) 2 ∧
    AnswerBy (qS je 1 []) z20 33 [] 2 ∧
    AnswerBy (qS je 1 []) pr 33 [] 2 ∧
    AnswerBy (qS je 1 []) z21 34 (natLe 16 (leNat (memBytes (qS je 1 []) (pktPa z21) (if true = true then 8 else 4)))) 2 ∧
    AnswerBy (qS je 1 [rsv]) pz 35 [] 2 ∧
    AnswerBy (qS je 1 []) pr 35 [] 2 ∧
    AnswerBy (qS je 1 []) z19 33 [] 2 :=
  ⟨⟨0, by decide +kernel⟩, ⟨0, by decide +kernel⟩, ⟨0, by decide +kernel⟩, ⟨0, by decide +kernel⟩, ⟨0, by decide +kernel⟩, ⟨0, by decide +kernel⟩, ⟨0, by decide +kernel⟩⟩

set_option maxHeartbeats 1000000 in
/-- States and operands that meet the hypotheses of the clauses of `RemoteRequestsServed`. -/
theorem witness_RemoteRequestsServed :
    (Accepted (qS je 1 []) 2 1 pr [] je ∧
    Accepted (qS je 1 []) 2 4 pr [] je) ∧
    (Accepted (qS je 1 []) 2 2 z20 (List.take 16 d48) je ∧
    z20.bsize.toNat < 4) ∧
    (z20.boff.toNat + 2 ^ z20.bsize.toNat ≤ 16 ∧
    (List.take 16 d48).length = 16) ∧
    (z20.poison = false ∧
    Accepted (qS je 1 []) 2 2 pr d48 je) ∧
    (pr.bsize = (4 : BitVec 3) ∧
    d48.length = 16 * (pktGranules pr).length) ∧
    (pr.poison = false ∧
    aopOf z21.aop.toNat = some (AmoOp.add, true)) ∧
    (Accepted (qS je 1 []) 2 3 z21 (List.take 16 d48) je ∧
    (z21.boff.toNat + if true = true then 8 else 4) ≤ 16) ∧
    (Accepted (qS je 1 [rsv]) 2 5 pz (List.take 16 d48) je ∧
    pz.boff.toNat + 2 ^ pz.bsize.toNat ≤ 16) ∧
    (hasResv (qS je 1 [rsv]) (pktBy pz je).key (pktPa pz / 128) = true ∧
    Accepted (qS je 1 []) 2 5 pr d48 je) ∧
    (hasResv (qS je 1 []) (pktBy pr je).key (pktPa pr / 128) = false ∧
    Accepted (qS je 1 []) 2 6 z19 d48 je) ∧
    (z19.bsize = (4 : BitVec 3) ∧
    d48.length = 16 * (pktGranules z19).length) ∧
    (fmtBits (bits (BitVec.toNat z19.opx) 7 2) ∈ [8, 16, 32]) := 
  ⟨by decide +kernel,
    by decide +kernel,
    by decide +kernel,
    by decide +kernel,
    by decide +kernel,
    by decide +kernel,
    by decide +kernel,
    by decide +kernel,
    by decide +kernel,
    by decide +kernel,
    by decide +kernel,
    by decide +kernel⟩

/-- States and operands that meet the hypotheses of the clauses of `RemoteRequestsRefused`. -/
theorem witness_RemoteRequestsRefused :
    ((z26, 6) ∈ [(Instr.shroudRd (2 : Fin 18) z25, 1), (Instr.wr (2 : Fin 18) z25 d48, 2), (Instr.shroudAmo (2 : Fin 18) z25 d48, 3), (Instr.shroudRes (2 : Fin 18) z25, 4), (Instr.shroudScond (2 : Fin 18) z25 d48, 5), (Instr.red (2 : Fin 18) z25 d48, 6)] ∧
    arrives (qS je 1 []) 2 z25 = true ∧
    BitVec.toNat z25.dst ≠ 65535 ∧
    requestBad 6 z25 = true ∧
    BitVec.toNat z25.src ≠ (qS je 1 []).fabric.device ∧
    (Instr.shroudAmo (2 : Fin 18) pr d48, 3) ∈ [(Instr.shroudRd (2 : Fin 18) pr, 1), (Instr.wr (2 : Fin 18) pr d48, 2), (Instr.shroudAmo (2 : Fin 18) pr d48, 3), (Instr.shroudRes (2 : Fin 18) pr, 4), (Instr.shroudScond (2 : Fin 18) pr d48, 5), (Instr.red (2 : Fin 18) pr d48, 6)] ∧
    arrives z24 2 pr = true ∧
    BitVec.toNat pr.dst ≠ 65535) ∧
    (requestBad 3 pr = false ∧
    z24.fabric.device ≠ 65535 ∧
    BitVec.toNat pr.dst = z24.fabric.device ∧
    jobEntry z24 (BitVec.toNat pr.job) = none ∧
    (Instr.wr (2 : Fin 18) pr d48, 2) ∈ [(Instr.shroudRd (2 : Fin 18) pr, 1), (Instr.wr (2 : Fin 18) pr d48, 2), (Instr.shroudAmo (2 : Fin 18) pr d48, 3), (Instr.shroudRes (2 : Fin 18) pr, 4), (Instr.shroudScond (2 : Fin 18) pr d48, 5), (Instr.red (2 : Fin 18) pr d48, 6)] ∧
    arrives z23 2 pr = true ∧
    requestBad 2 pr = false ∧
    z23.fabric.device ≠ 65535) ∧
    (BitVec.toNat pr.dst = z23.fabric.device ∧
    jobEntry z23 (BitVec.toNat pr.job) = some z22 ∧
    (z22.rolling = true ∨ domainUp z23 = false ∨ covered z23 pr.addr.toNat = false) ∧
    (Instr.shroudRd (2 : Fin 18) pr, 1) ∈ [(Instr.shroudRd (2 : Fin 18) pr, 1), (Instr.wr (2 : Fin 18) pr d48, 2), (Instr.shroudAmo (2 : Fin 18) pr d48, 3), (Instr.shroudRes (2 : Fin 18) pr, 4), (Instr.shroudScond (2 : Fin 18) pr d48, 5), (Instr.red (2 : Fin 18) pr d48, 6)] ∧
    arrives (qS je 2 []) 2 pr = true ∧
    requestBad 1 pr = false ∧
    (qS je 2 []).fabric.device ≠ 65535 ∧
    BitVec.toNat pr.dst = (qS je 2 []).fabric.device) ∧
    (jobEntry (qS je 2 []) (BitVec.toNat pr.job) = some je ∧
    je.rolling = false ∧
    domainUp (qS je 2 []) = true ∧
    covered (qS je 2 []) pr.addr.toNat = true ∧
    paPass (qS je 2 []) (pktBy pr je).who (decide (1 ≠ 1) && decide (1 ≠ 4)) pr.addr.toNat = false) ∧
    AnswerBy z24 pr 36 [] 2 ∧
    AnswerBy z23 pr 36 [] 2 ∧
    AnswerBy (qS je 2 []) pr 36 [] 2 := 
  ⟨by decide +kernel,
    by decide +kernel,
    by decide +kernel,
    by decide +kernel,
    ⟨0, by decide +kernel⟩,
    ⟨0, by decide +kernel⟩,
    ⟨0, by decide +kernel⟩⟩

end Sys2Proof.Tests.P21

namespace Sys2Proof.Tests.P22

open Sys2Proof Sys2Proof.Machine Sys2Proof.Tests

def pk : SPkt := { dst := 5, src := 6, hops := 3, tag := 9, job := 4, addr := 0x30000000, sagent := 1, thread := 2, gmask := 6, boff := 0, bsize := 4, poison := false, aop := 0, status := 0, rel := false, rgen := 0, opx := 0 }
def pt : Port := { state := 5, partner := 6, rxLast := 9, txSeq := 8, acked := 3, replay := [(4,[]),(5,[]),(6,[])], credits := portCredits }
def rt (port : Nat) : W32 := BitVec.ofNat 32 (2^31 + port)
def ln0 : OutLane := { lane := 0, gd := 4, size := 4, signed := true }
def req (k : OutKind) : OutReq := { id := 9, tgt := 3, dev := 6, addr := 0x30000004, va := 0x1004, kind := k, who := .cc 0, ctx := 0, lanes := [ln0] }
def aS (r : OutReq) : Machine.State := { up with
  fabric := { up.fabric with device := 5, ports := [(2, pt)], bank0 := [(6, rt 2)], out := [r] }
  ccs := [(0, { core0 regs with waitIds := [9] })] }
def ra : OutReq := { req .amo with aop := 8, items := [(0, 1, 2)], lanes := [{ln0 with size := 8}] }
def z0 : SPkt := {pk with status := 3}
def z1 : OutLane := {ln0 with size := 8}
def z2 : SPkt := {pk with status := 4}
def z3 : State := {up with fabric := {up.fabric with failed := [6,7]}}
def z4 : SPkt := {pk with status := 1}
def z5 : SPkt := {pk with status := 2}
def z6 : SPkt := {pk with status := 5}

/-- States and operands that meet the hypotheses of the clauses of `RemoteAnswers`. -/
theorem witness_RemoteAnswers :
    (AnswersOne (aS (req OutKind.load)) 2 pk (req OutKind.load) ∧
    (req OutKind.load).who = Issuer.cc (0 : Fin 96) ∧
    (getCC (aS (req OutKind.load)) 0).waitIds = [(req OutKind.load).id] ∧
    (getCC (aS (req OutKind.load)) 0).results = [] ∧
    (getCC (aS (req OutKind.load)) 0).armed = false ∧
    ((req OutKind.load).kind = OutKind.load ∨ (req OutKind.load).kind = OutKind.res) ∧
    (req OutKind.load).lanes = [ln0] ∧
    ln0.size ≤ 8) ∧
    (pk.status = (0 : BitVec 4) ∧
    pk.poison = false ∧
    AnswersOne (aS (req OutKind.res)) 2 z0 (req OutKind.res) ∧
    (req OutKind.res).who = Issuer.cc (0 : Fin 96) ∧
    (getCC (aS (req OutKind.res)) 0).waitIds = [(req OutKind.res).id] ∧
    (getCC (aS (req OutKind.res)) 0).results = [] ∧
    (getCC (aS (req OutKind.res)) 0).armed = false ∧
    ((req OutKind.res).kind = OutKind.load ∨ (req OutKind.res).kind = OutKind.res)) ∧
    ((req OutKind.res).lanes = [ln0] ∧
    z0.status = (3 : BitVec 4) ∧
    AnswersOne (aS ra) 2 pk ra ∧
    ra.who = Issuer.cc (0 : Fin 96) ∧
    (getCC (aS ra) 0).waitIds = [ra.id] ∧
    (getCC (aS ra) 0).results = [] ∧
    (getCC (aS ra) 0).armed = false ∧
    ra.kind = OutKind.amo) ∧
    (aopOf ra.aop = some (AmoOp.add, true) ∧
    ra.lanes = [z1] ∧
    ra.items = [(z1.lane, 1, 2)] ∧
    AnswersOne (aS (req OutKind.scond)) 2 pk (req OutKind.scond) ∧
    (req OutKind.scond).who = Issuer.cc (0 : Fin 96) ∧
    (getCC (aS (req OutKind.scond)) 0).waitIds = [(req OutKind.scond).id] ∧
    (getCC (aS (req OutKind.scond)) 0).results = [] ∧
    (getCC (aS (req OutKind.scond)) 0).armed = false) ∧
    ((req OutKind.scond).kind = OutKind.scond ∧
    (req OutKind.scond).lanes = [ln0] ∧
    AnswersOne (aS (req OutKind.scond)) 2 z2 (req OutKind.scond) ∧
    z2.status = (4 : BitVec 4) ∧
    AnswersOne (aS (req OutKind.store)) 2 pk (req OutKind.store) ∧
    (req OutKind.store).who = Issuer.cc (0 : Fin 96) ∧
    (req OutKind.store).kind = OutKind.store ∧
    AnswersOne (aS (req OutKind.load)) 2 z4 (req OutKind.load)) ∧
    (kindReads (req OutKind.load).kind = true ∧
    z4.status = (1 : BitVec 4) ∧
    AnswersOne (aS (req OutKind.scond)) 2 z5 (req OutKind.scond) ∧
    kindReads (req OutKind.scond).kind = true ∧
    z5.status = (2 : BitVec 4) ∧
    AnswersOne (aS (req OutKind.amo)) 2 z6 (req OutKind.amo) ∧
    (req OutKind.amo).who = Issuer.cc (0 : Fin 96) ∧
    (getCC (aS (req OutKind.amo)) 0).waitIds = [(req OutKind.amo).id]) ∧
    ((getCC (aS (req OutKind.amo)) 0).results = [] ∧
    (getCC (aS (req OutKind.amo)) 0).armed = false ∧
    kindReads (req OutKind.amo).kind = true ∧
    (z6.status = (5 : BitVec 4) ∨ z6.status = (6 : BitVec 4))) := 
  ⟨by decide +kernel,
    by decide +kernel,
    by decide +kernel,
    by decide +kernel,
    by decide +kernel,
    by decide +kernel,
    by decide +kernel⟩

/-- States and operands that meet the hypotheses of the clauses of `FabricTables`. -/
theorem witness_FabricTables :
    (Granted (aS (req OutKind.load)) Requester.i3c 20496 3 Cls.bmc ∧
    Cls.bmc.local2 = true ∧
    Granted (aS (req OutKind.load)) Requester.i3c 20992 3 Cls.bmc ∧
    windowPort Requester.i3c = none ∧
    Cls.bmc.trio = true ∧
    false = false ∧
    1 ≤ BitVec.toNat (2 : BitVec 9) ∧
    BitVec.toNat (2 : BitVec 9) ≤ 256) ∧
    ([rt 1, rt 2].length = BitVec.toNat (2 : BitVec 9) ∧
    BitVec.toNat (3 : W16) + [rt 1, rt 2].length ≤ 65536 ∧
    [rt 1, rt 2].all routeOk = true ∧
    Granted (aS (req OutKind.load)) Requester.i3c 20992 4 Cls.bmc ∧
    (aS (req OutKind.load)).fabric.routeGen < BitVec.toNat (9 : W32) ∧
    Granted z3 Requester.i3c 20992 4 Cls.bmc ∧
    BitVec.toNat (0 : W32) ≤ z3.fabric.routeGen ∧
    Granted z3 Requester.i3c 20480 2 Cls.bmc) ∧
    (deviceQuiet z3 = true ∧
    Granted (aS (req OutKind.load)) Requester.i3c 20480 2 Cls.bmc ∧
    deviceQuiet (aS (req OutKind.load)) = false) := 
  ⟨by decide +kernel,
    by decide +kernel,
    by decide +kernel⟩

end Sys2Proof.Tests.P22

namespace Sys2Proof.Tests.P23

open Sys2Proof Sys2Proof.Machine Sys2Proof.Tests

def pk : SPkt := { dst := 5, src := 6, hops := 3, tag := 9, job := 7, addr := 0x30000000, sagent := 1, thread := 2, gmask := 6, boff := 0, bsize := 4, poison := false, aop := 0, status := 0, rel := false, rgen := 0, opx := 0 }
def pt : Port := { state := 5, partner := 6, rxLast := 9, txSeq := 8, acked := 3, replay := [(4,[]),(5,[]),(6,[])], credits := portCredits }
def rt (port : Nat) : W32 := BitVec.ofNat 32 (2^31 + port)
def cwd : List Nat := [3 * 2^60, 0, 0, 0, 0x100000, 0x200000, 512 * 2^24 + 8 * 2^16 + 2 * 2^13 + 3 * 2^7] ++ List.replicate 9 0
def wc : Work := { place := 0, words := cwd }
def xc : Entry := { queue := 3, ctx := 1, seq := 0, user := 0, words := cwd, phase := .checked, parts := [wc] }
def la : Leaf := { oa := 0x30000000, u := true, r := true, w := true }
def lb : Leaf := { oa := 0x40000000, u := true, r := true, w := true }
def tr8 : Tree := { job := 7, parent := 6, index := 2, children := 2, devices := [8, 9], round := 4 }
def cS (cs : List Collective) (x : Entry) : Machine.State := { up with
  fabric := { up.fabric with device := 5, ports := [(2, pt)], bank0 := [(6, rt 2), (8, rt 2), (9, rt 2)], trees := [(8, tr8)], running := cs }
  disp := { up.disp with ctxs := [(1, ctx1)], entries := [(5, x)], queues := [(3, {ctx := 1, prio := 7})] }
  homes := { lines := [(0x30000000/128, {st := .V}), (0x40000000/128, {st := .V})] }
  mem := mwriteN [] 0x30000000 ((List.range 512).map fun i => BitVec.ofNat 8 (i+1))
  epochs := { up.epochs with slots := [(1, {job := 7})] }
  hbm := {up.hbm with own := [(0x3000, {owner := 1, state := 2, zero := false}), (0x4000, {owner := 1, state := 2, zero := false})]}
  xlat := { held := [{ctx := 1, page := 0x10, leaf := la}, {ctx := 1, page := 0x20, leaf := lb}] } }
def c0 : Collective := { tree := 8, entry := 5, ctx := 1, job := 7, round := 5, rop := 2, fmt := 3, src := 0x100000, dst := 0x200000, chunks := 2 }
def d256 : List Byte := (List.range 256).map fun i => BitVec.ofNat 8 (3 * i)
def word (chunk child round : Nat) : W64 := BitVec.ofNat 64 (8 * 2^56 + round * 2^40 + chunk * 2^16 + child * 2^11)
def xr : Entry := { xc with phase := .running, parts := [{wc with running := true}] }
def p1 : SPkt := { pk with opx := word 1 1 5 }
def cg : Collective := { c0 with got := [(1, 2, d256)] }
def s1 : Machine.State := modColl (cS [cg] xr) 8 fun c => { c with got := c.got ++ [(1, 1, d256)] }
def src := copySource s1 1 [] (copyPieces (cg.src + 256) 256)
def cs1 : Collective := { c0 with sent := [0, 1] }
def cs2 : Collective := { c0 with sent := [0, 1], done := [0] }
def z4 : Work := {wc with running := true}

/-- States and operands that meet the hypotheses of the clauses of `CollectivesRun`. -/
theorem witness_CollectivesRun :
    (collArrives (cS [c0] xr) p1 = true ∧
    collMatch (cS [c0] xr) p1 = some (c0, 1, 1) ∧
    c0.done.length < c0.chunks ∧
    1 ≤ 1 ∧
    1 ≤ (getTree (cS [c0] xr) c0.tree).children ∧
    1 < c0.chunks ∧
    contribution c0 1 1 = none ∧
    (¬1 ∈ c0.sent)) ∧
    (collArrives (cS [cs1] xr) p1 = true ∧
    collMatch (cS [cs1] xr) p1 = some (cs1, 1, 1) ∧
    cs1.done.length < cs1.chunks ∧
    1 ∈ cs1.sent ∧
    (¬1 ∈ cs1.done) ∧
    cs1.done.length + 1 < cs1.chunks ∧
    collArrives (cS [cs2] xr) p1 = true ∧
    collMatch (cS [cs2] xr) p1 = some (cs2, 1, 1)) ∧
    (cs2.done.length < cs2.chunks ∧
    1 ∈ cs2.sent ∧
    (¬1 ∈ cs2.done) ∧
    cs2.done.length + 1 = cs2.chunks ∧
    getEntry (cS [cs2] xr) cs2.entry = some xr ∧
    xr.parts = [z4] ∧
    xr.phase = EPhase.running ∧
    z4.running = true) ∧
    (kindOf z4.words = 3 ∧
    treeOf z4.words = cs2.tree ∧
    z4.ids = [] ∧
    z4.tag = 0 ∧
    (∀ (q : Nat × Nat), q ∈ copyPieces (cs2.dst + 256 * 1) 256 → ∃ l, heldOf (cS [cs2] xr) cs2.ctx.toNat q.fst = some l ∧ l.tgt = 0) ∧
    collArrives (cS [] xc) pk = true ∧
    collMatch (cS [] xc) pk = none ∧
    running (cS [cs1] xr) = true) ∧
    (collOn (cS [cs1] xr) (BitVec.toNat (8 : Byte)) = some cs1 ∧
    collWaits (cS [cs1] xr) cs1 = some 6 ∧
    (cS [cs1] xr).fabric.out = [] ∧
    getCtx (cS [cs1] xr) cs1.ctx.toNat = some ctx1) ∧
    (∃ j, 1 ≤ j ∧ j ≤ (getTree (cS [c0] xr) c0.tree).children ∧ j ≠ 1 ∧ contribution c0 1 j = none) := 
  ⟨by decide +kernel,
    by decide +kernel,
    by decide +kernel,
    by decide +kernel,
    by decide +kernel,
    ⟨2, by decide +kernel⟩⟩

/-- The same device, its tree's parent itself. -/
def cP (cs : List Collective) (x : Entry) : Machine.State :=
  { cS cs x with fabric := { (cS cs x).fabric with trees := [(8, { tr8 with parent := 5 })] } }

/-- Entry 5 can start on its tree (first clause of `CollectivesRun`). -/
theorem witness_CollectiveStarts :
    running (cS [] xc) = true ∧ getEntry (cS [] xc) 5 = some xc ∧ startable (cS [] xc) xc 3 = some wc ∧ treeOf wc.words = 8 ∧
    getTree (cS [] xc) 8 = tr8 ∧ tr8.job ≠ 0 ∧ tr8.job = ctxJob (cS [] xc) xc.ctx.toNat ∧ collOn (cS [] xc) 8 = none ∧
    1 ≤ tr8.children ∧ 1 ≤ lenField wc.words / 256 := by decide +kernel

/-- The last contribution of a chunk, the source read and the way to the parent clear (third clause of `CollectivesRun`). -/
theorem witness_ContributionsComplete :
    let s := cP [cg] xr
    let s1 := modColl s 8 fun c => { c with got := c.got ++ [(1, 1, d256)] }
    let src := copySource s1 cg.ctx [] (copyPieces (cg.src + 256 * 1) 256)
    let kept : Collective := { cg with got := cg.got ++ [(1, 1, d256)] }
    collArrives s p1 = true ∧ collMatch s p1 = some (cg, 1, 1) ∧ cg.done.length < cg.chunks ∧ 1 < cg.chunks ∧
    1 ≤ (getTree s 8).children ∧ contribution cg 1 1 = none ∧ 1 ∉ cg.sent ∧ 1 ∉ cg.done ∧ (getTree s 8).parent < 0xFFFF ∧
    contributions kept 1 ((List.range (getTree s 8).children).map fun i => i + 1) = some [d256, d256] ∧ src.2.2 = none ∧
    outPort s (getTree s 8).parent = some (32, 0) ∧
    ([d256, d256].foldl (fun a q => reduceBytes cg.rop cg.fmt q a) src.2.1).length ≤ 256 := by decide +kernel

end Sys2Proof.Tests.P23

namespace Sys2Proof.Tests.P24

open Sys2Proof Sys2Proof.Machine Sys2Proof.Tests

def rS (role : Nat) : Machine.State := { up with fabric := { up.fabric with device := 5, manager := 6, standby := 7, gen := 4, role := role } }
def pay : List Byte := List.replicate 192 7
def kp (p : Port) : Machine.State := { up with fabric := { up.fabric with device := 5, ports := [(2, p)] } }
def pt : Port := { state := 4, protect := 1, keyState := 1, offerOut := some [1] }
def pt2 : Port := { pt with chain := [(0, pay)], chainLen := 1, chainGood := true }
def pt3 : Port := { pt2 with offerIn := some [2], confirmOut := true }
def z0 : List Byte := pay.take 48 ++ List.replicate 144 0
def z1 : State := kp {state := 6, protect := 1}
def z2 : State := kp {state := 5, protect := 1, keyState := 2}

/-- States and operands that meet the hypotheses of the clauses of `RolesChange`. -/
theorem witness_RolesChange :
    halyard (rS 2) = true ∧
    (rS 2).fabric.role = 2 ∧
    halyard (rS 1) = true ∧
    BitVec.toNat (7 : W16) = (rS 1).fabric.standby ∧
    (rS 1).fabric.gen < BitVec.toNat (5 : W32) ∧
    (¬(BitVec.toNat (6 : W16) = (rS 2).fabric.standby ∧ (rS 2).fabric.gen < BitVec.toNat (5 : W32))) ∧
    (rS 1).fabric.role = 1 := by decide +kernel

/-- States and operands that meet the hypotheses of the clauses of `KeysExchanged`. -/
theorem witness_KeysExchanged :
    (halyard (kp pt) = true ∧
    ((getPort (kp pt) 2).protect = 1 ∧ ((getPort (kp pt) 2).state = 4 ∨ (getPort (kp pt) 2).state = 5) ∧ (getPort (kp pt) 2).offerOut = some [(1 : Byte)] ∧ BitVec.toNat (3 : BitVec 5) ≤ 17 ∧ pay.length = 192) ∧
    BitVec.toNat (0 : Byte) < BitVec.toNat (2 : Byte) ∧
    chainBytes ({ (getPort (kp pt) 2) with chain := tput (getPort (kp pt) 2).chain (BitVec.toNat (0 : Byte)) pay, chainLen := BitVec.toNat (2 : Byte) } : Port) = none ∧
    BitVec.toNat (0 : Byte) < BitVec.toNat (1 : Byte) ∧
    chainBytes ({ (getPort (kp pt) 2) with chain := tput (getPort (kp pt) 2).chain (BitVec.toNat (0 : Byte)) pay, chainLen := BitVec.toNat (1 : Byte) } : Port) = some pay ∧
    halyard (kp pt2) = true ∧
    ((getPort (kp pt2) 2).protect = 1 ∧ ((getPort (kp pt2) 2).state = 4 ∨ (getPort (kp pt2) 2).state = 5) ∧ (getPort (kp pt2) 2).offerOut = some [(1 : Byte)] ∧ BitVec.toNat (3 : BitVec 5) ≤ 17 ∧ pay.length = 192)) ∧
    ((getPort (kp pt2) 2).chainGood = true ∧
    chainBytes (getPort (kp pt2) 2) = some pay ∧
    (getPort (kp pt) 2).chainGood = false ∧
    halyard (kp pt3) = true ∧
    ((getPort (kp pt3) 2).protect = 1 ∧ ((getPort (kp pt3) 2).state = 4 ∨ (getPort (kp pt3) 2).state = 5) ∧ (getPort (kp pt3) 2).offerOut = some [(1 : Byte)] ∧ BitVec.toNat (3 : BitVec 5) ≤ 17 ∧ z0.length = 192) ∧
    (getPort (kp pt3) 2).offerIn = some [(2 : Byte)] ∧
    (getPort (kp pt3) 2).confirmOut = true ∧
    (∀ (b : Byte), b ∈ List.drop 48 z0 → b = (0 : Byte))) ∧
    ((getPort (kp pt) 2).protect = 1 ∧
    ((getPort (kp pt) 2).state = 4 ∨ (getPort (kp pt) 2).state = 5) ∧
    (getPort (kp pt) 2).offerOut = some [(1 : Byte)] ∧
    halyard z1 = true ∧
    (getPort z1 2).state = 6 ∧
    halyard z2 = true ∧
    (getPort z2 2).state = 5 ∧
    (getPort z2 2).protect = 1) ∧
    ((getPort z2 2).keyState = 2 ∧
    (getPort z2 2).offerOut = none) ∧
    ((Config.chainVerifies pay = true ∨ Config.chainVerifies pay = false)) ∧
    ((Config.offerVerifies pay pay = true ∨ Config.offerVerifies pay pay = false)) ∧
    ((Config.confirmVerifies [(2 : Byte)] [(1 : Byte)] (List.take 48 z0) = true ∨ Config.confirmVerifies [(2 : Byte)] [(1 : Byte)] (List.take 48 z0) = false)) := 
  ⟨by decide +kernel,
    by decide +kernel,
    by decide +kernel,
    by decide +kernel,
    Bool.eq_false_or_eq_true _,
    Bool.eq_false_or_eq_true _,
    Bool.eq_false_or_eq_true _⟩

end Sys2Proof.Tests.P24

namespace Sys2Proof.Tests.P25

open Sys2Proof Sys2Proof.Machine Sys2Proof.Tests

def rd (op i j : Nat) (bs : List Byte) : DictBody := { op := BitVec.ofNat 8 op, tag := 7, index := BitVec.ofNat 16 i, sub := BitVec.ofNat 8 j, len := BitVec.ofNat 12 bs.length, res := 0, rest := bs ++ List.replicate (8 * ceilDiv bs.length 8 - bs.length) 0 }
def vfS : Machine.State := { up with disp := { up.disp with vfs := [(3, {part := 5, enabled := true})] }, pcie := [(0, {perst := false, up := true})] }
def b0 : DictBody := rd 2 0x2200 1 [1]
def b1 : DictBody := rd 2 0x2500 1 [3]
def b2 : DictBody := rd 2 0x5000 7 [9]
def b3 : DictBody := rd 2 0x5000 7 [101]
def b4 : DictBody := rd 2 0x5000 7 [9, 0]
def b6 : DictBody := rd 2 0x5000 77 [9]
def b7 : DictBody := rd 2 0x5000 7 [9]
def s7 : Machine.State := {up with life := .starting}
def doneB (s : Machine.State) (b : DictBody) (st type : Nat) (u : Machine.State) : Bool := match execDictionaryWrite .i3c b s with | .next t => decide (t = respondTo u .i3c 2 b.tag.toNat b.index.toNat b.sub.toNat st type []) | _ => false
def check (s : Machine.State) (b : DictBody) : String :=
  let i := b.index.toNat
  let j := b.sub.toNat
  let bs := (b.rest ++ List.replicate b.len.toNat 0).take b.len.toNat
  let ty := (entryVal s .i3c i j).1
  if malformed .i3c b then "malformed" else
  if lifeStatus s true i j ≠ 0 then "life " ++ toString (doneB s b (lifeStatus s true i j) 0 s)
  else if !entryThere i j then "there " ++ toString (doneB s b 1 0 s)
  else match entryCmd s .i3c i j bs with
    | none => "none " ++ toString (doneB s b 2 ty (refusedEffect s .i3c i j 2 bs))
    | some c => if !c.may s .bmc then "may " ++ toString (doneB s b 2 ty (refusedEffect s .i3c i j 2 bs))
      else if !lengthFits .i3c i j (entryVal s .i3c i j).2.length bs.length then "fits " ++ toString (doneB s b 5 ty (refusedEffect s .i3c i j 5 bs))
      else if c.check s .bmc ≠ 0 then "check " ++ toString (doneB s b (c.check s .bmc) ty (refusedEffect s .i3c i j (c.check s .bmc) bs))
      else "ok " ++ toString (doneB s b 0 ty (c.apply s .bmc))
def wS : Machine.State := { vfS with life := .usable }
def z1 : DictBody := {rd 1 0x5000 2 [] with res := 1}
def z2 : State := {up with life := .starting}
def z4 : State := {up with life := .starting}
def z5 : BitVec 27 := 0x5000 * 2048 + 99 * 8
def z6 : BitVec 27 := 0x5000 * 2048 + 99 * 8
def z7 : State := {wS with life := .starting}

/-- States and operands that meet the hypotheses of the clauses of `DictionaryReads`. -/
theorem witness_DictionaryReads :
    (halyard up = true ∧
    reaches up Requester.i3c = true ∧
    windowPort Requester.i3c = none ∧
    classify up Requester.i3c = (up, some Cls.bmc) ∧
    z1.op ≠ (2 : Byte) ∧
    z1.op ≠ (3 : Byte) ∧
    malformed Requester.i3c z1 = true ∧
    halyard z2 = true) ∧
    (reaches z2 Requester.i3c = true ∧
    classify z2 Requester.i3c = (z2, some Cls.bmc) ∧
    (rd 1 20480 2 []).op = (1 : Byte) ∧
    malformed Requester.i3c (rd 1 20480 2 []) = false ∧
    lifeStatus z2 false (BitVec.toNat (rd 1 20480 2 []).index) (BitVec.toNat (rd 1 20480 2 []).sub) ≠ 0 ∧
    (rd 1 20480 99 []).op = (1 : Byte) ∧
    malformed Requester.i3c (rd 1 20480 99 []) = false ∧
    lifeStatus up false (BitVec.toNat (rd 1 20480 99 []).index) (BitVec.toNat (rd 1 20480 99 []).sub) = 0) ∧
    (entryThere (BitVec.toNat (rd 1 20480 99 []).index) (BitVec.toNat (rd 1 20480 99 []).sub) = false ∧
    halyard vfS = true ∧
    reaches vfS (Requester.vf (0 : Fin 2) (3 : Fin 32)) = true ∧
    windowPort (Requester.vf (0 : Fin 2) (3 : Fin 32)) = none ∧
    classify vfS (Requester.vf (0 : Fin 2) (3 : Fin 32)) = (vfS, some (Cls.part 5)) ∧
    (rd 1 12297 1 []).op = (1 : Byte) ∧
    malformed (Requester.vf (0 : Fin 2) (3 : Fin 32)) (rd 1 12297 1 []) = false ∧
    lifeStatus vfS false (BitVec.toNat (rd 1 12297 1 []).index) (BitVec.toNat (rd 1 12297 1 []).sub) = 0) ∧
    (entryThere (BitVec.toNat (rd 1 12297 1 []).index) (BitVec.toNat (rd 1 12297 1 []).sub) = true ∧
    mayRead vfS (Cls.part 5) (BitVec.toNat (rd 1 12297 1 []).index) (BitVec.toNat (rd 1 12297 1 []).sub) = false ∧
    lifeStatus up false (BitVec.toNat (rd 1 20480 2 []).index) (BitVec.toNat (rd 1 20480 2 []).sub) = 0 ∧
    entryThere (BitVec.toNat (rd 1 20480 2 []).index) (BitVec.toNat (rd 1 20480 2 []).sub) = true ∧
    mayRead up Cls.bmc (BitVec.toNat (rd 1 20480 2 []).index) (BitVec.toNat (rd 1 20480 2 []).sub) = true ∧
    onLoam (BitVec.toNat (rd 1 20480 2 []).index) = false ∧
    (rd 1 36929 1 []).op = (1 : Byte) ∧
    malformed Requester.i3c (rd 1 36929 1 []) = false) ∧
    (lifeStatus up false (BitVec.toNat (rd 1 36929 1 []).index) (BitVec.toNat (rd 1 36929 1 []).sub) = 0 ∧
    entryThere (BitVec.toNat (rd 1 36929 1 []).index) (BitVec.toNat (rd 1 36929 1 []).sub) = true ∧
    mayRead up Cls.bmc (BitVec.toNat (rd 1 36929 1 []).index) (BitVec.toNat (rd 1 36929 1 []).sub) = true ∧
    onLoam (BitVec.toNat (rd 1 36929 1 []).index) = true ∧
    halyard z4 = true ∧
    reaches z4 Requester.i3c = true ∧
    classify z4 Requester.i3c = (z4, some Cls.bmc) ∧
    (rd 3 65535 2 []).op = (3 : Byte)) ∧
    (malformed Requester.i3c (rd 3 65535 2 []) = false ∧
    z4.life = Life.starting ∧
    up.life ≠ Life.starting ∧
    nextEntry up Cls.bmc (BitVec.toNat (rd 3 65535 2 []).index) (BitVec.toNat (rd 3 65535 2 []).sub) = none ∧
    (rd 3 20480 2 []).op = (3 : Byte) ∧
    malformed Requester.i3c (rd 3 20480 2 []) = false ∧
    nextEntry up Cls.bmc (BitVec.toNat (rd 3 20480 2 []).index) (BitVec.toNat (rd 3 20480 2 []).sub) = some (20480, 3) ∧
    onLoam 20480 = false) := 
  ⟨by decide +kernel,
    by decide +kernel,
    by decide +kernel,
    by decide +kernel,
    by decide +kernel,
    by decide +kernel⟩

/-- States and operands that meet the hypotheses of the clauses of `WindowAccesses`. -/
theorem witness_WindowAccesses :
    (halyard wS = true ∧
    reaches wS (Requester.window (0 : Fin 2)) = true ∧
    classify wS (Requester.window (0 : Fin 2)) = (wS, some (Cls.host 0)) ∧
    BitVec.toNat (0 : BitVec 27) / 2048 = 0 ∧
    (BitVec.toNat (8 : Byte) = 8 ∧ BitVec.toNat (0 : BitVec 27) % 8 = 0 ∨ BitVec.toNat (8 : Byte) = 4 ∧ BitVec.toNat (0 : BitVec 27) % 4 = 0) ∧
    ((20480 : BitVec 27) * (2048 : BitVec 27) + (21 : BitVec 27)).toNat / 2048 ≠ 0 ∧
    (¬(BitVec.toNat (4 : Byte) = 8 ∧ ((20480 : BitVec 27) * (2048 : BitVec 27) + (21 : BitVec 27)).toNat % 8 = 0 ∨ BitVec.toNat (4 : Byte) = 4 ∧ ((20480 : BitVec 27) * (2048 : BitVec 27) + (21 : BitVec 27)).toNat % 4 = 0)) ∧
    halyard z7 = true) ∧
    (reaches z7 (Requester.window (0 : Fin 2)) = true ∧
    classify z7 (Requester.window (0 : Fin 2)) = (z7, some (Cls.host 0)) ∧
    z6.toNat / 2048 ≠ 0 ∧
    (BitVec.toNat (8 : Byte) = 8 ∧ z6.toNat % 8 = 0 ∨ BitVec.toNat (8 : Byte) = 4 ∧ z6.toNat % 4 = 0) ∧
    lifeStatus z7 false (z6.toNat / 2048) (z6.toNat % 2048 / 8) ≠ 0 ∧
    z5.toNat / 2048 ≠ 0 ∧
    (BitVec.toNat (4 : Byte) = 8 ∧ z5.toNat % 8 = 0 ∨ BitVec.toNat (4 : Byte) = 4 ∧ z5.toNat % 4 = 0) ∧
    lifeStatus wS false (z5.toNat / 2048) (z5.toNat % 2048 / 8) = 0) ∧
    (entryThere (z5.toNat / 2048) (z5.toNat % 2048 / 8) = false ∧
    ((20480 : BitVec 27) * (2048 : BitVec 27) + (16 : BitVec 27)).toNat / 2048 ≠ 0 ∧
    (BitVec.toNat (8 : Byte) = 8 ∧ ((20480 : BitVec 27) * (2048 : BitVec 27) + (16 : BitVec 27)).toNat % 8 = 0 ∨ BitVec.toNat (8 : Byte) = 4 ∧ ((20480 : BitVec 27) * (2048 : BitVec 27) + (16 : BitVec 27)).toNat % 4 = 0) ∧
    lifeStatus wS false (((20480 : BitVec 27) * (2048 : BitVec 27) + (16 : BitVec 27)).toNat / 2048) (((20480 : BitVec 27) * (2048 : BitVec 27) + (16 : BitVec 27)).toNat % 2048 / 8) = 0 ∧
    entryThere (((20480 : BitVec 27) * (2048 : BitVec 27) + (16 : BitVec 27)).toNat / 2048) (((20480 : BitVec 27) * (2048 : BitVec 27) + (16 : BitVec 27)).toNat % 2048 / 8) = true ∧
    mayRead wS (Cls.host 0) (((20480 : BitVec 27) * (2048 : BitVec 27) + (16 : BitVec 27)).toNat / 2048) (((20480 : BitVec 27) * (2048 : BitVec 27) + (16 : BitVec 27)).toNat % 2048 / 8) = true ∧
    (entryVal wS (Requester.window (0 : Fin 2)) (((20480 : BitVec 27) * (2048 : BitVec 27) + (16 : BitVec 27)).toNat / 2048) (((20480 : BitVec 27) * (2048 : BitVec 27) + (16 : BitVec 27)).toNat % 2048 / 8)).fst < 7 ∧
    onLoam (((20480 : BitVec 27) * (2048 : BitVec 27) + (16 : BitVec 27)).toNat / 2048) = false) ∧
    ((BitVec.toNat (8 : Byte) ≠ 8 ∨ BitVec.toNat (0 : BitVec 27) % 8 ≠ 0 ∨ BitVec.toNat (0 : BitVec 27) / 2048 = 0) ∧
    BitVec.toNat (8 : Byte) = 8 ∧
    z6.toNat % 8 = 0 ∧
    lifeStatus z7 true (z6.toNat / 2048) (z6.toNat % 2048 / 8) ≠ 0 ∧
    entryThere (z6.toNat / 2048) (z6.toNat % 2048 / 8) = false) := 
  ⟨by decide +kernel,
    by decide +kernel,
    by decide +kernel,
    by decide +kernel⟩

/-- An entry's write that is there is some write. -/
theorem write_there {o : Option Cmd} (d : Cmd) (h : o.isSome = true) : o = some (o.getD d) := by
  cases o with
  | none => simp at h
  | some c => rfl

/-- The value bytes of a message. -/
def val (b : DictBody) : List Byte := (b.rest ++ List.replicate b.len.toNat 0).take b.len.toNat

/-- A write message that the sideband requester may send is read as such. -/
abbrev Sent (s : Machine.State) (q : Requester) (k : Cls) (b : DictBody) : Prop :=
  halyard s = true ∧ reaches s q = true ∧ windowPort q = none ∧ classify s q = (s, some k) ∧ b.op = 2 ∧ malformed q b = false ∧
    lifeStatus s true b.index.toNat b.sub.toNat = 0

def b8 : DictBody := rd 2 0x5000 3 [9]
def cmd (s : Machine.State) (q : Requester) (b : DictBody) : Cmd :=
  (entryCmd s q b.index.toNat b.sub.toNat (val b)).getD (traceRingCmd 1 1)

/-- Write messages refused for the life of the device, for an entry that is not there, and for one that nobody writes. -/
theorem witness_WritesRefused :
    lifeStatus s7 true b7.index.toNat b7.sub.toNat ≠ 0 ∧ malformed .i3c b7 = false ∧ Sent up .i3c .bmc b6 ∧
    entryThere b6.index.toNat b6.sub.toNat = false ∧ Sent up .i3c .bmc b8 ∧ entryThere b8.index.toNat b8.sub.toNat = true ∧
    (entryCmd up .i3c b8.index.toNat b8.sub.toNat (val b8)).isNone = true := by decide +kernel

/-- A write message of a class that may not write, of a wrong length, of a value out of range, and one that is done. -/
theorem witness_WritesAnswered :
    (Sent vfS (.vf 0 3) (.part 5) b0 ∧ entryThere b0.index.toNat b0.sub.toNat = true ∧ (cmd vfS (.vf 0 3) b0).may vfS (.part 5) = false ∧
      Sent up .i3c .bmc b4 ∧ (cmd up .i3c b4).may up .bmc = true ∧
      lengthFits .i3c b4.index.toNat b4.sub.toNat (entryVal up .i3c b4.index.toNat b4.sub.toNat).2.length (val b4).length = false) ∧
    (Sent up .i3c .bmc b3 ∧ (cmd up .i3c b3).may up .bmc = true ∧ (cmd up .i3c b3).check up .bmc ≠ 0 ∧
      lengthFits .i3c b3.index.toNat b3.sub.toNat (entryVal up .i3c b3.index.toNat b3.sub.toNat).2.length (val b3).length = true ∧
      Sent up .i3c .bmc b1 ∧ (cmd up .i3c b1).may up .bmc = true ∧ (cmd up .i3c b1).check up .bmc = 0 ∧
      lengthFits .i3c b1.index.toNat b1.sub.toNat (entryVal up .i3c b1.index.toNat b1.sub.toNat).2.length (val b1).length = true) ∧
    (Sent up .i3c .bmc b0 ∧ Sent up .i3c .bmc b2 ∧ Cls.bmc.trio = true ∧ leNat (val b0) ≤ 2 ∧ leNat (val b1) ≤ 3 ∧
      2 ≤ leNat (val b2) ∧ leNat (val b2) ≤ 100) ∧
    entryCmd vfS (.vf 0 3) b0.index.toNat b0.sub.toNat (val b0) = some (cmd vfS (.vf 0 3) b0) ∧
    entryCmd up .i3c b4.index.toNat b4.sub.toNat (val b4) = some (cmd up .i3c b4) ∧
    entryCmd up .i3c b3.index.toNat b3.sub.toNat (val b3) = some (cmd up .i3c b3) ∧
    entryCmd up .i3c b1.index.toNat b1.sub.toNat (val b1) = some (cmd up .i3c b1) :=
  ⟨by decide +kernel, by decide +kernel, by decide +kernel, write_there _ (by decide +kernel), write_there _ (by decide +kernel),
    write_there _ (by decide +kernel), write_there _ (by decide +kernel)⟩

/-- The host writes the local default of 0x5010:01 through the window. -/
def wcmd : Cmd := (entryCmd wS (.window 0) 0x5010 1 (natLe (entryVal wS (.window 0) 0x5010 1).2.length 30)).getD (traceRingCmd 1 1)
theorem witness_WindowWrites :
    (halyard wS = true ∧ reaches wS (.window 0) = true ∧ classify wS (.window 0) = (wS, some (.host 0)) ∧
      (0x5010 * 2048 + 8) / 2048 = 0x5010 ∧ lifeStatus wS true 0x5010 1 = 0 ∧ entryThere 0x5010 1 = true ∧
      (entryVal wS (.window 0) 0x5010 1).1 < 7 ∧ wcmd.may wS (.host 0) = true ∧ wcmd.check wS (.host 0) = 0 ∧
      lengthFits (.window 0) 0x5010 1 (entryVal wS (.window 0) 0x5010 1).2.length (entryVal wS (.window 0) 0x5010 1).2.length = true ∧
      highBad (entryVal wS (.window 0) 0x5010 1).1 (entryVal wS (.window 0) 0x5010 1).2.length 30 = false) ∧
    entryCmd wS (.window 0) 0x5010 1 (natLe (entryVal wS (.window 0) 0x5010 1).2.length 30) = some wcmd :=
  ⟨by decide +kernel, write_there _ (by decide +kernel)⟩

end Sys2Proof.Tests.P25

namespace Sys2Proof.Tests.P25B

open Sys2Proof Sys2Proof.Machine Sys2Proof.Tests

def wS : Machine.State := { up with disp := { up.disp with vfs := [(3, {part := 5, enabled := true})] }, pcie := [(0, {perst := false, up := true})] }
def o (i j : Nat) : BitVec 27 := BitVec.ofNat 27 (i * 2048 + j * 8)
def z1 : State := {up with obs := {up.obs with alarms := 0x7FFFF}}
def z3 : State := {up with obs := {up.obs with alarms := 0x7FFFF}}

/-- States and operands that meet the hypotheses of the clauses of `DictionaryWrites`. -/
theorem witness_DictionaryWrites :
    Granted z1 Requester.i3c 28672 2 Cls.bmc ∧
    Cls.bmc.trio = true ∧
    BitVec.toNat (240 : W64) < 2 ^ 19 ∧
    Granted z3 Requester.i3c 28672 2 Cls.bmc ∧
    2 ^ 19 ≤ BitVec.toNat (983280 : W64) := by decide +kernel

/-- States and operands that meet the hypotheses of the clauses of `WindowAccesses`. -/
theorem witness_WindowAccesses2 :
    (halyard wS = true ∧
    reaches wS (Requester.window (0 : Fin 2)) = true ∧
    classify wS (Requester.window (0 : Fin 2)) = (wS, some (Cls.host 0)) ∧
    (o 12544 1).toNat / 2048 ≠ 0 ∧
    (BitVec.toNat (8 : Byte) = 8 ∧ (o 12544 1).toNat % 8 = 0 ∨ BitVec.toNat (8 : Byte) = 4 ∧ (o 12544 1).toNat % 4 = 0) ∧
    lifeStatus wS false ((o 12544 1).toNat / 2048) ((o 12544 1).toNat % 2048 / 8) = 0 ∧
    entryThere ((o 12544 1).toNat / 2048) ((o 12544 1).toNat % 2048 / 8) = true ∧
    mayRead wS (Cls.host 0) ((o 12544 1).toNat / 2048) ((o 12544 1).toNat % 2048 / 8) = true) ∧
    (7 ≤ (entryVal wS (Requester.window (0 : Fin 2)) ((o 12544 1).toNat / 2048) ((o 12544 1).toNat % 2048 / 8)).fst) := 
  ⟨by decide +kernel,
    by decide +kernel⟩

end Sys2Proof.Tests.P25B

namespace Sys2Proof.Tests.P26

open Sys2Proof Sys2Proof.Machine Sys2Proof.Tests

def pk : SPkt := { dst := 7, src := 6, hops := 3, tag := 9, job := 4, addr := 9, sagent := 1, thread := 2, gmask := 6, boff := 0, bsize := 4, poison := false, aop := 0, status := 0, rel := false, rgen := 0, opx := 0 }
def pt : Port := { state := 5, partner := 6, credits := portCredits }
def dS (role : Nat) : Machine.State := { up with fabric := { up.fabric with device := 5, manager := 6, gen := 4, role := role, ports := [(2, pt), (3, pt)] } }
def w (ndir hop : Nat) (ps : List Nat) : W64 := BitVec.ofNat 64 (ndir * 2^60 + hop * 2^56 + (ps.zipIdx.foldl (fun (n : Nat) (x : Nat × Nat) => n + x.1 * 2^(5 * x.2)) (0 : Nat)))
def body : List Byte := natLe 8 (1 * 2^56 + 77 * 2^48 + 0x5000 * 2^32 + 2 * 2^24) ++ natLe 8 0
def sr := serveBody (noteGen (dS 2) 9) (.fabric 6 9 true) (bodyOf body)
def px (x : Pcie) : Machine.State := { up with pcie := [(0, x)], disp := { up.disp with vfs := [(3, {part := 5, enabled := true, busMaster := true})], parts := [(0, {partition0 with cores := 1}), (5, {state := 2, cores := 2, ccores := 2, port := 0})] } }
def hS : Machine.State := { px {perst := false, up := true, ideLink := 1, ideSel := [(2, 1)]} with mem := mwriteN [] 0x2FFFFFFE [1,2,3,4,5,6], homes := {lines := [(0x30000000/128, {st := .V})]}, hbm := {up.hbm with own := [(0x3000, {owner := 1, part := 5, state := 2, zero := false})]} }
def xs : Machine.State := px {perst := false, up := true}
def pp : SPkt := {pk with opx := w 3 2 [3, 3, 4]}
def z0 : SPkt := {pk with opx := w 12 0 []}
def z1 : SPkt := {pk with opx := w 3 0 [9, 3, 4]}
def z2 : SPkt := {pk with opx := w 3 1 [9, 3, 4]}
def z3 : SPkt := {pk with opx := w 3 2 [3, 3, 4]}
def z4 : SPkt := {pk with opx := w 3 2 [3, 3, 4]}
def z8 : State := px {perst := false, up := true}
def z10 : State := {px {perst := false, up := true} with homes := {up.homes with down := true}}
def z11 : State := {hS with life := .starting}

/-- States and operands that meet the hypotheses of the clauses of `DirectedPackets`. -/
theorem witness_DirectedPackets :
    (halyard (dS 2) = true ∧
    (getPort (dS 2) 2).state = 5 ∧
    1 ≤ bits (BitVec.toNat z0.opx) 63 60 ∧
    1 ≤ bits (BitVec.toNat z1.opx) 63 60 ∧
    bit (BitVec.toNat z1.opx) 55 = false ∧
    bits (BitVec.toNat z1.opx) 63 60 ≤ 11 ∧
    pktClass (BitVec.toNat (56 : BitVec 6)) = 3 ∧
    bits (BitVec.toNat z1.opx) 59 56 + 1 < bits (BitVec.toNat z1.opx) 63 60) ∧
    (hopPort (setHop (setHopPort (BitVec.toNat z1.opx) (bits (BitVec.toNat z1.opx) 59 56) 2) (bits (BitVec.toNat z1.opx) 59 56 + 1)) (bits (BitVec.toNat z1.opx) 59 56 + 1) < 18 ∧
    (getPort (dS 2) (hopPort (setHop (setHopPort (BitVec.toNat z1.opx) (bits (BitVec.toNat z1.opx) 59 56) 2) (bits (BitVec.toNat z1.opx) 59 56 + 1)) (bits (BitVec.toNat z1.opx) 59 56 + 1))).queue = [] ∧
    portCan (dS 2) (hopPort (setHop (setHopPort (BitVec.toNat z1.opx) (bits (BitVec.toNat z1.opx) 59 56) 2) (bits (BitVec.toNat z1.opx) 59 56 + 1)) (bits (BitVec.toNat z1.opx) 59 56 + 1)) { vc := 2 * pktClass (BitVec.toNat (56 : BitVec 6)), op := BitVec.toNat (56 : BitVec 6), p := z1, data := natLe 16 7 } = true ∧
    1 ≤ bits (BitVec.toNat z2.opx) 63 60 ∧
    bit (BitVec.toNat z2.opx) 55 = false ∧
    bits (BitVec.toNat z2.opx) 63 60 ≤ 11 ∧
    pktClass (BitVec.toNat (58 : BitVec 6)) = 3 ∧
    bits (BitVec.toNat z2.opx) 59 56 = 1) ∧
    (1 ≤ bits (BitVec.toNat z3.opx) 63 60 ∧
    bit (BitVec.toNat z3.opx) 55 = false ∧
    bits (BitVec.toNat z3.opx) 63 60 ≤ 11 ∧
    1 < bits (BitVec.toNat z3.opx) 59 56 ∧
    bits (BitVec.toNat z3.opx) 59 56 ≤ bits (BitVec.toNat z3.opx) 63 60 ∧
    hopPort (setHop (BitVec.toNat z3.opx) (bits (BitVec.toNat z3.opx) 59 56 - 1)) (bits (BitVec.toNat z3.opx) 59 56 - 2) < 18 ∧
    (getPort (dS 2) (hopPort (setHop (BitVec.toNat z3.opx) (bits (BitVec.toNat z3.opx) 59 56 - 1)) (bits (BitVec.toNat z3.opx) 59 56 - 2))).queue = [] ∧
    portCan (dS 2) (hopPort (setHop (BitVec.toNat z3.opx) (bits (BitVec.toNat z3.opx) 59 56 - 1)) (bits (BitVec.toNat z3.opx) 59 56 - 2)) { vc := 2 * pktClass (BitVec.toNat (58 : BitVec 6)), op := BitVec.toNat (58 : BitVec 6), p := z3, data := natLe 16 7 } = true) ∧
    (1 ≤ bits (BitVec.toNat z4.opx) 63 60 ∧
    bit (BitVec.toNat z4.opx) 55 = false ∧
    bits (BitVec.toNat z4.opx) 63 60 ≤ 11 ∧
    pktClass (BitVec.toNat (59 : BitVec 6)) = 3 ∧
    bits (BitVec.toNat z4.opx) 59 56 + 1 = bits (BitVec.toNat z4.opx) 63 60 ∧
    BitVec.toNat (59 : BitVec 6) = 59 ∧
    (dS 2).fabric.role = 2 ∧
    BitVec.toNat z4.src = (dS 2).fabric.manager) := 
  ⟨by decide +kernel,
    by decide +kernel,
    by decide +kernel,
    by decide +kernel⟩

/-- States and operands that meet the hypotheses of the clauses of `PortsReset`. -/
theorem witness_PortsReset :
    ((getDie (px { perst := false }) 4).clocks = true ∧
    (getPcie (px { perst := false }) 0).perst = false ∧
    portUsed (px { perst := false }) 0 = true ∧
    halyard (px { perst := false }) = true ∧
    (getPcie (px { perst := false }) 0).up = false ∧
    portUsed z8 0 = true ∧
    (getPcie z8 0).up = true ∧
    halyard z10 = true) ∧
    (served z10 = true ∧
    (getPcie z10 0).up = true ∧
    domainUp z10 = false ∧
    (getVF z10 (vfKey 0 3)).enabled = true ∧
    halyard z8 = true ∧
    served z8 = true ∧
    (getVF z8 (vfKey 0 3)).enabled = true ∧
    domainUp z8 = true) ∧
    ((getVF z8 (vfKey 0 3)).part < 64) := 
  ⟨by decide +kernel,
    by decide +kernel,
    by decide +kernel⟩

/-- States and operands that meet the hypotheses of the clauses of `HostRequests`. -/
theorem witness_HostRequests :
    (answers z11 0 = true ∧
    served z11 = false ∧
    answers hS 0 = true ∧
    served hS = true ∧
    (getVF hS (vfKey 0 3)).enabled = true ∧
    funcWho hS (Func.vf (0 : Fin 2) (4 : Fin 32)) = (0, none) ∧
    running hS = true ∧
    0 < BitVec.toNat (3 : Byte)) ∧
    (funcWho hS (Func.vf (0 : Fin 2) (3 : Fin 32)) = (0, some (Who.vf 5)) ∧
    (answers hS 0 = true ∧ running hS = true ∧ 0 < BitVec.toNat (3 : Byte) ∧ (getPcie hS 0).waiting = [] ∧ ∀ ln ∈ spanLines (BitVec.toNat (1030792151041 : BitVec 40)) (BitVec.toNat (3 : Byte)), (getLine hS ln).lock = none ∧ resvDefers hS ({ who := Who.vf 5, agent := agentPcie 0 } : By).key ln = false) ∧
    (¬∀ (ln : Nat), ln ∈ spanLines (BitVec.toNat (1030792151041 : BitVec 40)) (BitVec.toNat (3 : Byte)) → covered hS (ln * 128) = true) ∧
    (answers hS 0 = true ∧ running hS = true ∧ 0 < BitVec.toNat (3 : Byte) ∧ (getPcie hS 0).waiting = [] ∧ ∀ ln ∈ spanLines (BitVec.toNat (1073741825 : BitVec 40)) (BitVec.toNat (3 : Byte)), (getLine hS ln).lock = none ∧ resvDefers hS ({ who := Who.vf 5, agent := agentPcie 0 } : By).key ln = false) ∧
    (∀ (ln : Nat), ln ∈ spanLines (BitVec.toNat (1073741825 : BitVec 40)) (BitVec.toNat (3 : Byte)) → covered hS (ln * 128) = true) ∧
    rangePass hS (Who.vf 5) false (BitVec.toNat (1073741825 : BitVec 40)) (BitVec.toNat (3 : Byte)) = false ∧
    funcWho hS (Func.pf (0 : Fin 2)) = (0, some Who.sys) ∧
    (answers hS 0 = true ∧ running hS = true ∧ 0 < BitVec.toNat (3 : Byte) ∧ (getPcie hS 0).waiting = [] ∧ ∀ ln ∈ spanLines (BitVec.toNat (805306369 : BitVec 40)) (BitVec.toNat (3 : Byte)), (getLine hS ln).lock = none ∧ resvDefers hS ({ who := Who.sys, agent := agentPcie 0 } : By).key ln = false)) ∧
    ((∀ (ln : Nat), ln ∈ spanLines (BitVec.toNat (805306369 : BitVec 40)) (BitVec.toNat (3 : Byte)) → covered hS (ln * 128) = true) ∧
    rangePass hS Who.sys false (BitVec.toNat (805306369 : BitVec 40)) (BitVec.toNat (3 : Byte)) = true ∧
    (answers hS 0 = true ∧ running hS = true ∧ 0 < [(9 : Byte), (8 : Byte), (7 : Byte)].length ∧ (getPcie hS 0).waiting = [] ∧ ∀ ln ∈ spanLines (BitVec.toNat (805306369 : BitVec 40)) [(9 : Byte), (8 : Byte), (7 : Byte)].length, (getLine hS ln).lock = none ∧ resvDefers hS ({ who := Who.sys, agent := agentPcie 0 } : By).key ln = false) ∧
    (∀ (ln : Nat), ln ∈ spanLines (BitVec.toNat (805306369 : BitVec 40)) [(9 : Byte), (8 : Byte), (7 : Byte)].length → covered hS (ln * 128) = true) ∧
    rangePass hS Who.sys true (BitVec.toNat (805306369 : BitVec 40)) [(9 : Byte), (8 : Byte), (7 : Byte)].length = true ∧
    QuietSpan hS (BitVec.toNat (805306369 : BitVec 40)) [(9 : Byte), (8 : Byte), (7 : Byte)].length ∧
    (answers hS 0 = true ∧ running hS = true ∧ 0 < [(9 : Byte), (8 : Byte), (7 : Byte)].length ∧ (getPcie hS 0).waiting = [] ∧ ∀ ln ∈ spanLines (BitVec.toNat (1073741825 : BitVec 40)) [(9 : Byte), (8 : Byte), (7 : Byte)].length, (getLine hS ln).lock = none ∧ resvDefers hS ({ who := Who.vf 5, agent := agentPcie 0 } : By).key ln = false) ∧
    (∀ (ln : Nat), ln ∈ spanLines (BitVec.toNat (1073741825 : BitVec 40)) [(9 : Byte), (8 : Byte), (7 : Byte)].length → covered hS (ln * 128) = true)) ∧
    (rangePass hS (Who.vf 5) true (BitVec.toNat (1073741825 : BitVec 40)) [(9 : Byte), (8 : Byte), (7 : Byte)].length = false ∧
    (getPcie hS 0).up = true ∧
    (getPcie hS 0).ideLink = 1 ∧
    (2 : Fin 9) ≠ (0 : Fin 9) ∧
    tget (getPcie hS 0).ideSel 2 0 = 1) := 
  ⟨by decide +kernel,
    by decide +kernel,
    by decide +kernel,
    by decide +kernel⟩

/-- A host whose domain is down, and one whose write meets another thread's reservation: hypotheses of `HostRequests`. -/
def hDown : Machine.State := modHomes hS fun h => { h with down := true }
def hResv : Machine.State := modHomes hS fun h => { h with resvs := [{ who := 77, line := 805306369 / 128, window := true }] }

theorem witness_HostRequests_wait :
    (answers hDown 0 = true ∧ domainLost hDown = true ∧ (funcWho hDown (Func.vf (0 : Fin 2) (4 : Fin 32))).1 = 0 ∧
      (getPcie hS 0).waiting = []) ∧
    (funcWho hResv (Func.pf (0 : Fin 2)) = (0, some Who.sys) ∧ answers hResv 0 = true ∧ running hResv = true ∧
      ∃ ln ∈ spanLines 805306369 3, lineDeferred hResv ({ who := Who.sys, agent := agentPcie 0 } : By).key ln = true) :=
  ⟨by decide +kernel, by decide +kernel⟩

/-- A request that has come to its last hop, answered on the way it came (last clause of `DirectedPackets`). -/
theorem witness_DirectedServed :
    (halyard (dS 2) = true ∧ (getPort (dS 2) 2).state = 5 ∧ bit pp.opx.toNat 55 = false ∧ bits pp.opx.toNat 63 60 ≤ 11 ∧
      pktClass 0x38 = 3 ∧ bits pp.opx.toNat 59 56 + 1 = bits pp.opx.toNat 63 60 ∧ (bodyOf body).op = 1) ∧
    serveBody (noteGen (dS 2) (pp.addr.toNat % 2 ^ 32)) (.fabric pp.src (BitVec.ofNat 32 (pp.addr.toNat % 2 ^ 32)) true) (bodyOf body) = sr ∧
    (getPort (dS 2) 2).queue = [] ∧
    portCan (dS 2) 2 { vc := 6, op := 0x3A, p := pp, data := respBytes 1 (bodyOf body).tag.toNat sr.2 } = true :=
  ⟨by decide +kernel, rfl, by decide +kernel, by decide +kernel⟩

/-- A function-level reset of a function in use, the domain up (last clause of `PortsReset`). -/
theorem witness_FunctionResets :
    halyard xs = true ∧ served xs = true ∧ (getPcie xs 0).up = true ∧ domainUp xs = true ∧ tsorted xs.pcie = true ∧
    xs.disp.portMode = 0 ∧ tfind xs.disp.parts 5 = some ({ state := 2, cores := 2, ccores := 2, port := 0 } : Partition) ∧
    (getVF xs (vfKey 0 3)).enabled = true ∧ (getVF xs (vfKey 0 3)).part < 64 := by decide +kernel

end Sys2Proof.Tests.P26

namespace Sys2Proof.Tests.P27

open Sys2Proof Sys2Proof.Machine Sys2Proof.Tests

def mS (n : Nat) : Machine.State := { up with pcie := [(0, {perst := false, up := true})], sec := { up.sec with sessions := [(0, n), (4, n)] } }
def pw (m : Nat) (d : Die → Die) : Machine.State := { up with power := { up.power with mode := m, calm := 3, ceil := 5 }, dies := tmod up.dies 2 {} d }
def rl (x : Rail) : Machine.State := { up with power := { up.power with rails := [(3, x)] } }
def z0 : State := pw 2 fun d => {d with avsPending := some 740, trim := 18}
def z1 : State := pw 1 fun d => {d with avsPending := some 740, trim := 18}
def z2 : State := {pw 1 (fun d => {d with avsPending := some 740, trim := 18, setpoint := wantedSetpoint (pw 1 fun d => {d with trim := 18}) 2}) with power := {up.power with mode := 1}}
def z3 : Fin 5 := ⟨railDie 3, by decide⟩
def z4 : State := rl {ceil := 7, samples := List.replicate 249 1000000}
def z5 : Fin 5 := ⟨railDie 3, by decide⟩
def z6 : State := rl {ceil := 7, calm := 3}
def z7 : Fin 5 := ⟨railDie 3, by decide⟩
def z8 : State := {rl {ceil := 7, calm := 63} with dies := tmod up.dies (railDie 3) {} fun d => {d with stretching := true}}
def z9 : W32 := BitVec.ofNat 32 (railLimit up 3)
def z11 : State := rl {ceil := 7, calm := 63, samples := List.replicate 249 (railLimit up 3)}

/-- States and operands that meet the hypotheses of the clauses of `ManagementAnswers`. -/
theorem witness_ManagementAnswers :
    (halyard (mS 4) = true ∧
    epUp (mS 4) 0 = true ∧
    (9 : Byte) ≠ (0 : Byte) ∧
    (9 : Byte) ≠ (255 : Byte) ∧
    epUp (mS 0) 1 = true ∧
    ((255 : Byte) = (0 : Byte) ∨ (255 : Byte) = (255 : Byte)) ∧
    responderUp (mS 0) (Responder.doePf (0 : Fin 2)) = true ∧
    sessionsOf (mS 0) (Responder.doePf (0 : Fin 2)) < 4) ∧
    (sessionsOf (mS 0) (Responder.doePf (0 : Fin 2)) = 0 ∧
    responderUp (mS 1) (Responder.doePf (0 : Fin 2)) = true ∧
    sessionsOf (mS 1) (Responder.doePf (0 : Fin 2)) ≠ 0 ∧
    responderUp (mS 4) (Responder.doePf (0 : Fin 2)) = true ∧
    sessionsOf (mS 4) (Responder.doePf (0 : Fin 2)) ≠ 0) := 
  ⟨by decide +kernel,
    by decide +kernel⟩

/-- States and operands that meet the hypotheses of the clauses of `PowerModes`. -/
theorem witness_PowerModes :
    (Granted (pw 0 id) Requester.i3c 8448 1 Cls.bmc ∧
    Cls.bmc.trio = true ∧
    BitVec.toNat (2 : Byte) = 2 ∧
    (pw 0 id).power.mode ≠ 2 ∧
    Granted z0 Requester.i3c 8448 1 Cls.bmc ∧
    BitVec.toNat (1 : Byte) < 2 ∧
    z0.power.mode = 2 ∧
    Granted z1 Requester.i3c 8448 1 Cls.bmc) ∧
    (z1.power.mode < 2 ∧
    Granted z2 Requester.i3c 8448 1 Cls.bmc ∧
    2 < BitVec.toNat (3 : Byte) ∧
    (getDie z0 2).avsPending = some 740 ∧
    (getDie z0 2).clocks = true ∧
    (getDie (pw 0 id) 2).clocks = true ∧
    true = true ∧
    (getDie (pw 0 id) 2).trim + 5 ≤ 20) ∧
    (20 < (getDie z0 2).trim + 5 ∧
    (getDie z2 2).clocks = true ∧
    (getDie z2 2).setpoint = wantedSetpoint z2 2 ∧
    halyard (pw 0 id) = true) := 
  ⟨by decide +kernel,
    by decide +kernel,
    by decide +kernel⟩

/-- States and operands that meet the hypotheses of the clauses of `RailsAndDroop`. -/
theorem witness_RailsAndDroop :
    (3 ≠ 23 ∧
    (getDie z4 (railDie 3)).clocks = true ∧
    250 * railLimit z4 3 < railProjected ({ (getRail z4 3) with samples := List.take 250 (BitVec.toNat (4000000 : W32) :: (getRail z4 3).samples) } : Rail) ∧
    (getDie z6 (railDie 3)).clocks = true ∧
    20 * railProjected ({ (getRail z6 3) with samples := List.take 250 (BitVec.toNat (10 : W32) :: (getRail z6 3).samples) } : Rail) < 19 * 250 * railLimit z6 3 ∧
    (getRail z6 3).calm < 63 ∧
    (getDie z8 (railDie 3)).clocks = true ∧
    20 * railProjected ({ (getRail z8 3) with samples := List.take 250 (BitVec.toNat (10 : W32) :: (getRail z8 3).samples) } : Rail) < 19 * 250 * railLimit z8 3) ∧
    (63 ≤ (getRail z8 3).calm ∧
    (getRail z8 3).calm ≤ 64 ∧
    (getDie z11 (railDie 3)).clocks = true ∧
    railProjected ({ (getRail z11 3) with samples := List.take 250 (BitVec.toNat z9 :: (getRail z11 3).samples) } : Rail) ≤ 250 * railLimit z11 3 ∧
    19 * 250 * railLimit z11 3 ≤ 20 * railProjected ({ (getRail z11 3) with samples := List.take 250 (BitVec.toNat z9 :: (getRail z11 3).samples) } : Rail) ∧
    (getDie z4 (↑z3 : Nat)).clocks = true ∧
    (getDie z4 (↑z3 : Nat)).stretching = false ∧
    (getDie z8 (↑z7 : Nat)).stretching = true) ∧
    (3 ∈ dieRails (↑z7 : Nat) ∧
    105 < 110 ∧
    (getDie z6 (↑z5 : Nat)).clocks = true ∧
    110 ≤ 111) := 
  ⟨by decide +kernel,
    by decide +kernel,
    by decide +kernel⟩

end Sys2Proof.Tests.P27

namespace Sys2Proof.Tests.P28

open Sys2Proof Sys2Proof.Machine Sys2Proof.Tests

def mS (n : Nat) : Machine.State := { up with pcie := [(0, {perst := false, up := true})], sec := { up.sec with sessions := [(0, n), (4, n)] } }
def rl (ok : Nat → Bool) (l : Life) : Machine.State := { State.reset with life := l, power := { rails := (List.range 24).map fun r => (r, {valid := ok r}) } }
def cmp (i : Nat) : FwComp := { id := BitVec.ofNat 8 i, svn := 63, res0 := false, offset := BitVec.ofNat 32 (65536 * i), length := 4096, entry := 0, restart := 0, digest := List.replicate 48 0, matched := true }
def slot : FwSlot := { readable := true, magic := 0x5A564D46, format := 1, ncomp := 5, res0 := false, version := 7, svn := 63, signer := some 1, signed := true, comps := [1,2,3,4,5].map cmp, manifest := [1,2], monitor := [] }
def bS : Machine.State := { up with life := .starting, sec := {up.sec with boot := 0, minimums := [0,0,0,0,0,0]} }
def z0 : State := rl (fun r => r ≠ 3) .unpowered
def z1 : State := rl (fun r => r ≠ 3 && r ≠ 7) .unpowered
def z3 : FwSlot := {slot with version := 6}
def z4 : FwSlot := {slot with version := 9}
def z5 : FwSlot := {slot with magic := 0}
def z6 : FwSlot := {slot with comps := (slot.comps.map fun c => {c with matched := false})}
def z9 : State := {up with sec := {up.sec with minimums := [0,0,0,0,0,0], svn := 4, signer := 1}}
def z10 : State := {up with sec := {up.sec with minimums := [0,0,0,0,0,0], svn := 4, signer := 1, compSvn := [7,7,7,7,7]}}

/-- States and operands that meet the hypotheses of the clauses of `ManagementAnswers`. -/
theorem witness_ManagementAnswers2 :
    responderUp (mS 4) (Responder.doePf (0 : Fin 2)) = true ∧
    4 ≤ sessionsOf (mS 4) (Responder.doePf (0 : Fin 2)) := by decide +kernel

/-- States and operands that meet the hypotheses of the clauses of `SuppliesComeAndGo`. -/
theorem witness_SuppliesComeAndGo :
    z0.life = Life.unpowered ∧
    (∀ (m : Nat), m < 24 → m ≠ 3 → (getRail z0 m).valid = true) ∧
    z1.life = Life.unpowered ∧
    (∃ m, m < 24 ∧ m ≠ 3 ∧ (getRail z1 m).valid = false) := by decide +kernel

/-- A signed manifest of SVN 63 meets every fused minimum. -/
theorem fault_slot : manifestFault bS slot = 0 := by
  have h : ∀ i, ¬ 63 < Config.fusedSvn i % 64 := fun i => Nat.not_lt.2 (Nat.lt_succ_iff.1 (Nat.mod_lt _ (by decide)))
  have r : State.reset.sec.revoked.testBit 1 = false := rfl
  simp [manifestFault, minSvn, bS, slot, cmp, up, compBad, idsOnce, bit, nth, h, r]

theorem fault_slot9 : manifestFault bS z4 = 0 := fault_slot

theorem fault_unmatched : slotFaultCode bS z6 ≠ 0 := by
  have h : compsGood z6 = false := by decide +kernel
  simp only [slotFaultCode, h]
  split
  · assumption
  · decide

/-- States and operands that meet the hypotheses of the clauses of `BootAndUpdate`. -/
theorem witness_BootAndUpdate :
    (halyard bS = true ∧
    bS.life = Life.starting ∧
    bS.sec.boot = 0 ∧
    compsGood slot = true ∧
    compsGood z4 = true ∧
    slotFaultCode bS z5 ≠ 0 ∧
    domainUp bS = true ∧
    Granted z9 Requester.i3c 32784 2 Cls.bmc) ∧
    (Cls.bmc.isBmc = true ∧
    BitVec.toNat (2 : Byte) ≤ 5 ∧
    z9.sec.minimums.length = 6 ∧
    Granted z9 Requester.i3c 32784 3 Cls.bmc ∧
    BitVec.toNat (3 : Byte) ≤ 3 ∧
    BitVec.toNat (3 : Byte) ≠ z9.sec.signer ∧
    z9.sec.revoked.lor (2 ^ BitVec.toNat (3 : Byte)) ≠ 15 ∧
    Granted z10 Requester.i3c 32784 3 Cls.bmc) ∧
    ((BitVec.toNat (1 : Byte) = z10.sec.signer ∨ z10.sec.revoked.lor (2 ^ BitVec.toNat (1 : Byte)) = 15) ∧
    Granted z9 Requester.i3c 32800 1 Cls.bmc ∧
    Cls.bmc.local2 = true ∧
    windowPort Requester.i3c = none ∧
    (z9.sec.update ≠ 1 ∧ z9.sec.update ≠ 2 ∨ z9.sec.binding = some (transport Requester.i3c)) ∧
    BitVec.toNat (0 : W64) % 1024 = 0 ∧
    [(1 : Byte)] ≠ [] ∧
    [(1 : Byte)].length ≤ 1024) ∧
    (BitVec.toNat (0 : W64) + [(1 : Byte)].length ≤ 2 ^ 25 ∧
    Granted z9 Requester.i3c 32800 2 Cls.bmc) ∧
    manifestFault bS slot = 0 ∧
    (manifestFault bS z3 ≠ 0 ∨ BitVec.toNat z3.version < BitVec.toNat slot.version) ∧
    manifestFault bS z4 = 0 ∧
    (manifestFault bS slot ≠ 0 ∨ BitVec.toNat slot.version < BitVec.toNat z4.version) ∧
    slotFaultCode bS z6 ≠ 0 := 
  ⟨by decide +kernel,
    by decide +kernel,
    by decide +kernel,
    by decide +kernel,
    fault_slot,
    .inr (by decide +kernel),
    fault_slot9,
    .inr (by decide +kernel),
    fault_unmatched⟩

end Sys2Proof.Tests.P28
end

section
/-! Results of the integer, immediate, long-form, compare and predicate instructions (tables "ZIS mnemonics" and "Major
opcode map", R33, R36). Three parts: the model's operations on words as arithmetic on the numbers they hold; what an
instruction that writes one register lane by lane comes to; and the instructions themselves. -/

namespace Sys2Proof.Machine

/-! ## Operations on words as arithmetic -/

theorem add_eq_ofNat (a b : W64) : a + b = BitVec.ofNat 64 (a.toNat + b.toNat) := by
  rw [BitVec.ofNat_add, BitVec.ofNat_toNat, BitVec.ofNat_toNat, BitVec.setWidth_eq, BitVec.setWidth_eq]

theorem add_eq_ofInt (a b : W64) : a + b = BitVec.ofInt 64 (a.toInt + b.toInt) := by
  rw [BitVec.ofInt_add, BitVec.ofInt_toInt, BitVec.ofInt_toInt]

theorem sub_eq_ofInt (a b : W64) : a - b = BitVec.ofInt 64 ((a.toNat : Int) - b.toNat) := by
  apply BitVec.eq_of_toInt_eq
  rw [BitVec.toInt_ofInt, BitVec.toInt_sub, BitVec.toInt_eq_toNat_bmod, BitVec.toInt_eq_toNat_bmod, Int.bmod_sub_bmod,
    Int.sub_bmod_bmod]

theorem mul_eq_ofNat (a b : W64) : a * b = BitVec.ofNat 64 (a.toNat * b.toNat) := by
  rw [BitVec.ofNat_mul, BitVec.ofNat_toNat, BitVec.ofNat_toNat, BitVec.setWidth_eq, BitVec.setWidth_eq]

theorem shiftLeft_eq_ofNat (a : W64) (n : Nat) : a <<< n = BitVec.ofNat 64 (a.toNat * 2 ^ n) := by
  apply BitVec.eq_of_toNat_eq
  rw [BitVec.toNat_shiftLeft, BitVec.toNat_ofNat, Nat.shiftLeft_eq]

theorem ushiftRight_eq_ofNat (a : W64) (n : Nat) : a >>> n = BitVec.ofNat 64 (a.toNat / 2 ^ n) := by
  rw [← Nat.shiftRight_eq_div_pow, ← BitVec.toNat_ushiftRight, BitVec.ofNat_toNat, BitVec.setWidth_eq]

theorem sshiftRight_eq_ofInt (a : W64) (n : Nat) : a.sshiftRight n = BitVec.ofInt 64 (a.toInt / 2 ^ n) := by
  apply BitVec.eq_of_toInt_eq
  have floor : (a.sshiftRight n).toInt = a.toInt / 2 ^ n :=
    BitVec.toInt_sshiftRight.trans ((Int.shiftRight_eq_div_pow _ n).trans (congrArg (a.toInt / ·) (Int.natCast_pow 2 n)))
  rw [← floor, BitVec.ofInt_toInt]

/-- R36: the quotient of the most negative value by −1 wraps to itself, as `BitVec.ofInt` takes it. -/
theorem divS_eq (a b : W64) :
    divS a b = if b = 0 then BitVec.allOnes 64 else BitVec.ofInt 64 (a.toInt.tdiv b.toInt) := by
  have wraps : a.sdiv b = BitVec.ofInt 64 (a.toInt.tdiv b.toInt) := by
    apply BitVec.eq_of_toInt_eq
    rw [BitVec.toInt_sdiv, BitVec.toInt_ofInt]
  rw [divS, wraps]

theorem divU_eq (a b : W64) :
    divU a b = if b = 0 then BitVec.allOnes 64 else BitVec.ofNat 64 (a.toNat / b.toNat) := by
  rw [divU, ← BitVec.toNat_udiv, BitVec.ofNat_toNat, BitVec.setWidth_eq]

theorem remS_eq (a b : W64) : remS a b = if b = 0 then a else BitVec.ofInt 64 (a.toInt.tmod b.toInt) := by
  rw [remS, ← BitVec.toInt_srem, BitVec.ofInt_toInt]

theorem remU_eq (a b : W64) : remU a b = if b = 0 then a else BitVec.ofNat 64 (a.toNat % b.toNat) := by
  rw [remU, ← BitVec.toNat_umod, BitVec.ofNat_toNat, BitVec.setWidth_eq]

theorem minS_eq_ofInt (a b : W64) : minS a b = BitVec.ofInt 64 (min a.toInt b.toInt) := by
  rw [minS, Int.min_def, apply_ite (BitVec.ofInt 64), BitVec.ofInt_toInt, BitVec.ofInt_toInt]

theorem maxS_eq_ofInt (a b : W64) : maxS a b = BitVec.ofInt 64 (max a.toInt b.toInt) := by
  rw [maxS, Int.max_def, apply_ite (BitVec.ofInt 64), BitVec.ofInt_toInt, BitVec.ofInt_toInt]

theorem minU_eq_ofNat (a b : W64) : minU a b = BitVec.ofNat 64 (min a.toNat b.toNat) := by
  rw [minU, Nat.min_def, apply_ite (BitVec.ofNat 64), BitVec.ofNat_toNat, BitVec.ofNat_toNat, BitVec.setWidth_eq,
    BitVec.setWidth_eq]

theorem maxU_eq_ofNat (a b : W64) : maxU a b = BitVec.ofNat 64 (max a.toNat b.toNat) := by
  rw [maxU, Nat.max_def, apply_ite (BitVec.ofNat 64), BitVec.ofNat_toNat, BitVec.ofNat_toNat, BitVec.setWidth_eq,
    BitVec.setWidth_eq]

/-- The library's count of leading zeros puts a nonzero word between two powers of two, which fixes its logarithm. -/
theorem clz64_eq_clz (a : W64) : clz64 a = a.clz := by
  rw [clz64]
  split
  · next h => exact (BitVec.clz_eq_iff_eq_zero.2 h).symm
  · next h =>
    have lt : a.clz.toNat < 64 := by simpa [BitVec.lt_def] using BitVec.clz_lt_iff_ne_zero.2 h
    have lo : 2 ^ (63 - a.clz.toNat) ≤ a.toNat := BitVec.two_pow_sub_clz_le_toNat_of_ne_zero (by decide) h
    have hi : a.toNat < 2 ^ (63 - a.clz.toNat + 1) := by
      rw [show 63 - a.clz.toNat + 1 = 64 - a.clz.toNat by omega]
      exact BitVec.toNat_lt_two_pow_sub_clz
    have log : a.toNat.log2 = 63 - a.clz.toNat := (Nat.log2_eq_iff (by bv_omega)).2 ⟨lo, hi⟩
    rw [log, show 63 - (63 - a.clz.toNat) = a.clz.toNat by omega, BitVec.ofNat_toNat, BitVec.setWidth_eq]

theorem popN_eq_length_filter (n v : Nat) : popN n v = ((List.range n).filter v.testBit).length := by
  induction n generalizing v with
  | zero => rfl
  | succ n ih =>
    have tail : v.testBit ∘ Nat.succ = (v / 2).testBit := funext (Nat.testBit_succ v)
    rw [popN, ih, List.range_succ_eq_map, List.filter_cons, List.filter_map, tail, Nat.testBit_zero]
    rcases Nat.mod_two_eq_zero_or_one v with h | h <;> simp [h, Nat.add_comm]

theorem popc64_eq_ofNat (a : W64) :
    popc64 a = BitVec.ofNat 64 ((List.range 64).filter fun i => a.getLsbD i).length :=
  congrArg (BitVec.ofNat 64) (popN_eq_length_filter 64 a.toNat)

theorem append_setWidth_eq_ofNat (hi : W32) (a : W64) :
    hi ++ a.setWidth 32 = BitVec.ofNat 64 (hi.toNat * 2 ^ 32 + a.toNat % 2 ^ 32) := by
  rw [← BitVec.toNat_setWidth, ← Nat.shiftLeft_eq, Nat.shiftLeft_add_eq_or_of_lt (BitVec.isLt _), ← BitVec.toNat_append,
    BitVec.ofNat_toNat, BitVec.setWidth_eq]

theorem signExtend_eq_ofInt {w : Nat} (v : BitVec w) (h : w ≤ 64) : v.signExtend 64 = BitVec.ofInt 64 v.toInt := by
  rw [← BitVec.toInt_signExtend_of_le h, BitVec.ofInt_toInt]

theorem add_signExtend_eq_ofInt {w : Nat} (a : W64) (v : BitVec w) (h : w ≤ 64) :
    a + v.signExtend 64 = BitVec.ofInt 64 (a.toInt + v.toInt) := by
  rw [add_eq_ofInt, BitVec.toInt_signExtend_of_le h]

theorem zimm_eq_ofNat (f : IF) : zimm f = BitVec.ofNat 64 f.imm.toNat := (BitVec.ofNat_toNat 64 f.imm).symm

theorem cmpCond_eq (cond : BitVec 3) (a b : W64) : cmpCond cond a b =
    if cond.toNat = 0 then a == b else if cond.toNat = 1 then a != b else if cond.toNat = 2 then decide (a.toInt < b.toInt)
    else if cond.toNat = 3 then decide (a.toInt ≥ b.toInt) else if cond.toNat = 4 then decide (a.toNat < b.toNat)
    else decide (a.toNat ≥ b.toNat) := by
  unfold cmpCond
  split <;> simp_all

theorem plogOp_eq (op : BitVec 3) (a b : Bool) : plogOp op a b =
    if op = 0 then a && b else if op = 1 then a || b else if op = 2 then xor a b else a && !b := by
  unfold plogOp
  split <;> simp_all [BitVec.toNat_eq]

/-! ## Instructions that write one register of each running lane whose guard is true -/

theorem rdG_wrG_other_lane (t : Threads) {k l : Nat} (gd r : BitVec 6) (v : W64) (h : k ≠ l) :
    rdG (wrG t k gd.toNat v) l r.toNat = rdG t l r.toNat := by
  rw [rdG_wrG t k _ v l _ gd.isLt r.isLt, if_neg fun e => h e.1.symm]

theorem rdP_wrP_other_lane (t : Threads) {k l : Nat} (p q : Nat) (v : Bool) (h : k ≠ l) (hk : k < 32) (hl : l < 32) :
    rdP (wrP t k p v) l q = rdP t l q := by
  rw [rdP_wrP t k p v l q hk hl, if_neg fun e => h e.1.symm]

/-- Register 0 is left out by the number of the register written or of the one read: where the two agree, it is the same. -/
theorem and_eq_and_ne_zero_iff (P : Prop) (r d : Nat) : (P ∧ r = d ∧ d ≠ 0) ↔ (P ∧ r = d ∧ r ≠ 0) :=
  and_congr_right fun _ => and_congr_right fun h => by rw [h]

section
variable {i : Instr} {x : Issuer} {s : State} {c : Iss} {len : Nat} {guard : BitVec 4}

/-- A general register written lane by lane with values that each lane reads from its own registers. -/
theorem done_of_wrG {gd : BitVec 6} {val : Threads → Nat → W64}
    (hexec : exec i s = issueRegs i x len guard (fun t l => wrG t l gd.toNat (val t l)) s)
    (own : ∀ t k l w, k ≠ l → val (wrG t k gd.toNat w) l = val t l) (hi : Issues s i x c) :
    Done i s x c len fun th => SameButGpr c.th th ∧ Writes c.th th (active c guard) gd.toNat (val c.th) := by
  obtain ⟨hiss, hfetch, hdec⟩ := hi
  refine ⟨_, hexec.trans (issueRegs_body len guard _ hiss hfetch hdec), ?frame, ?value⟩
  case frame =>
    exact eachLane_keeps (P := SameButGpr c.th) _ _ (fun t l h => by simpa only [SameButGpr, wrG_pred, wrG_tile, wrG_fcsr] using h)
      ⟨rfl, rfl, rfl⟩
  case value =>
    intro l r _ hr
    rw [rdG_eachLane _ gd.isLt val own _ (nodup_active c guard) _ _ _ hr]
    exact ite_congr (propext (and_eq_and_ne_zero_iff _ _ _)) (fun _ => rfl) fun _ => rfl

/-- A predicate written lane by lane with values that each lane reads from its own registers. -/
theorem done_of_wrP {pd : BitVec 3} {val : Threads → Nat → Bool}
    (hexec : exec i s = issueRegs i x len guard (fun t l => wrP t l pd.toNat (val t l)) s)
    (own : ∀ t k l w, k ≠ l → l < 32 → k < 32 → val (wrP t k pd.toNat w) l = val t l) (hi : Issues s i x c) :
    Done i s x c len fun th => th.gpr = c.th.gpr ∧ th.tile = c.th.tile ∧ th.fcsr = c.th.fcsr ∧
      ∀ l p, l < 32 → rdP th l p = if l ∈ active c guard ∧ p = pd.toNat ∧ p ≠ 0 then val c.th l else rdP c.th l p := by
  obtain ⟨hiss, hfetch, hdec⟩ := hi
  obtain ⟨hgpr, htile, hfcsr⟩ := eachLane_keeps (P := fun u => u.gpr = c.th.gpr ∧ u.tile = c.th.tile ∧ u.fcsr = c.th.fcsr)
    (f := fun t l => wrP t l pd.toNat (val t l)) (active c guard) c.th
    (fun t l h => by simpa only [wrP_gpr, wrP_tile, wrP_fcsr] using h) ⟨rfl, rfl, rfl⟩
  refine ⟨_, hexec.trans (issueRegs_body len guard _ hiss hfetch hdec), hgpr, htile, hfcsr, fun l p hl => ?_⟩
  rw [rdP_eachLane _ val own _ (nodup_active c guard) (active_lt c guard) _ _ _ hl]
  exact ite_congr (propext (and_eq_and_ne_zero_iff _ _ _)) (fun _ => rfl) fun _ => rfl

theorem done_of_issueR {f : RF} {op spec : W64 → W64 → W64} (hexec : exec i s = issueR i x f op s)
    (hop : ∀ a b, op a b = spec a b) (hi : Issues s i x c) :
    Done i s x c 4 fun th => SameButGpr c.th th ∧ Writes c.th th (active c f.guard) f.gd.toNat
      fun l => spec (rdG c.th l f.ga.toNat) (rdG c.th l f.gb.toNat) := by
  obtain rfl : op = spec := funext fun a => funext (hop a)
  exact done_of_wrG hexec (fun t k l w h => by simp only [rdG_wrG_other_lane t _ _ w h]) hi

theorem done_of_issueI {gd ga : BitVec 6} {op : W64 → W64} {v : Nat → W64}
    (hexec : exec i s = issueI i x guard gd ga len op s) (hv : ∀ l, op (rdG c.th l ga.toNat) = v l) (hi : Issues s i x c) :
    Done i s x c len fun th => SameButGpr c.th th ∧ Writes c.th th (active c guard) gd.toNat v := by
  obtain rfl : (fun l => op (rdG c.th l ga.toNat)) = v := funext hv
  exact done_of_wrG hexec (fun t k l w h => by simp only [rdG_wrG_other_lane t _ _ w h]) hi

end

/-! ## The instructions -/

/-- Settles O2: each instruction is one of the three register-writing forms (format R, one source and a value, a predicate)
with an operation of the model, and that operation is the arithmetic the statement names. -/
theorem integerResults : Obligations.IntegerResults := by
  refine ⟨?formatR, ?immediates, ?predicates⟩
  case formatR =>
    intro x f s c R
    have rule {i : Instr} (op : W64 → W64 → W64) {spec : W64 → W64 → W64} (hexec : exec i s = issueR i x f op s)
        (hop : ∀ a b, op a b = spec a b) : R i spec := done_of_issueR hexec hop
    clear_value R
    exact ⟨rule (fun a b => a + b) rfl add_eq_ofNat,
      rule (fun a b => a - b) rfl sub_eq_ofInt,
      rule (fun a b => a &&& b) rfl fun _ _ => rfl,
      rule (fun a b => a ||| b) rfl fun _ _ => rfl,
      rule (fun a b => a ^^^ b) rfl fun _ _ => rfl,
      rule shiftL rfl fun a b => shiftLeft_eq_ofNat a (b.toNat % 64),
      rule shiftRL rfl fun a b => ushiftRight_eq_ofNat a (b.toNat % 64),
      rule shiftRA rfl fun a b => sshiftRight_eq_ofInt a (b.toNat % 64),
      rule (fun a b => a * b) rfl mul_eq_ofNat,
      rule mulHigh rfl fun _ _ => rfl,
      rule mulHighU rfl fun _ _ => rfl,
      rule divS rfl divS_eq, rule divU rfl divU_eq, rule remS rfl remS_eq, rule remU rfl remU_eq,
      rule minS rfl minS_eq_ofInt, rule maxS rfl maxS_eq_ofInt, rule minU rfl minU_eq_ofNat, rule maxU rfl maxU_eq_ofNat,
      rule (fun a _ => clz64 a) rfl fun a _ => clz64_eq_clz a,
      rule (fun a _ => popc64 a) rfl fun a _ => popc64_eq_ofNat a⟩
  case immediates =>
    intro x s c R
    have rule {i : Instr} {guard : BitVec 4} {gd ga : BitVec 6} {len : Nat} (op : W64 → W64) {v : Nat → W64}
        (hexec : exec i s = issueI i x guard gd ga len op s) (hv : ∀ l, op (rdG c.th l ga.toNat) = v l) :
        R i guard gd len v := done_of_issueI hexec hv
    clear_value R
    refine ⟨fun f => ⟨?addi, ?andi, ?ori, ?xori⟩, fun f => ⟨?slli, ?srli, ?srai⟩, fun f => ⟨?movl, ?movh, ?addl, ?orl⟩⟩
    case addi => exact rule (fun a => a + simm f) rfl fun l => add_signExtend_eq_ofInt _ f.imm (by decide)
    case andi => exact rule (fun a => a &&& zimm f) rfl fun l => by rw [zimm_eq_ofNat]
    case ori => exact rule (fun a => a ||| zimm f) rfl fun l => by rw [zimm_eq_ofNat]
    case xori => exact rule (fun a => a ^^^ zimm f) rfl fun l => by rw [zimm_eq_ofNat]
    case slli => exact rule (fun a => a <<< f.amount.toNat) rfl fun l => shiftLeft_eq_ofNat _ _
    case srli => exact rule (fun a => a >>> f.amount.toNat) rfl fun l => ushiftRight_eq_ofNat _ _
    case srai => exact rule (fun a => a.sshiftRight f.amount.toNat) rfl fun l => sshiftRight_eq_ofInt _ _
    case movl => exact rule (ga := 0) (fun _ => f.imm.signExtend 64) rfl fun l => signExtend_eq_ofInt f.imm (by decide)
    case movh => exact rule (fun a => f.imm ++ a.setWidth 32) rfl fun l => append_setWidth_eq_ofNat f.imm _
    case addl => exact rule (fun a => a + f.imm.signExtend 64) rfl fun l => add_signExtend_eq_ofInt _ f.imm (by decide)
    case orl => exact rule (fun a => a ||| f.imm.setWidth 64) rfl fun l => by rw [BitVec.ofNat_toNat]
  case predicates =>
    intro x s c R cmp
    have rule {i : Instr} {guard : BitVec 4} {pd : BitVec 3} (val : Threads → Nat → Bool) {v : Nat → Bool}
        (hexec : exec i s = issueRegs i x 4 guard (fun t l => wrP t l pd.toNat (val t l)) s)
        (own : ∀ t k l w, k ≠ l → l < 32 → k < 32 → val (wrP t k pd.toNat w) l = val t l)
        (hv : ∀ l, val c.th l = v l) : R i guard pd v := funext hv ▸ done_of_wrP hexec own
    clear_value R
    refine ⟨fun f => ?cmp, fun f => ?cmpi, fun f => ?plog⟩
    case cmp =>
      exact rule (fun t l => cmpCond f.cond (rdG t l f.ga.toNat) (rdG t l f.gb.toNat)) rfl
        (fun t k l w _ _ _ => by simp only [rdG_wrP]) fun l => cmpCond_eq _ _ _
    case cmpi =>
      exact rule (fun t l => cmpCond f.cond (rdG t l f.ga.toNat) (f.imm.signExtend 64)) rfl
        (fun t k l w _ _ _ => by simp only [rdG_wrP]) fun l => by rw [cmpCond_eq, signExtend_eq_ofInt f.imm (by decide)]
    case plog =>
      exact rule (fun t l => plogOp f.op (rdP t l f.pa.toNat) (rdP t l f.pb.toNat)) rfl
        (fun t k l w h hl hk => by simp only [rdP_wrP_other_lane t _ _ w h hk hl]) fun l => plogOp_eq _ _ _

end Sys2Proof.Machine
end

section
/-! The instructions that see other lanes: SHFL and BALLOT (R39, R432). Two parts: lane masks and the ballot's bits; the
registers written from values that are all read before the first write. -/

namespace Sys2Proof.Machine

/-! ## Lane masks -/

theorem testBit_maskOf (ls : List Nat) (k : Nat) : (maskOf ls).testBit k = true ↔ k ∈ ls := by
  induction ls with
  | nil => simp [maskOf]
  | cons l ls ih =>
    have split_or : (maskOf (l :: ls)).testBit k = ((2 ^ l).testBit k || (maskOf ls).testBit k) := Nat.testBit_or ..
    rw [split_or, Bool.or_eq_true, ih, Nat.testBit_two_pow, decide_eq_true_iff, List.mem_cons, eq_comm]

theorem getLsbD_laneMask (ls : List Nat) {k : Nat} (hk : k < 32) : (laneMask ls).getLsbD k = true ↔ k ∈ ls := by
  rw [laneMask, BitVec.getLsbD_ofNat, decide_eq_true hk, Bool.true_and, testBit_maskOf]

theorem getLsbD_ballotMask (c : Iss) (guard : BitVec 4) (pa : Nat) {k : Nat} (hk : k < 32) :
    (ballotMask c guard pa).getLsbD k = true ↔ k ∈ active c guard ∧ rdP c.th k pa = true := by
  rw [ballotMask, getLsbD_laneMask _ hk, List.mem_filter]

/-! ## What a passed decode check says of the encoding -/

theorem zisLegal_of_decodeCause_eq_none {s : State} {c : Iss} {i : Instr} (h : decodeCause s c i = none) :
    zisLegal i = true := by
  cases legal : zisLegal i with
  | true => rfl
  | false => simp [decodeCause, legal] at h

/-- gb[5:3] of a legal BALLOT is 0, so that the field is the predicate's number (table "ZIS mnemonics"). -/
theorem ballot_predicate_lt {x : Issuer} {f : RF} (h : zisLegal (.ballot x f) = true) : f.gb.toNat < 8 :=
  of_decide_eq_true (Bool.and_eq_true_iff.1 h).2

/-! ## Registers written from the values before any write -/

/-- Each lane's value is fixed by the registers at issue, so no lane sees another's write: unlike `done_of_wrG`, a lane may
read registers of other lanes. -/
theorem done_of_wrG_at_issue {i : Instr} {x : Issuer} {s : State} {c : Iss} {len : Nat} {guard : BitVec 4} {gd : BitVec 6}
    {val : Iss → Nat → W64}
    (hexec : exec i s = issue i x len
      (fun s c => .go (setTh s x (eachLane c.th (active c guard) fun t l => wrG t l gd.toNat (val c l)))) s)
    (hi : Issues s i x c) :
    Done i s x c len fun th => SameButGpr c.th th ∧ Writes c.th th (active c guard) gd.toNat (val c) := by
  have ⟨hiss, hfetch, hdec⟩ := hi
  have fixed : exec i s = issueRegs i x len guard (fun t l => wrG t l gd.toNat (val c l)) s :=
    hexec.trans ((issue_body len _ hiss hfetch hdec).trans (issueRegs_body len guard _ hiss hfetch hdec).symm)
  exact done_of_wrG (val := fun _ => val c) fixed (fun _ _ _ _ _ => rfl) hi

/-- Settles O14: both instructions write values fixed by the registers at issue; a legal BALLOT names its predicate by the
whole field, and the mask it writes holds just the lanes the statement counts. -/
theorem lanesSeeLanes : Obligations.LanesSeeLanes := by
  intro d k slot f s c x
  refine ⟨fun hi => ?shfl, fun hi => ?ballot⟩
  case shfl =>
    exact done_of_wrG_at_issue
      (val := fun c l => rdG c.th ((rdG c.th l f.gb.toNat).toNat % 32) f.ga.toNat) rfl hi
  case ballot =>
    have ⟨_, _, hdec⟩ := hi
    have field : f.gb.toNat % 8 = f.gb.toNat :=
      Nat.mod_eq_of_lt (ballot_predicate_lt (zisLegal_of_decodeCause_eq_none hdec))
    obtain ⟨th, hexec, frame, writes⟩ := done_of_wrG_at_issue
      (val := fun c _ => (ballotMask c f.guard (f.gb.toNat % 8)).setWidth 64) rfl hi
    rw [field] at writes
    exact ⟨th, hexec, frame, ballotMask c f.guard f.gb.toNat, fun i hlt => getLsbD_ballotMask c f.guard _ hlt, writes⟩

end Sys2Proof.Machine
end

section
/-! Fabric roles (R257, R265, R271, R272, R276): heartbeats, the take-over of a standby, claims and port events. First what
the operations they share can do (noting a generation, messages to the devices of a job, the manager's query of open
commits), then one equation per command. -/

namespace Sys2Proof.Machine

/-! ## Generations heard -/

/-- The role of a device that hears a manager of generation `gen`; an unassigned device takes no notice (R258, R272). -/
def roleHearing (f : Fabric) (gen : Nat) : Nat := if f.device ≠ 0xFFFF ∧ f.role = 1 ∧ f.gen < gen then 2 else f.role

theorem roleHearing_of_unassigned {f : Fabric} (gen : Nat) (h : f.device = 0xFFFF) : roleHearing f gen = f.role :=
  if_neg fun hears => hears.1 h

theorem modFabric_eq_self {s : State} {g : Fabric → Fabric} (h : g s.fabric = s.fabric) : modFabric s g = s := by
  rw [modFabric, h]

theorem noteGen_eq {s : State} (gen : Nat) (hdev : s.fabric.device ≠ 0xFFFF) :
    noteGen s gen = modFabric s fun f => { f with role := roleHearing f gen } := by
  by_cases h : s.fabric.role = 1 ∧ s.fabric.gen < gen <;> simp [noteGen, roleHearing, modFabric, hdev, h]

/-! ## The query of a manager that takes over (R289) -/

/-- Only the epochs' records changed, and messages were sent. -/
def OnlyAsked (s t : State) : Prop := ∃ e os, t = { s with epochs := e, outbox := s.outbox ++ os }

theorem OnlyAsked.refl (s : State) : OnlyAsked s s := ⟨s.epochs, [], by simp⟩

theorem OnlyAsked.emit {s t : State} (h : OnlyAsked s t) (o : Out) : OnlyAsked s (emit t o) := by
  obtain ⟨e, os, rfl⟩ := h
  exact ⟨e, os ++ [o], by simp [Machine.emit]⟩

theorem OnlyAsked.putCoord {s t : State} (h : OnlyAsked s t) (c : Coord) : OnlyAsked s (putCoord t c) := by
  obtain ⟨e, os, rfl⟩ := h
  exact ⟨_, os, rfl⟩

theorem OnlyAsked.toJob {s t : State} (h : OnlyAsked s t) (job kind epoch : Nat) : OnlyAsked s (toJob t job kind epoch) :=
  each_keeps (P := OnlyAsked s) _ t h fun _ hu _ _ => hu.emit _

theorem onlyAsked_queryJobs (s : State) : OnlyAsked s (queryJobs s) :=
  each_keeps (P := OnlyAsked s) _ s (.refl s) fun _ hu _ _ => (hu.putCoord _).toJob _ _ _

/-! ## Heartbeats -/

theorem exec_heartbeat {s : State} (src : W16) (gen : W32) (hrun : halyard s = true) :
    exec (.heartbeat src gen) s = .next (modFabric s fun f => { f with
      role := roleHearing f gen.toNat
      lastBeat := if f.device ≠ 0xFFFF ∧ roleHearing f gen.toNat = 2 ∧ src.toNat = f.manager then sparTimer s
        else f.lastBeat }) := by
  have run : exec (.heartbeat src gen) s = execHeartbeat src gen s := rfl
  rw [run, execHeartbeat, hrun]
  by_cases hdev : s.fabric.device = 0xFFFF
  · rw [modFabric_eq_self (by rw [roleHearing_of_unassigned _ hdev, if_neg fun beat => beat.1 hdev])]
    simp [hdev]
  · rw [noteGen_eq _ hdev]
    by_cases hrole : roleHearing s.fabric gen.toNat = 2
    · by_cases hsrc : src.toNat = s.fabric.manager <;> simp [hdev, hrole, hsrc, modFabric, sparTimer, getDie]
    · simp [hdev, hrole, modFabric]

/-- A standby that takes over: manager of the next generation. -/
def takenOver (s : State) : State :=
  modFabric s fun f => { f with role := 1, gen := (f.gen + 1) % 2 ^ 32, manager := f.device }

theorem exec_heartbeatTimeout {s : State} (hrun : halyard s = true) (hrole : s.fabric.role = 2) :
    exec .heartbeatTimeout s = .next (queryJobs (emit (takenOver s) (.claim ((s.fabric.gen + 1) % 2 ^ 32)))) := by
  have run : exec .heartbeatTimeout s = execHeartbeatTimeout s := rfl
  simp [run, execHeartbeatTimeout, hrun, hrole, takenOver, modFabric]

/-! ## Claims -/

/-- A claim this device accepts: it has an identifier, the sender is its standby, and the generation is higher. -/
def Accepts (s : State) (src : W16) (gen : W32) : Prop :=
  s.fabric.device ≠ 0xFFFF ∧ src.toNat = s.fabric.standby ∧ s.fabric.gen < gen.toNat

/-- What a device does with a claim before it answers: nothing where it is unassigned (R258). -/
def judged (s : State) (src : W16) (gen : W32) : State × Bool :=
  if s.fabric.device = 0xFFFF then (s, false) else claim s src.toNat gen.toNat

theorem judged_of_accepts {s : State} {src : W16} {gen : W32} (h : Accepts s src gen) :
    judged s src gen = (modFabric s fun f => { f with
      role := roleHearing f gen.toNat, manager := src.toNat, gen := gen.toNat }, true) := by
  obtain ⟨hdev, hsrc, hgen⟩ := h
  simp [judged, claim, noteGen_eq _ hdev, hdev, hsrc, hgen, modFabric]

theorem judged_of_not_accepts {s : State} {src : W16} {gen : W32} (h : ¬ Accepts s src gen) :
    judged s src gen = (modFabric s fun f => { f with role := roleHearing f gen.toNat }, false) := by
  by_cases hdev : s.fabric.device = 0xFFFF
  · rw [judged, if_pos hdev, modFabric_eq_self (by rw [roleHearing_of_unassigned _ hdev])]
  · have hnot : ¬ (src.toNat = s.fabric.standby ∧ s.fabric.gen < gen.toNat) := fun hs => h ⟨hdev, hs⟩
    simp [judged, claim, noteGen_eq _ hdev, hdev, ← Bool.decide_and, hnot]

/-- The answer carries the status of the judgement and the manager in force after it. -/
theorem exec_claim {s t : State} {src : W16} {gen : W32} {good : Bool} (hrun : halyard s = true)
    (h : judged s src gen = (t, good)) : Answers (.claim src gen) s fun u => u.fabric = t.fabric ∧
      ∃ op tag, u.outbox = t.outbox ++ [.dict (.fabric src gen false) op tag 0x5000 3 (if good then 0 else 2) 1
        (natLe 2 t.fabric.manager)] := by
  have run : exec (.claim src gen) s = execClaim src gen s := rfl
  rw [judged] at h
  rw [Answers, run]
  simp only [execClaim, hrun, h]
  exact ⟨_, rfl, rfl, _, _, rfl⟩

/-! ## Port events -/

theorem portReport_of_manager {s : State} (kind : Nat) (src : W16) (port : Byte) (peer : W16) (hrun : halyard s = true)
    (hdev : s.fabric.device ≠ 0xFFFF) (hrole : s.fabric.role = 1) :
    portReport kind src port peer s = .next (emit s (.portevIn src.toNat kind port.toNat peer.toNat)) := by
  simp [portReport, hrun, hdev, hrole]

/-! ## The obligation -/

/-- Settles O51: each command by its equation above; what a standby sends as it takes over comes after its claim, which
stays in the messages out. -/
theorem rolesChange : Obligations.RolesChange := by
  intro src peer gen port s f role good reports hrun
  have report {i : Instr} {kind : Nat} (hexec : exec i s = portReport kind src port peer s) : reports i kind :=
    fun hdev hman => hexec.trans (portReport_of_manager kind src port peer hrun hdev hman)
  refine ⟨fun hstandby => ?timeout, exec_heartbeat src gen hrun, fun hgood => exec_claim hrun (judged_of_accepts hgood),
    fun hbad => exec_claim hrun (judged_of_not_accepts hbad), report rfl, report rfl, report rfl, report rfl⟩
  case timeout =>
    obtain ⟨e, os, asked⟩ := onlyAsked_queryJobs (emit (takenOver s) (.claim ((f.gen + 1) % 2 ^ 32)))
    refine ⟨_, (exec_heartbeatTimeout hrun hstandby).trans (congrArg _ asked), ?claimed, rfl⟩
    simp

end Sys2Proof.Machine
end
